-- ==== Sys2Proof/Word.lean ====
section
/-!
DEFINITION. Words, bytes, bit fields of naturals and the sparse maps that hold memories.
-/

namespace Sys2Proof

/-- A byte of memory. -/
abbrev Byte := BitVec 8

/-- A 32-bit register or parcel (R18, R53). -/
abbrev Word := BitVec 32

/-- A 64-bit register pair, address or counter (R20). -/
abbrev DWord := BitVec 64

/-- Bits `[lo + len - 1 : lo]` of a natural, as a natural. -/
def nbits (n lo len : Nat) : Nat := (n >>> lo) % 2 ^ len

/-- Bit `i` of a natural. -/
def nbit (n i : Nat) : Bool := (n >>> i) % 2 == 1

/-- The integer that `n` bits hold in two's complement. -/
def toSigned (w n : Nat) : Int := if n % 2 ^ w < 2 ^ (w - 1) then (n % 2 ^ w : Nat) else ((n % 2 ^ w : Nat) : Int) - (2 ^ w : Nat)

/-- The `w`-bit two's-complement pattern of an integer, as a natural. -/
def ofSigned (w : Nat) (i : Int) : Nat := (i % (2 ^ w : Nat)).toNat

/-- The wrap of an integer to `w` bits (R47). -/
def wrapInt (w : Nat) (i : Int) : Nat := ofSigned w i

/-- `1` for true, `0` for false. -/
def b2n (b : Bool) : Nat := if b then 1 else 0

/-- The lanes set in a mask, ascending, among the first `w`. -/
def maskLanes (w : Nat) (m : DWord) : List Nat := (List.range w).filter (fun i => m.getLsbD i)

/-- The mask of a list of lanes. -/
def lanesMask (l : List Nat) : DWord := l.foldl (fun m i => m ||| (1#64 <<< i)) 0#64

/-- The lowest lane of a mask, 64 when it is empty. -/
def lowLane (m : DWord) : Nat := ((maskLanes 64 m).head?).getD 64

/-- Round a natural up to a multiple of `k`. -/
def roundUp (k n : Nat) : Nat := ((n + k - 1) / k) * k

/-- The value at index `i`, or the default `d`. -/
def nth {α : Type} (d : α) (l : List α) (i : Nat) : α := l.getD i d

/-- Replace the value at index `i` by its image (nothing outside the list). -/
def modNth {α : Type} (l : List α) (i : Nat) (f : α → α) : List α := l.modify i f

/-- Insert a number into a rising list. -/
def insertNat (a : Nat) : List Nat → List Nat
  | [] => [a]
  | b :: t => if a ≤ b then a :: b :: t else b :: insertNat a t

/-- Sort a list of numbers, rising. -/
def sortNat (l : List Nat) : List Nat := l.foldr insertNat []

/-- A sparse map from naturals to values of `w` bits. Its canonical form lists keys strictly rising and no zero value,
since an unlisted key reads as zero. -/
abbrev Sparse (w : Nat) := List (Nat × BitVec w)

namespace Sparse

/-- The canonical form: keys strictly rising, no entry equal to what an unlisted key reads as. -/
def wf {w : Nat} : Sparse w → Bool
  | [] => true
  | [(_, v)] => v != 0
  | (k, v) :: (k', v') :: t => v != 0 && decide (k < k') && wf ((k', v') :: t)

/-- The value at a key; an unlisted key reads as zero. -/
def read {w : Nat} : Sparse w → Nat → BitVec w
  | [], _ => 0
  | (k, v) :: t, a => if a = k then v else if a < k then 0 else read t a

/-- Write a value at a key, keeping the canonical form. -/
def write {w : Nat} : Sparse w → Nat → BitVec w → Sparse w
  | [], a, x => if x = 0 then [] else [(a, x)]
  | (k, v) :: t, a, x =>
    if a < k then (if x = 0 then (k, v) :: t else (a, x) :: (k, v) :: t)
    else if a = k then (if x = 0 then t else (k, x) :: t)
    else (k, v) :: write t a x

/-- Write a list of values at rising keys. -/
def writeList {w : Nat} (m : Sparse w) (a : Nat) : List (BitVec w) → Sparse w
  | [] => m
  | x :: xs => writeList (m.write a x) (a + 1) xs

/-- Read `n` values from rising keys. -/
def readList {w : Nat} (m : Sparse w) (a : Nat) : Nat → List (BitVec w)
  | 0 => []
  | n + 1 => m.read a :: readList m (a + 1) n

end Sparse

/-- Bytes of memory by address: the form of `Host.Cell`. -/
abbrev Mem := Sparse 8

/-- The natural that a little-endian byte list holds (R7). -/
def leNat : List Byte → Nat
  | [] => 0
  | b :: t => b.toNat + 256 * leNat t

/-- The `n` little-endian bytes of a natural (R7). -/
def leBytes : Nat → Nat → List Byte
  | 0, _ => []
  | n + 1, v => BitVec.ofNat 8 v :: leBytes n (v / 256)

/-- The `n`-byte little-endian value at an address. -/
def Mem.nat (m : Mem) (a n : Nat) : Nat := leNat (Sparse.readList m a n)

/-- Store the `n` low bytes of a value at an address. -/
def Mem.putNat (m : Mem) (a n v : Nat) : Mem := Sparse.writeList m a (leBytes n v)

end Sys2Proof
end

