-- ==== Sys2Proof/Config.lean ====
section
/-!
DEFINITION. What one implementation fixes, and the free values: constants without a body, so that no proof can tell what they are.
-/

namespace Sys2Proof.Config

/-- A fresh free value for each value of the counter `draw` of the state. DESIGN CHOICE, log entry 2. -/
opaque freeValue : Nat → Nat

/-- How far the arithmetic clock advances in a step, by the free-value counter (R5). DESIGN CHOICE, log entry 2. -/
opaque clockStep : Nat → Nat

/-- How many nanoseconds a step takes, by the free-value counter (R269). DESIGN CHOICE, log entry 2. -/
opaque nsStep : Nat → Nat

/-- The module id in the fuses (R338). DESIGN CHOICE, log entry 8. -/
opaque moduleId : BitVec 8

/-- The stepping of the device (R210). DESIGN CHOICE, log entry 8. -/
opaque stepping : BitVec 16

/-- The instance of the device, unique within its load-store domain (R210). DESIGN CHOICE, log entry 8. -/
opaque instanceId : BitVec 16

/-- Which of the results within the bound of R104 the device gives: by opcode, format (64 times its width plus the width of its fraction) and input bits. DESIGN CHOICE, log entry 9. -/
opaque approxPick : Nat → Nat → Nat → Nat

/-- The steppings of a container's native sections (R283). DESIGN CHOICE, log entry 12. -/
opaque containerNatives : List (BitVec 8) → List Nat

/-- The ranks of the portable levels of each function of a container (R283). DESIGN CHOICE, log entry 12. -/
opaque containerLevels : List (BitVec 8) → List (List Nat)

/-- Does the system translator understand the portable level of a rank (R284)? DESIGN CHOICE, log entry 12. -/
opaque understands : Nat → Bool

/-- What the system translator makes of each function from the source chosen for it (R284): its directives as a list of numbers. DESIGN CHOICE, log entry 12. -/
opaque translate : List (BitVec 8) → List Nat → List (List Nat)

/-- The code that the system translator makes of a container from those sources (R284, R290). DESIGN CHOICE, log entry 12. -/
opaque translateCode : List (BitVec 8) → List Nat → List (BitVec 8)

/-- The firmware-reserved page, counted from the start of the die-local pool, that holds a load slot's code on a die (R290). DESIGN CHOICE, log entry 12. -/
opaque codePage : Nat → Nat → Nat

/-- Does a container's or an image's signature verify against a key (R350, R351)? DESIGN CHOICE, log entry 12. -/
opaque signatureOk : List (BitVec 8) → List (BitVec 8) → Bool

/-- The digests of the firmware images measured at bring-up, by measurement register and order (R351). DESIGN CHOICE, log entry 8. -/
opaque imageDigest : Nat → Nat → BitVec 512

/-- The digest of the repair map as applied (R330, R351), whose layout the manual does not give. DESIGN CHOICE, log entry 8. -/
opaque mapDigest : List (Nat × Nat × Nat × Nat) → BitVec 512

/-- Does a firmware image's signature verify, by measurement register and order (R350)? DESIGN CHOICE, log entry 8. -/
opaque imageSigned : Nat → Nat → Bool

/-- A firmware image's security version, by measurement register and order (R350). DESIGN CHOICE, log entry 8. -/
opaque imageVersion : Nat → Nat → Nat

/-- Does the work of a bring-up step succeed, by the free-value counter and the step: the links of step 2, the ports of 3, the training of 4, the core test of 6 (R356)? DESIGN CHOICE,
log entry 8. -/
opaque stepOk : Nat → Nat → Bool

/-- The STATUS that the mailbox shows when that work fails (R356). DESIGN CHOICE, log entry 8. -/
opaque stepStatus : Nat → Nat

/-- The device certificate chain (R349). DESIGN CHOICE, log entry 12. -/
opaque certificate : List (BitVec 8)

/-- The ML-DSA-87 signature of the identity key over a report (R353). DESIGN CHOICE, log entry 12. -/
opaque sign : List (BitVec 8) → List (BitVec 8)

/-- The fused minimum security version (R350). DESIGN CHOICE, log entry 8. -/
opaque securityVersion : BitVec 32

/-- The answer of the controller to an SPDM message with IDE_KM (R352): the response, and if any the stream whose key it establishes with the key. DESIGN CHOICE, log entry 12. -/
opaque spdm : List (BitVec 8) → List (BitVec 8) × Option (Nat × List (BitVec 8))

/-- The domain window at the target (R133): for a source module and an offset the physical address, the write permission, and whether the page is a
majority page; none when the translation fails. DESIGN CHOICE, log entry 12. DESIGN CHOICE, log entry 24. -/
opaque domainWindow : Nat → Nat → Option (Nat × Bool × Bool)

/-- Host address translation by ATS (R134): is the page of a function's address translated, and is it writable? DESIGN CHOICE, log entry 12. -/
opaque atsAnswer : Nat → Nat → Option Bool

/-- The copies of a majority line that answer an access within 20 µs, in the order of their answers, by the free-value counter and the line (R300). DESIGN CHOICE, log entry 76. -/
opaque copyOrder : Nat → Nat → List Nat

/-- The host's answer to a load or store: the bytes that its memory holds where the module has not written. DESIGN CHOICE, log entry 4. -/
opaque hostByte : Nat → BitVec 8

/-- Whether a fused multiply-add of ∞ × 0 + NaN signals invalid, which IEEE 754-2019 leaves to the implementation (R43, R44). DESIGN CHOICE, log entry 75. -/
opaque fmaNanInvalid : Bool

end Sys2Proof.Config
end

