-- ==== Sys2Proof/Machine/Float.lean ====
section
/-!
DEFINITION. Floating-point values and their rounding (R38, R43 to R46, R48): formats, exact arithmetic on dyadic numbers, and one rounding at
the end.
-/

namespace Sys2Proof.Machine

/-- A floating-point value: NaN, an infinity with its sign, or the finite number ±m·2^e (a zero keeps its sign). -/
inductive Num where
  | nan
  | inf (s : Bool)
  | fin (s : Bool) (m : Nat) (e : Int)
  deriving DecidableEq, Repr

/-- The special encodings of a format (R38): none, only NaN at all ones, or infinities and NaNs in the IEEE manner. -/
inductive Specials where
  | none | nanOnly | ieee
  deriving DecidableEq, Repr

/-- A floating-point format (R38): exponent bits, fraction bits, bias, special encodings. -/
structure FFmt where
  w : Nat
  mb : Nat
  bias : Nat
  sp : Specials
  deriving DecidableEq, Repr

namespace FFmt
/-- FP64. -/
def f64 : FFmt := ⟨11, 52, 1023, .ieee⟩
/-- FP32. -/
def f32 : FFmt := ⟨8, 23, 127, .ieee⟩
/-- BF16. -/
def bf16 : FFmt := ⟨8, 7, 127, .ieee⟩
/-- FP16. -/
def f16 : FFmt := ⟨5, 10, 15, .ieee⟩
/-- E4M3. -/
def e4m3 : FFmt := ⟨4, 3, 7, .nanOnly⟩
/-- E5M2. -/
def e5m2 : FFmt := ⟨5, 2, 15, .ieee⟩
/-- E3M2. -/
def e3m2 : FFmt := ⟨3, 2, 3, .none⟩
/-- E2M3. -/
def e2m3 : FFmt := ⟨2, 3, 1, .none⟩
/-- E2M1. -/
def e2m1 : FFmt := ⟨2, 1, 1, .none⟩

/-- The float format of a code (R36); none for INT8, CB4, INT32 and the reserved codes. -/
def ofCode (c : Nat) : Option FFmt :=
  match c with
  | 0 => some f32 | 1 => some bf16 | 2 => some f16 | 3 => some e4m3 | 4 => some e5m2 | 5 => some e3m2 | 6 => some e2m3
  | 7 => some e2m1 | 0xB => some f64 | _ => none

/-- Does FTZ reach this format: FP64, FP32, FP16, BF16 (R45)? -/
def flushes (f : FFmt) : Bool := f == f64 || f == f32 || f == bf16 || f == f16

/-- The number of bits of the format. -/
def bits (f : FFmt) : Nat := 1 + f.w + f.mb

/-- The magnitude code of the largest finite value. -/
def maxCode (f : FFmt) : Nat :=
  match f.sp with
  | .none => 2 ^ (f.w + f.mb) - 1
  | .nanOnly => 2 ^ (f.w + f.mb) - 2
  | .ieee => (2 ^ f.w - 1) * 2 ^ f.mb - 1

/-- The canonical NaN of a format that has one (R44). -/
def nanCode (f : FFmt) : Nat :=
  match f.sp with
  | .nanOnly => 2 ^ (f.w + f.mb) - 1
  | _ => (2 ^ f.w - 1) * 2 ^ f.mb + 2 ^ (f.mb - 1)

/-- The magnitude code of infinity. -/
def infCode (f : FFmt) : Nat := (2 ^ f.w - 1) * 2 ^ f.mb

/-- The sign bit of an encoding. -/
def sign (f : FFmt) (x : Nat) : Bool := nbit x (f.w + f.mb)

/-- The encoding with a sign. -/
def withSign (f : FFmt) (s : Bool) (c : Nat) : Nat := b2n s * 2 ^ (f.w + f.mb) + c

/-- The value of an encoding (R38), without FTZ. -/
def read (f : FFmt) (x : Nat) : Num :=
  let s := f.sign x; let c := x % 2 ^ (f.w + f.mb); let e := c / 2 ^ f.mb; let m := c % 2 ^ f.mb
  if f.sp = .ieee && e == 2 ^ f.w - 1 then (if m == 0 then .inf s else .nan)
  else if f.sp = .nanOnly && c == 2 ^ (f.w + f.mb) - 1 then .nan
  else if e == 0 then .fin s m (1 - (f.bias : Int) - f.mb)
  else .fin s (2 ^ f.mb + m) ((e : Int) - f.bias - f.mb)

/-- Is an encoding subnormal? -/
def isSub (f : FFmt) (x : Nat) : Bool :=
  let c := x % 2 ^ (f.w + f.mb); c != 0 && c < 2 ^ f.mb

/-- The value of an encoding under FTZ (R45): a subnormal reads as zero of its sign. -/
def readZ (f : FFmt) (ftz : Bool) (x : Nat) : Num :=
  if ftz && f.flushes && f.isSub x then .fin (f.sign x) 0 0 else f.read x

end FFmt

/-- The IEEE exceptions that an operation signals: invalid, division by zero, overflow (R46); underflow for the bands (R50). -/
structure Exc where
  inv : Bool := false
  dz : Bool := false
  of : Bool := false
  uf : Bool := false
  deriving DecidableEq, Repr

/-- The exceptions of two steps together. -/
def Exc.or (a b : Exc) : Exc := ⟨a.inv || b.inv, a.dz || b.dz, a.of || b.of, a.uf || b.uf⟩

/-- Does an exception trap under FTE (R28, R46)? Underflow and inexact never do. -/
def Exc.traps (x : Exc) : Bool := x.inv || x.dz || x.of

/-- The rounding modes (R43), in the order of `fmt.RM`, and nearest with ties away from zero for `rnd` (R103). -/
inductive RMode where
  | rne | rtz | rup | rdn | rna
  deriving DecidableEq, Repr

/-- The mode that `fmt.RM` holds (R28). -/
def RMode.ofRM (n : Nat) : RMode := match n % 4 with | 0 => .rne | 1 => .rtz | 2 => .rup | _ => .rdn

/-- Round the quotient of `n` by `2^k` to an integer: the sign matters to the directed modes. -/
def roundShift (rm : RMode) (s : Bool) (n k : Nat) : Nat :=
  let q := n / 2 ^ k; let r := n % 2 ^ k; let h := 2 ^ k
  let up := match rm with
    | .rne => 2 * r > h || (2 * r == h && q % 2 == 1)
    | .rna => 2 * r ≥ h
    | .rtz => false
    | .rup => !s && r != 0
    | .rdn => s && r != 0
  if up then q + 1 else q

/-- ⌊log₂ |x|⌋ of a nonzero m·2^e. -/
def ilog (m : Nat) (e : Int) : Int := (Nat.log2 m : Int) + e

/-- The magnitude code of ±m·2^e rounded in a format, which may exceed the largest finite code: one rounding, subnormals included. -/
def roundCode (f : FFmt) (rm : RMode) (s : Bool) (m : Nat) (e : Int) : Nat :=
  if m = 0 then 0
  else
    let emin : Int := 1 - (f.bias : Int)
    let q : Int := max (ilog m e) emin - f.mb
    let n := if q ≤ e then m * 2 ^ (e - q).toNat else roundShift rm s m (q - e).toNat
    ((q + f.mb + f.bias - 1).toNat) * 2 ^ f.mb + n

/-- Is the result of an overflow infinity, rather than the largest finite value, in a rounding mode (R48)? -/
def overInf (rm : RMode) (s : Bool) : Bool :=
  match rm with | .rne => true | .rna => true | .rtz => false | .rup => !s | .rdn => s

/-- A value rounded and written in a float format (R43, R44, R48): RM, saturation and FTZ. A NaN signals invalid only where the format has
none; an infinity that the format lacks signals invalid. -/
def writeF (f : FFmt) (rm : RMode) (sat ftz : Bool) (x : Num) : Nat × Exc :=
  match x with
  | .nan => if f.sp = .none then (0, { inv := true }) else (f.nanCode, {})
  | .inf s =>
    match f.sp with
    | .ieee => (f.withSign s f.infCode, {})
    | .nanOnly => (if sat then f.withSign s f.maxCode else f.nanCode, { inv := true })
    | .none => (f.withSign s f.maxCode, { inv := true })
  | .fin s m e =>
    let c := roundCode f rm s m e
    if c > f.maxCode then
      let r := match f.sp with
        | .none => f.withSign s f.maxCode
        | .nanOnly => if sat || !overInf rm s then f.withSign s f.maxCode else f.nanCode
        | .ieee => f.withSign s (if sat || !overInf rm s then f.maxCode else f.infCode)
      (r, { of := true })
    else if c != 0 && c < 2 ^ f.mb then
      (f.withSign s (if ftz && f.flushes then 0 else c), { uf := true })
    else (f.withSign s c, {})

namespace Num

/-- The value negated. -/
def neg : Num → Num
  | .nan => .nan | .inf s => .inf (!s) | .fin s m e => .fin (!s) m e

/-- The magnitude. -/
def abs : Num → Num
  | .nan => .nan | .inf _ => .inf false | .fin _ m e => .fin false m e

/-- Is the value NaN? -/
def isNan : Num → Bool
  | .nan => true | _ => false

/-- Is the value infinite? -/
def isInf : Num → Bool
  | .inf _ => true | _ => false

/-- Is the value ±0? -/
def isZero : Num → Bool
  | .fin _ m _ => m == 0 | _ => false

/-- The sign of a value. -/
def sgn : Num → Bool
  | .nan => false | .inf s => s | .fin s _ _ => s

/-- The value times 2^k, exactly. -/
def scale (k : Int) : Num → Num
  | .fin s m e => .fin s m (e + k) | x => x

/-- The exact value of an integer. -/
def ofInt (i : Int) : Num := .fin (i < 0) i.natAbs 0

/-- The signed integer ±m aligned to exponent `e0 ≤ e`. -/
def align (s : Bool) (m : Nat) (e e0 : Int) : Int :=
  let n : Int := ((m * 2 ^ (e - e0).toNat : Nat) : Int); if s then -n else n

/-- Compare two finite values: less, equal or greater as −1, 0, 1. -/
def cmpFin (s1 : Bool) (m1 : Nat) (e1 : Int) (s2 : Bool) (m2 : Nat) (e2 : Int) : Int :=
  let e := min e1 e2; let a := align s1 m1 e1 e; let b := align s2 m2 e2 e
  if a < b then -1 else if a = b then 0 else 1

/-- Compare two values that are not NaN (±0 are equal). -/
def cmp (x y : Num) : Int :=
  match x, y with
  | .inf s, .inf t => if s == t then 0 else if s then -1 else 1
  | .inf s, _ => if s then -1 else 1
  | _, .inf t => if t then 1 else -1
  | .fin s m e, .fin t n g => cmpFin s m e t n g
  | _, _ => 0

/-- Ordered and less. -/
def lt (x y : Num) : Bool := !x.isNan && !y.isNan && x.cmp y == -1

/-- Ordered and less or equal. -/
def le (x y : Num) : Bool := !x.isNan && !y.isNan && x.cmp y != 1

/-- Ordered and equal. -/
def eq (x y : Num) : Bool := !x.isNan && !y.isNan && x.cmp y == 0

/-- The exact product. Infinity times zero is NaN and invalid. -/
def mul (x y : Num) : Num × Bool :=
  match x, y with
  | .nan, _ => (.nan, false)
  | _, .nan => (.nan, false)
  | .inf s, .inf t => (.inf (s != t), false)
  | .inf s, .fin t n _ => if n = 0 then (.nan, true) else (.inf (s != t), false)
  | .fin s m _, .inf t => if m = 0 then (.nan, true) else (.inf (s != t), false)
  | .fin s m e, .fin t n g => (.fin (s != t) (m * n) (e + g), false)

/-- The exact sum. A zero sum of unlike signs is +0, or −0 when rounding toward −∞; infinities of unlike signs give NaN and invalid. -/
def add (rm : RMode) (x y : Num) : Num × Bool :=
  match x, y with
  | .nan, _ => (.nan, false)
  | _, .nan => (.nan, false)
  | .inf s, .inf t => if s == t then (.inf s, false) else (.nan, true)
  | .inf s, _ => (.inf s, false)
  | _, .inf t => (.inf t, false)
  | .fin s m e, .fin t n g =>
    let q := min e g; let i := align s m e q + align t n g q
    if i = 0 then (.fin (if m = 0 && n = 0 && s == t then s else rm == .rdn) 0 0, false)
    else (.fin (i < 0) i.natAbs q, false)

/-- The exact sum of a list (R113, R139, R49): NaN if any is NaN, or if both infinities stand in it. -/
def sum (rm : RMode) (l : List Num) : Num × Bool :=
  if l.any isNan then (.nan, false)
  else if l.any (fun x => x == .inf false) && l.any (fun x => x == .inf true) then (.nan, true)
  else
    match l with
    | [] => (.fin false 0 0, false)
    | x :: t => t.foldl (fun acc y => ((add rm acc.1 y).1, acc.2)) (x, false)

/-- The IEEE minimum (`mx` false) or maximum of R103: NaN propagates, −0 < +0. -/
def minmax (mx : Bool) (x y : Num) : Num :=
  if x.isNan || y.isNan then .nan
  else if x.isZero && y.isZero then (if mx then .fin (x.sgn && y.sgn) 0 0 else .fin (x.sgn || y.sgn) 0 0)
  else if (x.cmp y == -1) != mx then x else y

/-- minimumNumber or maximumNumber (R43): a single NaN yields the other value. -/
def minmaxNum (mx : Bool) (x y : Num) : Num :=
  if x.isNan then y else if y.isNan then x else minmax mx x y

/-- An exact quotient of naturals as m·2^e with a sticky last bit, precise enough for any rounding here. -/
def quot (m n : Nat) : Nat × Int :=
  let k := 256 + Nat.log2 n
  let q := m * 2 ^ k / n; let r := m * 2 ^ k % n
  (2 * q + (if r = 0 then 0 else 1), -(k : Int) - 1)

/-- The quotient with IEEE special cases; the second component says invalid, the third division by zero. -/
def div (x y : Num) : Num × Bool × Bool :=
  match x, y with
  | .nan, _ => (.nan, false, false)
  | _, .nan => (.nan, false, false)
  | .inf _, .inf _ => (.nan, true, false)
  | .inf s, .fin t _ _ => (.inf (s != t), false, false)
  | .fin s _ _, .inf t => (.fin (s != t) 0 0, false, false)
  | .fin s m e, .fin t n g =>
    if n = 0 then (if m = 0 then (.nan, true, false) else (.inf (s != t), false, true))
    else if m = 0 then (.fin (s != t) 0 0, false, false)
    else let (q, k) := quot m n; (.fin (s != t) q (e - g + k), false, false)

/-- The integer square root, by the bits of the result from bit `k` down. -/
def isqrtFrom (n : Nat) : Nat → Nat → Nat
  | 0, r => if (r + 1) * (r + 1) ≤ n then r + 1 else r
  | k + 1, r => let c := r + 2 ^ (k + 1); isqrtFrom n k (if c * c ≤ n then c else r)

/-- The integer square root. -/
def isqrt (n : Nat) : Nat := isqrtFrom n (Nat.log2 n / 2 + 1) 0

/-- The square root of a positive m·2^e with a sticky last bit. -/
def sqrtPos (m : Nat) (e : Int) : Nat × Int :=
  let (m1, e1) := if e % 2 = 0 then (m, e) else (2 * m, e - 1)
  let n := m1 * 2 ^ 512; let r := isqrt n
  (2 * r + (if r * r = n then 0 else 1), (e1 - 512) / 2 - 1)

/-- The value rounded to an integer in a mode, as a value with the sign kept. -/
def toIntegral (rm : RMode) : Num → Num
  | .fin s m e => if e ≥ 0 then .fin s m e else .fin s (roundShift rm s m (-e).toNat) 0
  | x => x

/-- The integer part of a finite value, rounded in a mode. -/
def toInt (rm : RMode) : Num → Int
  | .fin s m e =>
    let n : Nat := if e ≥ 0 then m * 2 ^ e.toNat else roundShift rm s m (-e).toNat
    if s then -(n : Int) else n
  | _ => 0

/-- ⌊log₂ |x|⌋ of a finite nonzero value (R52). -/
def exp? : Num → Option Int
  | .fin _ m e => if m = 0 then none else some (ilog m e)
  | _ => none

end Num

end Sys2Proof.Machine
end

