-- ==== Sys2Proof/Syntax.lean ====
section
/-!
DEFINITION. The instructions and events of the module: the parts of a tree (R53 to R70), one constructor for each row of the table
of operations and events, and the opcode map (R74).
-/

namespace Sys2Proof

/-- The test opcodes of R61, in the order of their codes 0x00 to 0x1F. -/
inductive TestOp where
  | eq | ne | lt | le | gt | ge | ult | ule | ugt | uge | one | ueq | ord | uno | isnan | isinf | isfin | issub | isnorm | iszero
  | isneg | btst | all | any | inr | inrc | mlt | mle | sgneq | pow2 | full | true
  deriving DecidableEq, Repr

/-- The code of a test opcode (R61). -/
def TestOp.code (t : TestOp) : Nat := t.ctorIdx

/-- The test opcodes in the order of their codes (R61). -/
def TestOp.list : List TestOp :=
  [.eq, .ne, .lt, .le, .gt, .ge, .ult, .ule, .ugt, .uge, .one, .ueq, .ord, .uno, .isnan, .isinf, .isfin, .issub, .isnorm, .iszero,
   .isneg, .btst, .all, .any, .inr, .inrc, .mlt, .mle, .sgneq, .pow2, .full, .true]

/-- The operand types of a test (R62), in the order of TTY 0 to 7. -/
inductive TType where
  | s32 | n32 | f32 | f64 | s64 | n64 | bf16 | f16
  deriving DecidableEq, Repr

/-- The code of a test type (R62). -/
def TType.code (t : TType) : Nat := t.ctorIdx

/-- The test types in the order of TTY (R62). -/
def TType.list : List TType := [.s32, .n32, .f32, .f64, .s64, .n64, .bf16, .f16]

/-- A test parcel (R60): `bi` says that B is an immediate, `inv` inverts the outcome, and the last two are the full/empty policies. -/
structure Test where
  op : TestOp
  tty : TType
  a : BitVec 8
  b : BitVec 8
  bi : Bool
  inv : Bool
  fea : Bool
  feb : Bool
  deriving DecidableEq, Repr

/-- The 62-bit payload of an operation pair without its opcode (R63); `m` is P[14:5]. -/
structure Payload where
  arc : BitVec 4
  var : BitVec 3
  d : BitVec 8
  a : BitVec 8
  b : BitVec 8
  c : BitVec 8
  m : BitVec 10
  fea : Bool
  feb : Bool
  fec : Bool
  deriving DecidableEq, Repr

namespace Payload
/-- NA of R63: negate A. -/
def na (p : Payload) : Bool := p.m.getLsbD 9
/-- AA of R63: absolute value of A. -/
def aa (p : Payload) : Bool := p.m.getLsbD 8
/-- NB of R63. -/
def nb (p : Payload) : Bool := p.m.getLsbD 7
/-- AB of R63. -/
def ab (p : Payload) : Bool := p.m.getLsbD 6
/-- NC of R63. -/
def nc (p : Payload) : Bool := p.m.getLsbD 5
/-- AC of R63. -/
def ac (p : Payload) : Bool := p.m.getLsbD 4
/-- CLP of R63: clamp the destination. -/
def clp (p : Payload) : Bool := p.m.getLsbD 3
/-- SCL of R63 as the signed exponent −4 to +3. -/
def scl (p : Payload) : Int := toSigned 3 (p.m.toNat % 8)
/-- IMM of R121: the signed displacement in P[14:5]. -/
def imm (p : Payload) : Int := toSigned 10 p.m.toNat
/-- The band number in P[12:5] (R151). -/
def band (p : Payload) : Nat := p.m.toNat % 256
/-- VAR as a natural. -/
def v (p : Payload) : Nat := p.var.toNat
end Payload

/-- The kinds of leaf (R68), in the order of KIND 0 to 7. -/
inductive LeafKind where
  | next | branch | branchInd | call | callInd | ret | exit | brk
  deriving DecidableEq, Repr

/-- The leaf kinds in the order of KIND (R68). -/
def LeafKind.list : List LeafKind := [.next, .branch, .branchInd, .call, .callInd, .ret, .exit, .brk]

/-- The code of a leaf kind (R68). -/
def LeafKind.code (k : LeafKind) : Nat := k.ctorIdx

/-- A leaf parcel (R68). -/
structure Leaf where
  kind : LeafKind
  pop : BitVec 4
  off : BitVec 24
  deriving DecidableEq, Repr

/-- The parts of an instruction around its one operation: the header's STALL and U, the single leaf and the literal pool. -/
structure Head where
  stall : BitVec 4
  uni : Bool
  leaf : Leaf
  lits : List Word
  deriving DecidableEq, Repr

/-- One operation of a tree: its opcode number (R74) and payload. -/
structure Op where
  opc : BitVec 8
  p : Payload
  deriving DecidableEq, Repr

/-- A tree instruction (R55 to R59): bit `k` of `tmask` stands for position `k + 1`; tests and leaves stand in ascending position. -/
structure Tree where
  stall : BitVec 4
  uni : Bool
  tmask : BitVec 7
  tests : List Test
  ops : List Op
  leaves : List Leaf
  lits : List Word
  deriving DecidableEq, Repr

/-- What the target of an access answers, for the events that bring an answer: the check value of the data failed at an exit point
(R324), the majority copies that respond (R131), and an error answer of the host: cause 0x05 or 0x0C, or 0 for none (R134). -/
structure Resp where
  crcFail : Bool := false
  copies : List Nat := [0, 1, 2, 3, 4, 5, 6, 7]
  hostErr : Nat := 0
  deriving DecidableEq, Repr

/-- Which write is performed: a transaction in flight by its number, the stored bytes of a line held in a core's L1 (R291), or the scratchpad
stores of a wave of a team (R243). -/
inductive WSel where
  | flight (id : Nat) (r : Resp)
  | line (core pa : Nat)
  | scratch (t w : Nat)
  deriving DecidableEq, Repr

/-- What an error report carries (R331). -/
structure ErrInfo where
  cls : Nat
  loc : Nat
  addr : Nat
  deriving DecidableEq, Repr

/-- A transaction on the fabric (R344): TYPE, DST, SRC, LANE, TAG, HOPS, AOP, STATUS, ADDR, the byte mask and the 128 bytes that it carries with their check value, whether
their slots are marked poisoned (R324), and the port that it arrives by. -/
structure Txn where
  typ : Nat
  dst : Nat
  src : Nat
  lane : Nat
  tag : Nat
  hops : Nat := 0
  aop : Nat := 0
  status : Nat := 0
  addr : Nat
  mask : Nat := 0
  data : Nat := 0
  cv : Nat := 0
  pois : Bool := false
  port : Nat := 0
  deriving DecidableEq, Repr

/-- A launch that arrives with a migrated context (R282): its Logbook record and entry as numbers, its parameters, the next team to dispatch and the teams that have exited. -/
structure MovedLaunch where
  record : Nat
  entry : Nat
  params : List Nat := []
  next : Nat := 0
  exited : List Nat := []
  deriving DecidableEq, Repr

/-- What arrives with a migrated context (R282): the capability class of the module it comes from, its unfinished launches, and the save slots that hold images of its teams. -/
structure MoveIn where
  cls : Nat
  launches : List MovedLaunch := []
  slots : List Nat := []
  deriving DecidableEq, Repr

/-- A migration (R282): the context that moves, and what arrives with it, or nothing when it leaves. -/
structure Migration where
  ctx : Nat
  arrive : Option MoveIn := none
  deriving DecidableEq, Repr

/-- A lane of a port that fails (R345): lane 8 is the spare; `errs` are its FEC symbol errors over 1 s, none when it failed training. -/
structure LaneFail where
  lane : Nat
  errs : Option Nat := none
  deriving DecidableEq, Repr

/-- A host access to BAR2 (R347): the function, the offset, and for an AtomicOp (R346) which: 0 FetchAdd, 1 Swap, 2 CAS. -/
structure HostAccess where
  fn : Nat := 0
  off : Nat
  atom : Option Nat := none
  deriving DecidableEq, Repr

/-- A flit (R343): whether its FEC codeword is good, SEQ, ACK, KIND, the transactions in its slots, the slot credits CREQ and CRSP that it returns, and its CRC. -/
structure Flit where
  ok : Bool
  seq : Nat
  ack : Nat
  kind : Nat
  txns : List Txn := []
  creq : Nat := 0
  crsp : Nat := 0
  crc : Nat := 0
  deriving DecidableEq, Repr


/-- The instructions and events of the module: one constructor for each row of the table of operations and events. A row of the opcode
map (R74) is an instruction of one operation and no test, whose single leaf may be of any kind; every other tree is
`treeInstruction`. The remaining rows are the steps of the agents around the issuing groups. -/
inductive Instr where
  | treeInstruction (t : Tree)
  | stallExpiry (t w slot : Nat)
  | yieldExpiry (t w slot : Nat)
  | mov (h : Head) (p : Payload)
  | add (h : Head) (p : Payload)
  | sub (h : Head) (p : Payload)
  | mul (h : Head) (p : Payload)
  | mulhi (h : Head) (p : Payload)
  | mad (h : Head) (p : Payload)
  | div (h : Head) (p : Payload)
  | rem (h : Head) (p : Payload)
  | min (h : Head) (p : Payload)
  | max (h : Head) (p : Payload)
  | addSat (h : Head) (p : Payload)
  | subSat (h : Head) (p : Payload)
  | lea (h : Head) (p : Payload)
  | prmt (h : Head) (p : Payload)
  | sel (h : Head) (p : Payload)
  | and (h : Head) (p : Payload)
  | or (h : Head) (p : Payload)
  | xor (h : Head) (p : Payload)
  | andn (h : Head) (p : Payload)
  | not (h : Head) (p : Payload)
  | shl (h : Head) (p : Payload)
  | shr (h : Head) (p : Payload)
  | rot (h : Head) (p : Payload)
  | bfe (h : Head) (p : Payload)
  | bfi (h : Head) (p : Payload)
  | popc (h : Head) (p : Payload)
  | clz (h : Head) (p : Payload)
  | ctz (h : Head) (p : Payload)
  | brev (h : Head) (p : Payload)
  | fma (h : Head) (p : Payload)
  | dot2 (h : Head) (p : Payload)
  | fmin (h : Head) (p : Payload)
  | fmax (h : Head) (p : Payload)
  | rcp (h : Head) (p : Payload)
  | rsq (h : Head) (p : Payload)
  | sqrt (h : Head) (p : Payload)
  | exp2 (h : Head) (p : Payload)
  | log2 (h : Head) (p : Payload)
  | sin (h : Head) (p : Payload)
  | cos (h : Head) (p : Payload)
  | tanh (h : Head) (p : Payload)
  | rnd (h : Head) (p : Payload)
  | frac (h : Head) (p : Payload)
  | ldexp (h : Head) (p : Payload)
  | sgn (h : Head) (p : Payload)
  | cvt (h : Head) (p : Payload)
  | cvtpk (h : Head) (p : Payload)
  | cvtun (h : Head) (p : Payload)
  | cvtmx (h : Head) (p : Payload)
  | fclass (h : Head) (p : Payload)
  | fbin (h : Head) (p : Payload)
  | fscale (h : Head) (p : Payload)
  | fcross (h : Head) (p : Payload)
  | node (h : Head) (p : Payload)
  | lacc (h : Head) (p : Payload)
  | link (h : Head) (p : Payload)
  | lds (h : Head) (p : Payload)
  | ldsWriteback (t id : Nat)
  | sts (h : Head) (p : Payload)
  | ldt (h : Head) (p : Payload)
  | stt (h : Head) (p : Payload)
  | ldg (h : Head) (p : Payload)
  | stg (h : Head) (p : Payload)
  | ldm (h : Head) (p : Payload)
  | stm (h : Head) (p : Payload)
  | ldr (h : Head) (p : Payload)
  | str (h : Head) (p : Payload)
  | ldh (h : Head) (p : Payload)
  | sth (h : Head) (p : Payload)
  | atms (h : Head) (p : Payload)
  | atmg (h : Head) (p : Payload)
  | atmr (h : Head) (p : Payload)
  | mcas (h : Head) (p : Payload)
  | sred (h : Head) (p : Payload)
  | smv (h : Head) (p : Payload)
  | cpy1d (h : Head) (p : Payload)
  | cpyE (h : Head) (p : Payload)
  | idxg (h : Head) (p : Payload)
  | idxgSt (h : Head) (p : Payload)
  | idxs (h : Head) (p : Payload)
  | idxsSt (h : Head) (p : Payload)
  | fqplay (h : Head) (p : Payload)
  | bput (h : Head) (p : Payload)
  | bplay (h : Head) (p : Payload)
  | wlpush (h : Head) (p : Payload)
  | wlins (h : Head) (p : Payload)
  | wlpop (h : Head) (p : Payload)
  | wlstat (h : Head) (p : Payload)
  | barInit (h : Head) (p : Payload)
  | barArr (h : Head) (p : Payload)
  | barArrM (h : Head) (p : Payload)
  | barExp (h : Head) (p : Payload)
  | watchA (h : Head) (p : Payload)
  | watchC (h : Head) (p : Payload)
  | qword (h : Head) (p : Payload)
  | tfill (h : Head) (p : Payload)
  | tcls (h : Head) (p : Payload)
  | tqry (h : Head) (p : Payload)
  | gang (h : Head) (p : Payload)
  | mma (h : Head) (p : Payload)
  | mmx (h : Head) (p : Payload)
  | mmld (h : Head) (p : Payload)
  | mmst (h : Head) (p : Payload)
  | mmz (h : Head) (p : Payload)
  | mmstat (h : Head) (p : Payload)
  | cbld (h : Head) (p : Payload)
  | seal (h : Head) (p : Payload)
  | hdrop (h : Head) (p : Payload)
  | fmt (h : Head) (p : Payload)
  | fmtM (h : Head) (p : Payload)
  | shfl (h : Head) (p : Payload)
  | vote (h : Head) (p : Payload)
  | redux (h : Head) (p : Payload)
  | bcast (h : Head) (p : Payload)
  | barWait (h : Head) (p : Payload)
  | phaseRel (h : Head) (p : Payload)
  | phaseAcq (h : Head) (p : Payload)
  | publish (h : Head) (p : Payload)
  | qfence (h : Head) (p : Payload)
  | trap (h : Head) (p : Payload)
  | bkpt (h : Head) (p : Payload)
  | nopre (h : Head) (p : Payload)
  | pre (h : Head) (p : Payload)
  | capq (h : Head) (p : Payload)
  | sread (h : Head) (p : Payload)
  | swrite (h : Head) (p : Payload)
  | eret (h : Head) (p : Payload)
  | eretExit (h : Head) (p : Payload)
  | lget (h : Head) (p : Payload)
  | lset (h : Head) (p : Payload)
  | yield (h : Head) (p : Payload)
  | loadDataArrival (id : Nat) (r : Resp)
  | pageWalkComplete (core ctx page : Nat)
  | writePerformed (w : WSel)
  | majorityResponseTimeout (id copy : Nat)
  | copyEngineTurn (core : Nat)
  | indexEngineTurn (core : Nat)
  | binEngineTurn (core : Nat)
  | bplayPerform (core : Nat)
  | worklistEngineTurn (core : Nat)
  | worklistFrontDrain (t : Nat)
  | stackEngineSmv (t : Nat)
  | sredPerform (id : Nat)
  | matrixJointOperation (core : Nat)
  | mmldPerform (core : Nat)
  | mmstPerform (core : Nat)
  | cbldComplete (core : Nat)
  | fqheadAdvance (ctx head : Nat)
  | faultVerdictResolved (ctx page : Nat) (replay : List Nat)
  | faultVerdictRefused (ctx page : Nat)
  | tlbInvalidate (ctx lo hi : Nat)
  | regionWatchdog (t w : Nat)
  | teamPark (t : Nat)
  | teamRestoreParked (t : Nat)
  | debugStop (t : Nat)
  | debugResume (t : Nat)
  | singleStep (t w lane : Nat)
  | stepWave (t w : Nat)
  | debugPass (t w slot : Nat)
  | debugDeliver (t w slot : Nat)
  | launchAccept (q : Nat)
  | queueRestart (q : Nat)
  | queueRegister (q addr : Nat)
  | contextRegister (ctx addr fn : Nat)
  | waitCounterCheck (q : Nat)
  | queueAgeBoost (q : Nat)
  | teamDispatch (core : Nat) (quads : List Nat)
  | preemptTeam (t : Nat)
  | preemptRequest (ctx : Nat)
  | launchRetire (serial : Nat)
  | launchCancel (serial : Nat)
  | contextMigrate (ctx : Migration)
  | containerLoad (addr size : Nat)
  | containerUnload (h : Nat)
  | trackRange (lo hi fmt : Nat)
  | untrackRange (lo hi : Nat)
  | majoritySetWrite (k : Nat) (e : List Nat)
  | majorityCopyMove (k copy base : Nat)
  | scrub (k : Nat)
  | correctedError (e : ErrInfo)
  | uncorrectedMemoryError (e : ErrInfo)
  | stateLoss (core : Nat) (e : ErrInfo)
  | coreRetireDrain (core : Nat)
  | channelRepair (stack chan : Nat)
  | infieldTest (core : Nat)
  | infieldTestComplete (core : Nat) (pass : Bool)
  | cmdQuiesce (die : Nat)
  | cmdRelease (die : Nat)
  | cmdComputeReset (die : Nat)
  | cmdPowerOff (die : Nat)
  | cmdPowerOn (die : Nat)
  | dieDrained (die : Nat)
  | dieWatchdog (die : Nat)
  | dieResetComplete (die : Nat) (pass : Bool)
  | epsFlagClear (die bits : Nat)
  | islandReset
  | islandResetComplete
  | routeWrite (k v : Nat)
  | routeLaneChangeover (k lane : Nat)
  | flitReceive (port : Nat) (f : Flit)
  | fabricTransaction (f : Txn)
  | laneSpare (port : Nat) (lane : LaneFail)
  | portRetrain (port : Nat)
  | bar2Write (at_ : HostAccess) (data : List Nat)
  | bar2Read (at_ : HostAccess) (size : Nat)
  | controlRegisterWrite (off v : Nat)
  | attestationReport
  | extendRegister
  | addContainerKey
  | readCertificateChain
  | ideKeyExchange
  | mailboxBadCommand (cmd : Nat)
  | mailboxRefusedClear
  | shutter (alarm : Nat)
  | throttleStepDown
  | throttleStepUp
  | moduleReset
  | fetchaddCompletion (id : Nat) (ok : Bool)
  | sealReadComplete (id : Nat) (r : Resp)
  | debuggerAttach (ctx : Nat) (on : Bool)
  | pcieConfigWrite (fn reg v : Nat)
  | vectorUnmask (vec : Nat)
  | powerCapWrite (w : Nat)
  | l2WayRepair (die way : Nat)
  deriving DecidableEq, Repr

/-- The assigned opcodes of R74, one for each row of the table that an operation of a tree can be. -/
inductive Opcode where
  | mov
  | add
  | sub
  | mul
  | mulhi
  | mad
  | div
  | rem
  | min
  | max
  | addSat
  | subSat
  | lea
  | prmt
  | sel
  | and
  | or
  | xor
  | andn
  | not
  | shl
  | shr
  | rot
  | bfe
  | bfi
  | popc
  | clz
  | ctz
  | brev
  | fma
  | dot2
  | fmin
  | fmax
  | rcp
  | rsq
  | sqrt
  | exp2
  | log2
  | sin
  | cos
  | tanh
  | rnd
  | frac
  | ldexp
  | sgn
  | cvt
  | cvtpk
  | cvtun
  | cvtmx
  | fclass
  | fbin
  | fscale
  | fcross
  | node
  | lacc
  | link
  | lds
  | sts
  | ldt
  | stt
  | ldg
  | stg
  | ldm
  | stm
  | ldr
  | str
  | ldh
  | sth
  | atms
  | atmg
  | atmr
  | mcas
  | sred
  | smv
  | cpy1d
  | cpyE
  | idxg
  | idxgSt
  | idxs
  | idxsSt
  | fqplay
  | bput
  | bplay
  | wlpush
  | wlins
  | wlpop
  | wlstat
  | barInit
  | barArr
  | barArrM
  | barExp
  | watchA
  | watchC
  | qword
  | tfill
  | tcls
  | tqry
  | gang
  | mma
  | mmx
  | mmld
  | mmst
  | mmz
  | mmstat
  | cbld
  | seal
  | hdrop
  | fmt
  | fmtM
  | shfl
  | vote
  | redux
  | bcast
  | barWait
  | phaseRel
  | phaseAcq
  | publish
  | qfence
  | trap
  | bkpt
  | nopre
  | pre
  | capq
  | sread
  | swrite
  | eret
  | eretExit
  | lget
  | lset
  | yield
  deriving DecidableEq, Repr

/-- The opcode number of R74. -/
def Opcode.byte : Opcode → Nat
  | .mov => 0x01
  | .add => 0x02
  | .sub => 0x03
  | .mul => 0x04
  | .mulhi => 0x05
  | .mad => 0x06
  | .div => 0x07
  | .rem => 0x08
  | .min => 0x09
  | .max => 0x0A
  | .addSat => 0x0B
  | .subSat => 0x0C
  | .lea => 0x0D
  | .prmt => 0x0E
  | .sel => 0x0F
  | .and => 0x10
  | .or => 0x11
  | .xor => 0x12
  | .andn => 0x13
  | .not => 0x14
  | .shl => 0x15
  | .shr => 0x16
  | .rot => 0x17
  | .bfe => 0x18
  | .bfi => 0x19
  | .popc => 0x1A
  | .clz => 0x1B
  | .ctz => 0x1C
  | .brev => 0x1D
  | .fma => 0x20
  | .dot2 => 0x21
  | .fmin => 0x22
  | .fmax => 0x23
  | .rcp => 0x24
  | .rsq => 0x25
  | .sqrt => 0x26
  | .exp2 => 0x27
  | .log2 => 0x28
  | .sin => 0x29
  | .cos => 0x2A
  | .tanh => 0x2B
  | .rnd => 0x2C
  | .frac => 0x2D
  | .ldexp => 0x2E
  | .sgn => 0x2F
  | .cvt => 0x30
  | .cvtpk => 0x31
  | .cvtun => 0x32
  | .cvtmx => 0x33
  | .fclass => 0x34
  | .fbin => 0x40
  | .fscale => 0x41
  | .fcross => 0x42
  | .node => 0x43
  | .lacc => 0x44
  | .link => 0x45
  | .lds => 0x80
  | .sts => 0x81
  | .ldt => 0x82
  | .stt => 0x83
  | .ldg => 0x84
  | .stg => 0x85
  | .ldm => 0x86
  | .stm => 0x87
  | .ldr => 0x88
  | .str => 0x89
  | .ldh => 0x8A
  | .sth => 0x8B
  | .atms => 0x8C
  | .atmg => 0x8D
  | .atmr => 0x8E
  | .mcas => 0x8F
  | .sred => 0x90
  | .smv => 0x91
  | .cpy1d => 0x92
  | .cpyE => 0x92
  | .idxg => 0x93
  | .idxgSt => 0x93
  | .idxs => 0x94
  | .idxsSt => 0x94
  | .fqplay => 0x95
  | .bput => 0x96
  | .bplay => 0x97
  | .wlpush => 0x98
  | .wlins => 0x99
  | .wlpop => 0x9A
  | .wlstat => 0x9B
  | .barInit => 0x9C
  | .barArr => 0x9D
  | .barArrM => 0x9D
  | .barExp => 0x9E
  | .watchA => 0x9F
  | .watchC => 0x9F
  | .qword => 0xA0
  | .tfill => 0xA1
  | .tcls => 0xA2
  | .tqry => 0xA3
  | .gang => 0xC0
  | .mma => 0xC1
  | .mmx => 0xC2
  | .mmld => 0xC3
  | .mmst => 0xC4
  | .mmz => 0xC5
  | .mmstat => 0xC6
  | .cbld => 0xC7
  | .seal => 0xC8
  | .hdrop => 0xC9
  | .fmt => 0xCA
  | .fmtM => 0xCA
  | .shfl => 0xD0
  | .vote => 0xD1
  | .redux => 0xD2
  | .bcast => 0xD3
  | .barWait => 0xD4
  | .phaseRel => 0xD5
  | .phaseAcq => 0xD6
  | .publish => 0xD7
  | .qfence => 0xD8
  | .trap => 0xE0
  | .bkpt => 0xE1
  | .nopre => 0xE2
  | .pre => 0xE3
  | .capq => 0xE4
  | .sread => 0xE5
  | .swrite => 0xE6
  | .eret => 0xE7
  | .eretExit => 0xE7
  | .lget => 0xE8
  | .lset => 0xE9
  | .yield => 0xEA

/-- The opcode that a number of R74 names, where VAR tells apart the rows that share one number; none for a cell marked unassigned. -/
def Opcode.ofByte (n v : Nat) : Option Opcode :=
  match n with
  | 0x01 => some .mov
  | 0x02 => some .add
  | 0x03 => some .sub
  | 0x04 => some .mul
  | 0x05 => some .mulhi
  | 0x06 => some .mad
  | 0x07 => some .div
  | 0x08 => some .rem
  | 0x09 => some .min
  | 0x0A => some .max
  | 0x0B => some .addSat
  | 0x0C => some .subSat
  | 0x0D => some .lea
  | 0x0E => some .prmt
  | 0x0F => some .sel
  | 0x10 => some .and
  | 0x11 => some .or
  | 0x12 => some .xor
  | 0x13 => some .andn
  | 0x14 => some .not
  | 0x15 => some .shl
  | 0x16 => some .shr
  | 0x17 => some .rot
  | 0x18 => some .bfe
  | 0x19 => some .bfi
  | 0x1A => some .popc
  | 0x1B => some .clz
  | 0x1C => some .ctz
  | 0x1D => some .brev
  | 0x20 => some .fma
  | 0x21 => some .dot2
  | 0x22 => some .fmin
  | 0x23 => some .fmax
  | 0x24 => some .rcp
  | 0x25 => some .rsq
  | 0x26 => some .sqrt
  | 0x27 => some .exp2
  | 0x28 => some .log2
  | 0x29 => some .sin
  | 0x2A => some .cos
  | 0x2B => some .tanh
  | 0x2C => some .rnd
  | 0x2D => some .frac
  | 0x2E => some .ldexp
  | 0x2F => some .sgn
  | 0x30 => some .cvt
  | 0x31 => some .cvtpk
  | 0x32 => some .cvtun
  | 0x33 => some .cvtmx
  | 0x34 => some .fclass
  | 0x40 => some .fbin
  | 0x41 => some .fscale
  | 0x42 => some .fcross
  | 0x43 => some .node
  | 0x44 => some .lacc
  | 0x45 => some .link
  | 0x80 => some .lds
  | 0x81 => some .sts
  | 0x82 => some .ldt
  | 0x83 => some .stt
  | 0x84 => some .ldg
  | 0x85 => some .stg
  | 0x86 => some .ldm
  | 0x87 => some .stm
  | 0x88 => some .ldr
  | 0x89 => some .str
  | 0x8A => some .ldh
  | 0x8B => some .sth
  | 0x8C => some .atms
  | 0x8D => some .atmg
  | 0x8E => some .atmr
  | 0x8F => some .mcas
  | 0x90 => some .sred
  | 0x91 => some .smv
  | 0x92 => some (if v = 0 then .cpy1d else .cpyE)
  | 0x93 => some (if v = 0 then .idxg else .idxgSt)
  | 0x94 => some (if v = 0 then .idxs else .idxsSt)
  | 0x95 => some .fqplay
  | 0x96 => some .bput
  | 0x97 => some .bplay
  | 0x98 => some .wlpush
  | 0x99 => some .wlins
  | 0x9A => some .wlpop
  | 0x9B => some .wlstat
  | 0x9C => some .barInit
  | 0x9D => some (if v = 0 then .barArr else .barArrM)
  | 0x9E => some .barExp
  | 0x9F => some (if v = 0 then .watchA else .watchC)
  | 0xA0 => some .qword
  | 0xA1 => some .tfill
  | 0xA2 => some .tcls
  | 0xA3 => some .tqry
  | 0xC0 => some .gang
  | 0xC1 => some .mma
  | 0xC2 => some .mmx
  | 0xC3 => some .mmld
  | 0xC4 => some .mmst
  | 0xC5 => some .mmz
  | 0xC6 => some .mmstat
  | 0xC7 => some .cbld
  | 0xC8 => some .seal
  | 0xC9 => some .hdrop
  | 0xCA => some (if v = 0 then .fmt else .fmtM)
  | 0xD0 => some .shfl
  | 0xD1 => some .vote
  | 0xD2 => some .redux
  | 0xD3 => some .bcast
  | 0xD4 => some .barWait
  | 0xD5 => some .phaseRel
  | 0xD6 => some .phaseAcq
  | 0xD7 => some .publish
  | 0xD8 => some .qfence
  | 0xE0 => some .trap
  | 0xE1 => some .bkpt
  | 0xE2 => some .nopre
  | 0xE3 => some .pre
  | 0xE4 => some .capq
  | 0xE5 => some .sread
  | 0xE6 => some .swrite
  | 0xE7 => some (if v = 0 then .eret else .eretExit)
  | 0xE8 => some .lget
  | 0xE9 => some .lset
  | 0xEA => some .yield
  | _ => none

/-- The instruction that one operation without tests makes. -/
def Instr.ofOp (o : Opcode) (h : Head) (p : Payload) : Instr :=
  match o with
  | .mov => .mov h p
  | .add => .add h p
  | .sub => .sub h p
  | .mul => .mul h p
  | .mulhi => .mulhi h p
  | .mad => .mad h p
  | .div => .div h p
  | .rem => .rem h p
  | .min => .min h p
  | .max => .max h p
  | .addSat => .addSat h p
  | .subSat => .subSat h p
  | .lea => .lea h p
  | .prmt => .prmt h p
  | .sel => .sel h p
  | .and => .and h p
  | .or => .or h p
  | .xor => .xor h p
  | .andn => .andn h p
  | .not => .not h p
  | .shl => .shl h p
  | .shr => .shr h p
  | .rot => .rot h p
  | .bfe => .bfe h p
  | .bfi => .bfi h p
  | .popc => .popc h p
  | .clz => .clz h p
  | .ctz => .ctz h p
  | .brev => .brev h p
  | .fma => .fma h p
  | .dot2 => .dot2 h p
  | .fmin => .fmin h p
  | .fmax => .fmax h p
  | .rcp => .rcp h p
  | .rsq => .rsq h p
  | .sqrt => .sqrt h p
  | .exp2 => .exp2 h p
  | .log2 => .log2 h p
  | .sin => .sin h p
  | .cos => .cos h p
  | .tanh => .tanh h p
  | .rnd => .rnd h p
  | .frac => .frac h p
  | .ldexp => .ldexp h p
  | .sgn => .sgn h p
  | .cvt => .cvt h p
  | .cvtpk => .cvtpk h p
  | .cvtun => .cvtun h p
  | .cvtmx => .cvtmx h p
  | .fclass => .fclass h p
  | .fbin => .fbin h p
  | .fscale => .fscale h p
  | .fcross => .fcross h p
  | .node => .node h p
  | .lacc => .lacc h p
  | .link => .link h p
  | .lds => .lds h p
  | .sts => .sts h p
  | .ldt => .ldt h p
  | .stt => .stt h p
  | .ldg => .ldg h p
  | .stg => .stg h p
  | .ldm => .ldm h p
  | .stm => .stm h p
  | .ldr => .ldr h p
  | .str => .str h p
  | .ldh => .ldh h p
  | .sth => .sth h p
  | .atms => .atms h p
  | .atmg => .atmg h p
  | .atmr => .atmr h p
  | .mcas => .mcas h p
  | .sred => .sred h p
  | .smv => .smv h p
  | .cpy1d => .cpy1d h p
  | .cpyE => .cpyE h p
  | .idxg => .idxg h p
  | .idxgSt => .idxgSt h p
  | .idxs => .idxs h p
  | .idxsSt => .idxsSt h p
  | .fqplay => .fqplay h p
  | .bput => .bput h p
  | .bplay => .bplay h p
  | .wlpush => .wlpush h p
  | .wlins => .wlins h p
  | .wlpop => .wlpop h p
  | .wlstat => .wlstat h p
  | .barInit => .barInit h p
  | .barArr => .barArr h p
  | .barArrM => .barArrM h p
  | .barExp => .barExp h p
  | .watchA => .watchA h p
  | .watchC => .watchC h p
  | .qword => .qword h p
  | .tfill => .tfill h p
  | .tcls => .tcls h p
  | .tqry => .tqry h p
  | .gang => .gang h p
  | .mma => .mma h p
  | .mmx => .mmx h p
  | .mmld => .mmld h p
  | .mmst => .mmst h p
  | .mmz => .mmz h p
  | .mmstat => .mmstat h p
  | .cbld => .cbld h p
  | .seal => .seal h p
  | .hdrop => .hdrop h p
  | .fmt => .fmt h p
  | .fmtM => .fmtM h p
  | .shfl => .shfl h p
  | .vote => .vote h p
  | .redux => .redux h p
  | .bcast => .bcast h p
  | .barWait => .barWait h p
  | .phaseRel => .phaseRel h p
  | .phaseAcq => .phaseAcq h p
  | .publish => .publish h p
  | .qfence => .qfence h p
  | .trap => .trap h p
  | .bkpt => .bkpt h p
  | .nopre => .nopre h p
  | .pre => .pre h p
  | .capq => .capq h p
  | .sread => .sread h p
  | .swrite => .swrite h p
  | .eret => .eret h p
  | .eretExit => .eretExit h p
  | .lget => .lget h p
  | .lset => .lset h p
  | .yield => .yield h p

/-- The opcode of an instruction that is one operation without tests. -/
def Instr.op? : Instr → Option (Opcode × Head × Payload)
  | .mov h p => some (.mov, h, p)
  | .add h p => some (.add, h, p)
  | .sub h p => some (.sub, h, p)
  | .mul h p => some (.mul, h, p)
  | .mulhi h p => some (.mulhi, h, p)
  | .mad h p => some (.mad, h, p)
  | .div h p => some (.div, h, p)
  | .rem h p => some (.rem, h, p)
  | .min h p => some (.min, h, p)
  | .max h p => some (.max, h, p)
  | .addSat h p => some (.addSat, h, p)
  | .subSat h p => some (.subSat, h, p)
  | .lea h p => some (.lea, h, p)
  | .prmt h p => some (.prmt, h, p)
  | .sel h p => some (.sel, h, p)
  | .and h p => some (.and, h, p)
  | .or h p => some (.or, h, p)
  | .xor h p => some (.xor, h, p)
  | .andn h p => some (.andn, h, p)
  | .not h p => some (.not, h, p)
  | .shl h p => some (.shl, h, p)
  | .shr h p => some (.shr, h, p)
  | .rot h p => some (.rot, h, p)
  | .bfe h p => some (.bfe, h, p)
  | .bfi h p => some (.bfi, h, p)
  | .popc h p => some (.popc, h, p)
  | .clz h p => some (.clz, h, p)
  | .ctz h p => some (.ctz, h, p)
  | .brev h p => some (.brev, h, p)
  | .fma h p => some (.fma, h, p)
  | .dot2 h p => some (.dot2, h, p)
  | .fmin h p => some (.fmin, h, p)
  | .fmax h p => some (.fmax, h, p)
  | .rcp h p => some (.rcp, h, p)
  | .rsq h p => some (.rsq, h, p)
  | .sqrt h p => some (.sqrt, h, p)
  | .exp2 h p => some (.exp2, h, p)
  | .log2 h p => some (.log2, h, p)
  | .sin h p => some (.sin, h, p)
  | .cos h p => some (.cos, h, p)
  | .tanh h p => some (.tanh, h, p)
  | .rnd h p => some (.rnd, h, p)
  | .frac h p => some (.frac, h, p)
  | .ldexp h p => some (.ldexp, h, p)
  | .sgn h p => some (.sgn, h, p)
  | .cvt h p => some (.cvt, h, p)
  | .cvtpk h p => some (.cvtpk, h, p)
  | .cvtun h p => some (.cvtun, h, p)
  | .cvtmx h p => some (.cvtmx, h, p)
  | .fclass h p => some (.fclass, h, p)
  | .fbin h p => some (.fbin, h, p)
  | .fscale h p => some (.fscale, h, p)
  | .fcross h p => some (.fcross, h, p)
  | .node h p => some (.node, h, p)
  | .lacc h p => some (.lacc, h, p)
  | .link h p => some (.link, h, p)
  | .lds h p => some (.lds, h, p)
  | .sts h p => some (.sts, h, p)
  | .ldt h p => some (.ldt, h, p)
  | .stt h p => some (.stt, h, p)
  | .ldg h p => some (.ldg, h, p)
  | .stg h p => some (.stg, h, p)
  | .ldm h p => some (.ldm, h, p)
  | .stm h p => some (.stm, h, p)
  | .ldr h p => some (.ldr, h, p)
  | .str h p => some (.str, h, p)
  | .ldh h p => some (.ldh, h, p)
  | .sth h p => some (.sth, h, p)
  | .atms h p => some (.atms, h, p)
  | .atmg h p => some (.atmg, h, p)
  | .atmr h p => some (.atmr, h, p)
  | .mcas h p => some (.mcas, h, p)
  | .sred h p => some (.sred, h, p)
  | .smv h p => some (.smv, h, p)
  | .cpy1d h p => some (.cpy1d, h, p)
  | .cpyE h p => some (.cpyE, h, p)
  | .idxg h p => some (.idxg, h, p)
  | .idxgSt h p => some (.idxgSt, h, p)
  | .idxs h p => some (.idxs, h, p)
  | .idxsSt h p => some (.idxsSt, h, p)
  | .fqplay h p => some (.fqplay, h, p)
  | .bput h p => some (.bput, h, p)
  | .bplay h p => some (.bplay, h, p)
  | .wlpush h p => some (.wlpush, h, p)
  | .wlins h p => some (.wlins, h, p)
  | .wlpop h p => some (.wlpop, h, p)
  | .wlstat h p => some (.wlstat, h, p)
  | .barInit h p => some (.barInit, h, p)
  | .barArr h p => some (.barArr, h, p)
  | .barArrM h p => some (.barArrM, h, p)
  | .barExp h p => some (.barExp, h, p)
  | .watchA h p => some (.watchA, h, p)
  | .watchC h p => some (.watchC, h, p)
  | .qword h p => some (.qword, h, p)
  | .tfill h p => some (.tfill, h, p)
  | .tcls h p => some (.tcls, h, p)
  | .tqry h p => some (.tqry, h, p)
  | .gang h p => some (.gang, h, p)
  | .mma h p => some (.mma, h, p)
  | .mmx h p => some (.mmx, h, p)
  | .mmld h p => some (.mmld, h, p)
  | .mmst h p => some (.mmst, h, p)
  | .mmz h p => some (.mmz, h, p)
  | .mmstat h p => some (.mmstat, h, p)
  | .cbld h p => some (.cbld, h, p)
  | .seal h p => some (.seal, h, p)
  | .hdrop h p => some (.hdrop, h, p)
  | .fmt h p => some (.fmt, h, p)
  | .fmtM h p => some (.fmtM, h, p)
  | .shfl h p => some (.shfl, h, p)
  | .vote h p => some (.vote, h, p)
  | .redux h p => some (.redux, h, p)
  | .bcast h p => some (.bcast, h, p)
  | .barWait h p => some (.barWait, h, p)
  | .phaseRel h p => some (.phaseRel, h, p)
  | .phaseAcq h p => some (.phaseAcq, h, p)
  | .publish h p => some (.publish, h, p)
  | .qfence h p => some (.qfence, h, p)
  | .trap h p => some (.trap, h, p)
  | .bkpt h p => some (.bkpt, h, p)
  | .nopre h p => some (.nopre, h, p)
  | .pre h p => some (.pre, h, p)
  | .capq h p => some (.capq, h, p)
  | .sread h p => some (.sread, h, p)
  | .swrite h p => some (.swrite, h, p)
  | .eret h p => some (.eret, h, p)
  | .eretExit h p => some (.eretExit, h, p)
  | .lget h p => some (.lget, h, p)
  | .lset h p => some (.lset, h, p)
  | .yield h p => some (.yield, h, p)
  | .treeInstruction _ => none
  | .stallExpiry _ _ _ => none
  | .yieldExpiry _ _ _ => none
  | .ldsWriteback _ _ => none
  | .loadDataArrival _ _ => none
  | .pageWalkComplete _ _ _ => none
  | .writePerformed _ => none
  | .majorityResponseTimeout _ _ => none
  | .copyEngineTurn _ => none
  | .indexEngineTurn _ => none
  | .binEngineTurn _ => none
  | .bplayPerform _ => none
  | .worklistEngineTurn _ => none
  | .worklistFrontDrain _ => none
  | .stackEngineSmv _ => none
  | .sredPerform _ => none
  | .matrixJointOperation _ => none
  | .mmldPerform _ => none
  | .mmstPerform _ => none
  | .cbldComplete _ => none
  | .fqheadAdvance _ _ => none
  | .faultVerdictResolved _ _ _ => none
  | .faultVerdictRefused _ _ => none
  | .tlbInvalidate _ _ _ => none
  | .regionWatchdog _ _ => none
  | .teamPark _ => none
  | .teamRestoreParked _ => none
  | .debugStop _ => none
  | .debugResume _ => none
  | .singleStep _ _ _ => none
  | .stepWave _ _ => none
  | .debugPass _ _ _ => none
  | .debugDeliver _ _ _ => none
  | .launchAccept _ => none
  | .queueRestart _ => none
  | .queueRegister _ _ => none
  | .contextRegister _ _ _ => none
  | .waitCounterCheck _ => none
  | .queueAgeBoost _ => none
  | .teamDispatch _ _ => none
  | .preemptTeam _ => none
  | .preemptRequest _ => none
  | .launchRetire _ => none
  | .launchCancel _ => none
  | .contextMigrate _ => none
  | .containerLoad _ _ => none
  | .containerUnload _ => none
  | .trackRange _ _ _ => none
  | .untrackRange _ _ => none
  | .majoritySetWrite _ _ => none
  | .majorityCopyMove _ _ _ => none
  | .scrub _ => none
  | .correctedError _ => none
  | .uncorrectedMemoryError _ => none
  | .stateLoss _ _ => none
  | .coreRetireDrain _ => none
  | .channelRepair _ _ => none
  | .infieldTest _ => none
  | .infieldTestComplete _ _ => none
  | .cmdQuiesce _ => none
  | .cmdRelease _ => none
  | .cmdComputeReset _ => none
  | .cmdPowerOff _ => none
  | .cmdPowerOn _ => none
  | .dieDrained _ => none
  | .dieWatchdog _ => none
  | .dieResetComplete _ _ => none
  | .epsFlagClear _ _ => none
  | .islandReset => none
  | .islandResetComplete => none
  | .routeWrite _ _ => none
  | .routeLaneChangeover _ _ => none
  | .flitReceive _ _ => none
  | .fabricTransaction _ => none
  | .laneSpare _ _ => none
  | .portRetrain _ => none
  | .bar2Write _ _ => none
  | .bar2Read _ _ => none
  | .controlRegisterWrite _ _ => none
  | .attestationReport => none
  | .extendRegister => none
  | .addContainerKey => none
  | .readCertificateChain => none
  | .ideKeyExchange => none
  | .mailboxBadCommand _ => none
  | .mailboxRefusedClear => none
  | .shutter _ => none
  | .throttleStepDown => none
  | .throttleStepUp => none
  | .moduleReset => none
  | .fetchaddCompletion _ _ => none
  | .sealReadComplete _ _ => none
  | .debuggerAttach _ _ => none
  | .pcieConfigWrite _ _ _ => none
  | .vectorUnmask _ => none
  | .powerCapWrite _ => none
  | .l2WayRepair _ _ => none

end Sys2Proof
end

