-- ==== Sys2Proof/Machine/Operands.lean ====
section
/-!
DEFINITION. Operands of class-A operations and tests: source modifiers (R66), the types of VAR (R65), integer results with CLP (R47, R66), and
what an operation reads besides its registers.
-/

namespace Sys2Proof.Machine

/-- The register `fmt` by field (R28). -/
structure Fmt where
  fte : Bool
  cb : Nat
  sat : Bool
  ftz : Bool
  rm : RMode
  format : Nat
  deriving DecidableEq, Repr

/-- The fields of `fmt` (R28). -/
def Fmt.of (w : Word) : Fmt :=
  let n := w.toNat
  ⟨nbit n 11, nbits n 8 3, nbit n 7, nbit n 6, RMode.ofRM (nbits n 4 2), nbits n 0 4⟩

/-- May a value be written to `fmt` (R28)? No reserved bit is set and FORMAT is below 0xC. -/
def fmtOk (w : Word) : Bool := w.toNat < 2 ^ 12 && w.toNat % 16 < 0xC

/-- What a class-A operation reads (R99): its sources as raw bits, the prior value of D (R107), `fmt`, the team's scratchpad as the wave sees
it with its size (R105), and the codebooks. -/
structure AIn where
  a : Nat
  b : Nat := 0
  c : Nat := 0
  d : Nat := 0
  fmt : Word := 1
  scr : Mem := []
  scrSize : Nat := 0
  cbs : List (List (BitVec 16)) := []
  deriving DecidableEq, Repr

/-- The result of a class-A operation: the bits written to D, or the cause and access address of a lane fault (R94). -/
inductive ARes where
  | ok (v : Nat)
  | fault (cause addr : Nat)
  deriving DecidableEq, Repr

/-- The width of the type of VAR (R65). -/
def tyBits (v : Nat) : Nat := if v == 2 || v == 3 || v == 5 then 64 else 32

/-- Is the type of VAR signed (R65)? -/
def tySigned (v : Nat) : Bool := v == 0 || v == 2

/-- The value of bits read in an integer type. -/
def tyVal (v n : Nat) : Int := if tySigned v then toSigned (tyBits v) n else ((n % 2 ^ tyBits v : Nat) : Int)

/-- The absolute value and then the negation of a signed source, wrapping (R66). -/
def modInt (w : Nat) (neg abs : Bool) (x : Nat) : Nat :=
  let a := if abs && nbit x (w - 1) then wrapInt w (-(x : Int)) else x % 2 ^ w
  if neg then wrapInt w (-(a : Int)) else a

/-- The modifiers of a float source: clear the sign bit, then flip it (R66). -/
def modF (f : FFmt) (neg abs : Bool) (x : Nat) : Nat :=
  let k := 2 ^ (f.w + f.mb)
  let a := if abs then x % k else x % (2 * k)
  if neg then (if a < k then a + k else a - k) else a

/-- The exact value `e` of an integer operation as written under its type: wrapped, or clamped to the type's range with CLP (R47, R66). -/
def outInt (v : Nat) (clp : Bool) (e : Int) : Nat :=
  let n := tyBits v
  if clp then
    if tySigned v then
      let lo : Int := -((2 ^ (n - 1) : Nat) : Int); let hi : Int := ((2 ^ (n - 1) : Nat) : Int) - 1
      wrapInt n (if e < lo then lo else if e > hi then hi else e)
    else
      let hi : Int := ((2 ^ n : Nat) : Int) - 1
      wrapInt n (if e < 0 then 0 else if e > hi then hi else e)
  else wrapInt n e

/-- An integer source A after its modifiers, as a value of the type. -/
def srcA (p : Payload) (x : AIn) : Int := tyVal p.v (modInt (tyBits p.v) p.na p.aa x.a)

/-- An integer source B after its modifiers. -/
def srcB (p : Payload) (x : AIn) : Int := tyVal p.v (modInt (tyBits p.v) p.nb p.ab x.b)

/-- An integer source C after its modifiers. -/
def srcC (p : Payload) (x : AIn) : Int := tyVal p.v (modInt (tyBits p.v) p.nc p.ac x.c)

/-- The raw bits of A read in the width of the type. -/
def rawA (p : Payload) (x : AIn) : Nat := x.a % 2 ^ tyBits p.v

/-- The raw bits of B read in the width of the type. -/
def rawB (p : Payload) (x : AIn) : Nat := x.b % 2 ^ tyBits p.v

/-- The float format of VAR 4 to 7 (R65). -/
def tyFmt (v : Nat) : FFmt := match v with | 5 => .f64 | 6 => .bf16 | 7 => .f16 | _ => .f32

/-- Does VAR name a packed type (R65)? -/
def tyPacked (v : Nat) : Bool := v == 6 || v == 7

end Sys2Proof.Machine
end

