-- ==== Sys2Proof/Machine/Flags.lean ====
section
/-!
DEFINITION. The exceptions of vector float operations (R46) and the one place that writes a float result: SCL, one rounding, FTZ, CLP (R66), with
cause 0x16 under FTE.
-/

namespace Sys2Proof.Machine

/-- The clamp of a written float (R66): NaN becomes +0, and the value is limited to [0, 1]. -/
def clampF (f : FFmt) (x : Nat) : Nat :=
  match f.read x with
  | .nan => 0
  | v => if v.lt (.fin false 0 0) || v.isZero then 0 else if Num.lt (.fin false 1 0) v then f.bias * 2 ^ f.mb else x

/-- The rounding, flushing and clamping of R66 for an exact value. -/
def outF (f : FFmt) (p : Payload) (fm : Fmt) (x : Num) (e : Exc) : Nat × Exc :=
  let (r, e') := writeF f fm.rm false fm.ftz (x.scale p.scl)
  (if p.clp then clampF f r else r, e.or e')

/-- A float result, or cause 0x16 when the operation signalled a trapping exception under FTE (R46). -/
def trapF (fm : Fmt) (r : Nat × Exc) : ARes := if fm.fte && r.2.traps then .fault 0x16 0 else .ok r.1

/-- An operation applied in the float type of VAR: once, or to each half of a packed type (R99). -/
def perElem (v : Nat) (g : FFmt → Nat → Nat → Nat → Nat × Exc) (a b c : Nat) : Nat × Exc :=
  let f := tyFmt v
  if tyPacked v then
    let (x, e) := g f (a % 65536) (b % 65536) (c % 65536)
    let (y, e') := g f (a / 65536 % 65536) (b / 65536 % 65536) (c / 65536 % 65536)
    (x + y * 65536, e.or e')
  else g f a b c

/-- A float operation of up to three sources given by its exact value and the exceptions it signals itself. -/
def floatOp (p : Payload) (x : AIn) (g : Num → Num → Num → Num × Exc) : ARes :=
  let fm := Fmt.of x.fmt
  trapF fm (perElem p.v (fun f a b c =>
    let (v, e) := g (f.readZ fm.ftz (modF f p.na p.aa a)) (f.readZ fm.ftz (modF f p.nb p.ab b)) (f.readZ fm.ftz (modF f p.nc p.ac c))
    outF f p fm v e) x.a x.b x.c)

/-- Exceptions with only invalid. -/
def Exc.ofInv (b : Bool) : Exc := { inv := b }

end Sys2Proof.Machine
end

