-- ==== Sys2Proof/Machine/Convert.lean ====
section
/-!
DEFINITION. Conversions between format codes (R36 to R42, R48) and the operations `cvt`, `cvtpk`, `cvtun`, `cvtmx`, `fclass` (R106 to R110).
-/

namespace Sys2Proof.Machine

/-- The width of an element of a format code in a register (R36). -/
def codeBits (c : Nat) : Nat :=
  match c with
  | 0 => 32 | 1 => 16 | 2 => 16 | 3 => 8 | 4 => 8 | 5 => 6 | 6 => 6 | 7 => 4 | 8 => 8 | 9 => 4 | 0xA => 32 | 0xB => 64 | _ => 0

/-- Does a code name an integer format? -/
def codeInt (c : Nat) : Bool := c == 8 || c == 0xA

/-- The value of codebook entry `i` (R41). DESIGN CHOICE, log entry 84. -/
def cbEntry (cb : List (BitVec 16)) (i : Nat) : Num := FFmt.bf16.read (nth 0 cb i).toNat

/-- The value of an element of a format code (R38 to R41); `nat` reads an integer as natural, `ftz` as R45 says, and flushes the entry of a CB4 element too.
DESIGN CHOICE, log entry 84. -/
def readCode (c x : Nat) (nat ftz : Bool) (cb : List (BitVec 16)) : Num :=
  let y := x % 2 ^ codeBits c
  match FFmt.ofCode c with
  | some f => f.readZ ftz y
  | none =>
    if c = 9 then FFmt.bf16.readZ ftz (nth 0 cb y).toNat
    else if nat then Num.ofInt (y : Int) else Num.ofInt (toSigned (codeBits c) y)

/-- The distance of two finite values. -/
def dist (x y : Num) : Num := ((Num.add .rne x y.neg).1).abs

/-- The finite entries of a codebook with their indices. -/
def cbFinite (cb : List (BitVec 16)) : List (Nat × Num) :=
  (List.range 16).filterMap (fun i => let v := cbEntry cb i; if v.isNan || v.isInf then none else some (i, v))

/-- The entry of a list that is best under a strict order, the earlier one at equality. -/
def bestOf (lt : Num → Num → Bool) : List (Nat × Num) → Option (Nat × Num)
  | [] => none
  | (i, v) :: t => match bestOf lt t with | none => some (i, v) | some (j, u) => if lt u v then some (j, u) else some (i, v)

/-- The CB4 code of a value (R42, R48): the finite entry nearest to it, the lower index at equal distance; an infinity takes the CB4 row though the codebook hold it.
DESIGN CHOICE, log entry 85. -/
def writeCb (cb : List (BitVec 16)) (x : Num) : Nat × Exc :=
  let l := cbFinite cb
  match x with
  | .nan => (0, { inv := true })
  | .inf s => (((bestOf (fun u v => if s then u.lt v else v.lt u) l).map Prod.fst).getD 0, { inv := true })
  | v =>
    match bestOf (fun a b => a.lt b) (l.map (fun (i, u) => (i, dist u v))) with
    | some (i, _) => (i, {})
    | none => (0, { inv := true })

/-- A value converted to an integer of `n` bits (R48): rounded, and limited to the range with invalid. -/
def writeInt (n : Nat) (nat : Bool) (rm : RMode) (x : Num) : Nat × Exc :=
  let lo : Int := if nat then 0 else -((2 ^ (n - 1) : Nat) : Int)
  let hi : Int := if nat then ((2 ^ n : Nat) : Int) - 1 else ((2 ^ (n - 1) : Nat) : Int) - 1
  match x with
  | .nan => (0, { inv := true })
  | .inf s => (wrapInt n (if s then lo else hi), { inv := true })
  | v =>
    let i := v.toInt rm
    if i < lo then (wrapInt n lo, { inv := true }) else if i > hi then (wrapInt n hi, { inv := true }) else (wrapInt n i, {})

/-- A value converted to a format code (R48) with its rounding mode, saturation and FTZ. -/
def writeCode (c : Nat) (x : Num) (nat : Bool) (rm : RMode) (sat ftz : Bool) (cb : List (BitVec 16)) : Nat × Exc :=
  match FFmt.ofCode c with
  | some f => writeF f rm sat ftz x
  | none => if c = 9 then writeCb cb x else writeInt (codeBits c) nat rm x

/-- The clamp of a value to [0, 1] with NaN read as +0, for a CB4 destination (R106). -/
def clampNum (x : Num) : Num :=
  match x with
  | .nan => .fin false 0 0
  | v => if v.lt (.fin false 0 0) || v.isZero then .fin false 0 0 else if Num.lt (.fin false 1 0) v then .fin false 1 0 else v

/-- The rounding mode that VAR of a conversion names (R106). -/
def cvtMode (fm : Fmt) (v : Nat) : RMode := match v with | 0 => fm.rm | 1 => .rne | 2 => .rtz | 3 => .rup | _ => .rdn

/-- The codebook that `fmt.CB` names (R41). -/
def fmtCb (x : AIn) : List (BitVec 16) := nth [] x.cbs (Fmt.of x.fmt).cb

/-- A source value converted with CLP as R106 gives it for each kind of destination. -/
def convOut (p : Payload) (x : AIn) (dst : Nat) (nat : Bool) (v : Num) : Nat × Exc :=
  let fm := Fmt.of x.fmt
  let v1 := if p.clp && dst = 9 then clampNum v else v
  let (r, e) := writeCode dst v1 nat (cvtMode fm p.v) fm.sat fm.ftz (fmtCb x)
  match FFmt.ofCode dst with
  | some f => (if p.clp then clampF f r else r, e)
  | none => (r, e)

/-- The modifiers of a value: absolute value, then negation (R66). -/
def modNum (neg abs : Bool) (v : Num) : Num :=
  let a := if abs then v.abs else v
  if neg then a.neg else a

/-- `cvt` (R106). A CB4 element with a CB4 destination is copied as its index. DESIGN CHOICE, log entry 104. -/
def opCvt (p : Payload) (x : AIn) : ARes :=
  let dst := p.c.toNat / 16; let src := p.c.toNat % 16; let nat := p.b.getLsbD 0; let fm := Fmt.of x.fmt
  if dst = 9 && src = 9 then .ok (x.a % 16)
  else
    let v :=
      if codeInt src && !nat then Num.ofInt (toSigned (codeBits src) (modInt (codeBits src) p.na p.aa x.a))
      else modNum p.na p.aa (readCode src x.a nat fm.ftz (fmtCb x))
    trapF fm (convOut p x dst nat (v.scale p.scl))

/-- The place of element `i` of a code in a register (R37): the bits below it. -/
def elemPos (c i : Nat) : Nat := if c = 1 || c = 2 then 16 * i else if c = 7 || c = 9 then 4 * i else 8 * i

/-- The width of the place of an element of a code in a register (R37). -/
def elemBits (c : Nat) : Nat := if c = 1 || c = 2 then 16 else if c = 7 || c = 9 then 4 else 8

/-- `cvtpk` (R107): A and B converted and inserted as elements 2j and 2j + 1 of D. -/
def opCvtpk (p : Payload) (x : AIn) : ARes :=
  let dst := p.c.toNat / 16; let j := p.c.toNat % 4; let fm := Fmt.of x.fmt
  let rd := fun (n a : Bool) (w : Nat) => (FFmt.f32.readZ fm.ftz (modF .f32 n a w)).scale p.scl
  let (u, e0) := convOut p x dst false (rd p.na p.aa x.a)
  let (w, e1) := convOut p x dst false (rd p.nb p.ab x.b)
  let n := elemBits dst; let lo := elemPos dst (2 * j)
  let d := x.d % 2 ^ 32
  trapF fm (d - nbits d lo (2 * n) * 2 ^ lo + (u + w * 2 ^ n) * 2 ^ lo, e0.or e1)

/-- `cvtun` (R108): element `i` of A widened exactly to FP32; modifiers, SCL and CLP act as in `mov.f32`. -/
def opCvtun (p : Payload) (x : AIn) : ARes :=
  let c := p.c.toNat / 16; let i := p.c.toNat % 8; let fm := Fmt.of x.fmt
  let v := readCode c (nbits x.a (elemPos c i) (elemBits c)) false fm.ftz (fmtCb x)
  trapF fm (outF .f32 p fm (modNum p.na p.aa v) {})

/-- The exponent of the largest finite value of an MX target (R42); for CB4 the largest e(entry) of the codebook, 0 when it has none. -/
def mxEmax (c : Nat) (cb : List (BitVec 16)) : Int :=
  match c with
  | 3 => 8 | 4 => 15 | 5 => 4 | 6 => 2 | 7 => 2
  | _ =>
    match (cbFinite cb).filterMap (fun (_, v) => v.exp?) with
    | [] => 0
    | e :: t => t.foldl max e

/-- The scale X of a block whose largest magnitude is `v` (R42). -/
def mxScale (c : Nat) (cb : List (BitVec 16)) (v : Num) : Nat :=
  match v with
  | .nan => 0xFF
  | .inf _ => 0xFF
  | .fin _ m e => if m = 0 then 0 else (max 0 (min 254 (ilog m e - mxEmax c cb + 127))).toNat

/-- `cvtmx` (R109): `.x` gives the block's scale, `.e` the element code with saturation forced. -/
def opCvtmx (p : Payload) (x : AIn) : ARes :=
  let c := p.c.toNat / 16; let cb := nth [] x.cbs (p.c.toNat % 8); let fm := Fmt.of x.fmt
  let v := FFmt.f32.readZ fm.ftz (modF .f32 p.na p.aa x.a)
  if p.v = 0 then .ok (mxScale c cb v)
  else
    let s := x.b % 256
    if s = 0xFF then .ok 0
    else trapF fm (writeCode c (v.scale (127 - (s : Int))) false fm.rm true fm.ftz cb)

/-- The class of an encoding (R110): the number of the one bit set. -/
def classBit (f : FFmt) (x : Nat) : Nat :=
  let s := f.sign x; let c := x % 2 ^ (f.w + f.mb)
  match f.read x with
  | .nan => if nbit c (f.mb - 1) then 9 else 8
  | .inf t => if t then 0 else 7
  | .fin _ m _ =>
    if m = 0 then (if s then 3 else 4) else if f.isSub x then (if s then 2 else 5) else (if s then 1 else 6)

/-- `fclass` (R110): raw A, no FTZ, one bit per element. -/
def opFclass (p : Payload) (x : AIn) : ARes :=
  .ok (perElem p.v (fun f a _ _ => (2 ^ classBit f a, {})) x.a 0 0).1

end Sys2Proof.Machine
end

