-- ==== Sys2Proof/Machine/Sha3.lean ====
section
/-!
DEFINITION. SHA3-512 (FIPS 202), by which the measurement registers are extended (R351).
-/

namespace Sys2Proof.Machine

/-- The offsets of the rotations of Keccak-f[1600] by lane. -/
def keccakRot : List Nat := [0, 1, 62, 28, 27, 36, 44, 6, 55, 20, 3, 10, 43, 25, 39, 41, 45, 15, 21, 8, 18, 2, 61, 56, 14]

/-- The round constants of Keccak-f[1600]. -/
def keccakRC : List DWord :=
  [0x1, 0x8082, 0x800000000000808A, 0x8000000080008000, 0x808B, 0x80000001, 0x8000000080008081, 0x8000000000008009] ++
  [0x8A, 0x88, 0x80008009, 0x8000000A, 0x8000808B, 0x800000000000008B, 0x8000000000008089, 0x8000000000008003] ++
  [0x8000000000008002, 0x8000000000000080, 0x800A, 0x800000008000000A, 0x8000000080008081, 0x8000000000008080, 0x80000001, 0x8000000080008008]

/-- One round of Keccak-f[1600] on 25 lanes. -/
def keccakRound (a : List DWord) (rc : DWord) : List DWord :=
  let at_ (l : List DWord) (i : Nat) : DWord := nth 0 l i
  let c := (List.range 5).map (fun x => (List.range 5).foldl (fun b y => b ^^^ at_ a (x + 5 * y)) (0 : DWord))
  let d := (List.range 5).map (fun x => at_ c ((x + 4) % 5) ^^^ (at_ c ((x + 1) % 5)).rotateLeft 1)
  let t := (List.range 25).map (fun i => at_ a i ^^^ at_ d (i % 5))
  let b := (List.range 25).map (fun i =>
    let x := i % 5; let y := i / 5; let j := (x + 3 * y) % 5 + 5 * x
    (at_ t j).rotateLeft (nth 0 keccakRot j))
  let e := (List.range 25).map (fun i => at_ b i ^^^ (~~~(at_ b ((i + 1) % 5 + 5 * (i / 5))) &&& at_ b ((i + 2) % 5 + 5 * (i / 5))))
  match e with | h :: l => (h ^^^ rc) :: l | [] => []

/-- Absorb blocks of 72 bytes. -/
def keccakAbsorb : Nat → List DWord → List Byte → List DWord
  | 0, a, _ => a
  | n + 1, a, bs =>
    let a1 := a.zipIdx.map (fun (x, i) => if i < 9 then x ^^^ BitVec.ofNat 64 (leNat ((bs.drop (8 * i)).take 8)) else x)
    keccakAbsorb n (keccakRC.foldl keccakRound a1) (bs.drop 72)

/-- SHA3-512 (FIPS 202) of a byte string, its first byte lowest. -/
def sha3_512 (bs : List Byte) : BitVec 512 :=
  let k := 72 - bs.length % 72
  let pad := (List.range k).map (fun i => (if i = 0 then 0x06#8 else 0) ^^^ (if i + 1 = k then 0x80#8 else 0))
  let a := keccakAbsorb ((bs.length + k) / 72) (List.replicate 25 0) (bs ++ pad)
  BitVec.ofNat 512 (leNat ((a.take 8).flatMap (fun x => leBytes 8 x.toNat)))

end Sys2Proof.Machine
end

