-- ==== Sys2Proof/Machine/State.lean ====
section
/-!
DEFINITION. The state of the module as plain data: lanes, waves, teams, cores, memories, queues, contexts, the Lighthouse, the Malox
controller, and `State.reset`, the module right after bring-up (R356).
-/

namespace Sys2Proof.Machine

/-- Why the machine would stop with a fault. Every row of the table has an effect in this model (a cause of R12 is taken, a command is
refused in its register, or an event that meets no enabling condition changes nothing), so no meaning raises one. -/
inductive Fault where
  /-- Raised by no meaning. Safe: nothing ends in it. -/
  | none
  deriving DecidableEq, Repr

/-- Why an instruction is refused. -/
inductive Refusal where
  /-- Raised by an arm of `exec` whose meaning is not written. Safe: the run ends. -/
  | notModelled (mnemonic : String)
  deriving DecidableEq, Repr

/-- The canonical form of a memory: addresses strictly rising, and no entry equal to what an unlisted address reads as, 0 (log entry 4). DESIGN CHOICE, log entry 4. -/
def Memory.wf (m : Mem) : Bool := Sparse.wf m

/-! ## Lanes and groups -/

/-- A main register (R18, R21): its value, its full/empty bit, and its error mark, a cause or 0 (R127). -/
structure VReg where
  val : Word := 0
  empty : Bool := false
  mark : BitVec 8 := 0
  deriving DecidableEq, Repr

/-- The registers of one lane (R18): main registers, operand file, last-result file. -/
structure Lane where
  v : List VReg := []
  o : List Word := List.replicate 16 0
  l0 : Word := 0
  l1 : Word := 0
  deriving DecidableEq, Repr

/-- The states of a group (R219). -/
inductive GState where
  | free | ready | stalled | arrived | meeting | asleep | parked | trapped | frozen | drained
  deriving DecidableEq, Repr

/-- The code of a group state (R219). -/
def GState.code (g : GState) : Nat := g.ctorIdx

/-- What a group that is not ready waits for (R219): its STALL count up to a cycle of its quadrant (R56), full registers of lanes (R22,
R23), for an `lset` the registers of trapped lanes (R212), page walks (R126), queue room (R178), an `lds` or `wlpop` result in hardware interlock (R34), the handle read of `seal` (R154), a
codebook load (R173), the performance of the writes that a `phase.rel`, `publish` or `.rel` atomic waits for or of the loads that a
`phase.acq` waits for (R143, R144, R244), the FetchAdd of `publish` (R311), earlier matrix entries of an `mmst` (R170), a `bar.wait` (R188),
a lane exchange or `bar.arr.m` (R111, R186), the gang latch (R159), fault-queue room (R276), remote transactions that must have been answered
(R137, R143, R144, R244), a miss-status entry (R291), host address translations of a function's pages (R126). -/
inductive Wait where
  | none
  | stall (till : Nat)
  | regs (l : List (Nat × Nat))
  | laneRegs (l : List (Nat × Nat))
  | walk (pages : List Nat)
  | room
  | lock
  | sealRead (id : Nat)
  | cbld (id : Nat)
  | fetchAdd (id : Nat)
  | matrix
  | sleep (half bar : Nat) (ph : Word)
  | meet
  | latch
  | flights (l : List Nat)
  | miss
  | ats (pages : List (Nat × Nat))
  deriving DecidableEq, Repr

/-- The record of one faulting lane (R95): cause, detail, lane, head of the instruction, faulting access address, and whether that is a host address (R134). -/
structure LaneFault where
  cause : Nat
  detail : Nat := 0
  lane : Nat := 0
  head : Nat := 0
  addr : Nat := 0
  host : Bool := false
  deriving DecidableEq, Repr

/-- A group in a slot of the split table (R217). `pc` is the next fetch address, with the bits that the successor checks of R98 look at;
`rcd` is HASREC and REC; `since` is the quadrant's issue cycle from which AGE counts; `prior` is the state kept by FROZEN and DRAINED;
`pushed` says that the issue at which the group parked pushed a record (R96); `chooser` is the head whose leaf chose `pc` (R98); `recs` are
the fault records of its lanes; `yieldTill` is the end of a yield's exclusion (R215); `ready` is the
issue cycle before which STALL keeps the group from issuing (R56); `late` says that it owes cause 0x11 (R209); `retried`
that its last issue disagreed in checked issue (R227); `breaking` that it stopped at a `bkpt` with a debugger attached (R208). -/
structure Group where
  mask : DWord := 0
  fmt : Word := 1
  pc : DWord := 0
  rcd : Option Nat := none
  st : GState := .free
  since : Nat := 0
  wait : Wait := .none
  prior : GState := .free
  pushed : Bool := false
  chooser : DWord := 0
  recs : List LaneFault := []
  yieldTill : Nat := 0
  ready : Nat := 0
  late : Bool := false
  retried : Bool := false
  breaking : Bool := false
  deriving DecidableEq, Repr

/-- A landing record (R90). -/
structure LandRec where
  valid : Bool := false
  members : DWord := 0
  arrived : DWord := 0
  fmt : Word := 1
  land : DWord := 0
  parent : Option Nat := none
  deriving DecidableEq, Repr

/-- One lane's arrival at a lane exchange or `bar.arr.m` (R111, R186): its slot, the instruction, its mask, its sources A and B as at its
arrival, the error mark or absence of a register is checked before it, and the successor that its leaf chose. -/
structure Arrival where
  lane : Nat
  slot : Nat
  head : DWord
  op : Opcode
  h : Head
  p : Payload
  mask : DWord
  a : DWord
  b : DWord
  succ : DWord
  deriving DecidableEq, Repr

/-- A tensor record as `seal` copies it (R153). -/
structure Tensor where
  base : Nat := 0
  scale : Nat := 0
  rows : Nat := 0
  cols : Nat := 0
  stride : Nat := 0
  fmt : Nat := 0
  mx : Bool := false
  trk : Bool := false
  tiled : Bool := false
  space : Nat := 0
  cb : Nat := 0
  deriving DecidableEq, Repr

/-- A class-H instruction whose group waits for something to complete before it commits (R144, R154, R159, R173): its slot, the instruction, its head, the
successor that the leaf of each lane chose at issue (R85), its number, and the values it works on. -/
structure HPend where
  slot : Nat
  op : Opcode
  h : Head
  p : Payload
  head : DWord
  succ : List (Nat × Option DWord)
  id : Nat := 0
  vals : List Nat := []
  deriving DecidableEq, Repr

/-- A pending latch arrival (R159): the instruction and the operands with which the group passed the checks. -/
structure LatchArr where
  pd : HPend
  ha : Nat
  ta : Tensor
  ca : Nat
  hb : Nat
  tb : Tensor
  cb : Nat
  deriving DecidableEq, Repr

/-- The handler fragment of a wave (R211): one lane with its own bank and scalar registers, held outside the split table (R234). -/
structure Handler where
  lane : Lane
  s : List Word
  g : Group
  deriving DecidableEq, Repr

/-- A scratchpad store of one lane, not yet performed at team scope (R243): half, offset, the bytes stored. -/
structure SStore where
  half : Nat
  off : Nat
  vals : List Byte
  deriving DecidableEq, Repr

/-- A wave (R18, R26, R30, R90, R209, R211, R217). `half` is the half of its team, `quad` its quadrant (R375); the slots are entry × 9 + slot;
`trapQ` holds the trapped slots in the order of their traps; the wave's trapped group is its head. `scal` are the scalar registers that
wait for a `wlpop` count (R34, R206); `hold` are the class-H instructions that wait to commit. -/
structure Wave where
  idx : Nat
  half : Nat
  quad : Nat
  width : Nat
  active : DWord
  exited : DWord := 0
  lanes : List Lane
  s : List Word := List.replicate 32 0
  gang : DWord := 0
  depth : Nat := 0
  regionAt : Nat := 0
  recs : List LandRec := List.replicate 32 {}
  slots : List Group := List.replicate 72 {}
  meets : List Arrival := []
  latch : Option LatchArr := none
  hold : List HPend := []
  trapQ : List Nat := []
  handler : Option Handler := none
  lastIssue : Nat := 0
  sbuf : List SStore := []
  scal : List Nat := []
  left : Bool := false
  deriving DecidableEq, Repr

/-! ## Teams -/

/-- A register that an `lds` has yet to write (R128): the wave, the selector of a 32-bit register, the values by lane, the issue cycle of the
quadrant at which it is written. `fromHandler` names the handler fragment's registers. A 64-bit `lds` makes two. -/
structure LdsPend where
  id : Nat
  wave : Nat
  dest : Nat
  vals : List (Nat × Word)
  due : Nat
  fromHandler : Bool
  deriving DecidableEq, Repr

/-- A band (R31, R168 to R172): elements, sticky flags NV OF UF SUS, POI, the ELQ count, and the pending suspect trap. -/
structure Band where
  e : Sparse 32 := []
  nv : Bool := false
  of : Bool := false
  uf : Bool := false
  sus : Bool := false
  poi : Bool := false
  elq : Nat := 0
  trap : Bool := false
  deriving DecidableEq, Repr

/-- An entry of an active queue as it was made (R178, R240): its place in the team's posts, the wave that posted it and the number of the next transaction
then, which tells its earlier loads from its later ones (R246), its value, and for a copy the address of its counter and the records of its tensors (R155, R191, R193). -/
structure QSlot where
  seq : Nat
  wave : Nat := 0
  since : Nat := 0
  val : Nat
  ctr : Option Nat := none
  src : Tensor := {}
  dst : Tensor := {}
  deriving DecidableEq, Repr

/-- An active queue of a team (R181): the control word's offset, BASE, DEPTH, HEAD, TAIL, the entries it holds, oldest first, and for a work-list
front the address of its list and the list's header as read at issue (R182). -/
structure Ring where
  ctl : Nat
  base : Nat
  depth : Nat
  head : Nat := 0
  tail : Nat := 0
  ents : List QSlot := []
  list : Nat := 0
  hdr : Nat := 0
  deriving DecidableEq, Repr

/-- A bin-set descriptor with its target (R201). -/
structure BinSet where
  th : Tensor
  op : Nat
  rsl : Nat
  bins : Nat
  cap : Nat
  sreg : Nat
  bar : Nat
  deriving DecidableEq, Repr

/-- One member of a joint matrix operation (R157): wave, band, A tensor and coordinate. -/
structure Member where
  wave : Nat
  band : Nat
  ta : Tensor
  ca : Nat
  deriving DecidableEq, Repr

/-- The work of an engine or matrix entry other than a copy: what the post read at issue (R178). -/
inductive Work where
  /-- `idxg` or `idxs` (R197, R198): items are lane and index, the slots of a scatter are read at the entry's start. -/
  | index (scatter : Bool) (ew bar soff fill bound base : Nat) (items : List (Nat × Nat))
  /-- `fqplay n` (R200). -/
  | fqplay (n : Nat)
  /-- `bput` (R202): pairs in ascending lane order. -/
  | bput (d : BinSet) (pairs : List (Nat × Nat))
  /-- `bplay` (R203). -/
  | bplay (d : BinSet) (rg : Nat)
  /-- `wlpush` or `wlins` (R205). -/
  | wlpush (ins : Bool) (front : Nat) (cs : List Nat)
  /-- `wlpop` (R206). -/
  | wlpop (front sN dest wave : Nat) (lanes : List Nat)
  /-- `wlstat` (R207). -/
  | wlstat (front dest wave : Nat) (lanes : List Nat)
  /-- `smv` (R141): `xs` are the columns and elements of the contributing lanes. -/
  | smv (w y : Tensor) (row0 nrows bar ctr : Nat) (xs : List (Nat × Nat))
  /-- A joint `mma` or `mmx` (R157). -/
  | joint (mmx : Bool) (sem codes : Nat) (tb : Tensor) (cb : Nat) (ms : List Member)
  /-- `mmld` (R169). -/
  | mmld (band code addr stride dest wave : Nat) (scratch : Bool) (lanes : List Nat)
  /-- `mmst` (R170) with the `fmt` at issue. -/
  | mmst (band code addr stride wave : Nat) (scratch : Bool) (fmt : Word)
  /-- `mmz` (R168). -/
  | mmz (band : Nat)
  /-- `mmstat` (R171). -/
  | mmstat (band dest wave : Nat) (lanes : List Nat)
  /-- `cbld` (R173): the wave and number of the instruction that waits. -/
  | cbld (n addr wave id : Nat) (scratch : Bool)
  deriving DecidableEq, Repr

/-- An entry of `qidx`, `qbin`, `qwl`, `qstack` or `qmat` with its place in the team's posts, the half and wave that posted it and the number of the next
transaction then (R246), how many steps of its work are done, what it has read for the later ones, the page it is held on (R180), and for a bin entry the bin whose replay lock it holds: its address and, once known, its header's physical address (R258). -/
structure Entry where
  seq : Nat
  half : Nat
  wave : Nat := 0
  since : Nat := 0
  work : Work
  done : Nat := 0
  vals : List Nat := []
  held : Option Nat := none
  lock : Option (Nat × Option Nat) := none
  deriving DecidableEq, Repr

/-- An armed watch (R190): half and offset of its barrier; the armed words in physical addresses, and as the program named them; for a counter its target, and the majority set
of its page when that is a majority page. -/
structure Watch where
  half : Nat
  bar : Nat
  words : List Nat
  vas : List Nat := []
  counter : Bool
  target : Nat
  mset : Option Nat := none
  deriving DecidableEq, Repr

/-- The result of a `wlpop` whose team is off its core: it waits for the restored registers (R35, R231). Its wave, scalar and destination, the lanes, the coordinates in the order of the
lanes, and the error mark of the lanes that get none. -/
structure Popped where
  wave : Nat
  sN : Nat
  dest : Nat
  lanes : List Nat
  got : List Nat
  mark : Nat
  deriving DecidableEq, Repr

/-- The part of a team on one core: its core, scratchpad bytes, bands, codebooks, active queues and engine queues. `prog`, `cred` and `held` are PROG,
the bytes credited and the page held on of the copy at the head of the ring (R193), `shown` its HELD bit as last written and `ended` whether only its counter
add is left (R195, R251), `replay` the post number below which records of the element fault queue wait for a replay on the team's behalf (R200, R256), `drain` the page on which the move of the fronts is held (R259); `bars` are the offsets that hold barrier objects, those a `bar.init` wrote.
A twin team has two. -/
structure Half where
  core : Nat
  scr : Mem := []
  bands : List Band := []
  cbs : List (List (BitVec 16)) := List.replicate 8 (List.replicate 16 0)
  ring : Option Ring := none
  fronts : List (Option Ring) := [none, none, none, none]
  faultQ : Option Ring := none
  bins : Option Ring := none
  qidx : List Entry := []
  qbin : List Entry := []
  qwl : List Entry := []
  qstack : List Entry := []
  qmat : List Entry := []
  prog : Nat := 0
  cred : Nat := 0
  held : Option Nat := none
  shown : Bool := false
  ended : Bool := false
  replay : Nat := 0
  drain : Option Nat := none
  bars : List Nat := []
  deriving DecidableEq, Repr

/-- Where a team is (R229, R279): resident, parked, or pre-empted into a save slot. -/
inductive Place where
  | resident | parked | saved (slot : Nat)
  deriving DecidableEq, Repr

/-- A team (R18, R32, R264). `id` names it in this model; `t` is its linear index; `fences` are the queue fences (R145) as sequence number and
set; `fires` are watch fires that wait for restoration (R190), `pops` results of `wlpop` that do (R35); `owed` is a replay of its element records that a verdict left (R200); `idle` is the cycle since which no wave had a READY group (R230); `stopAt` and `stopCyc` are the time and the cycle of a debugger's stop (R235); `focus` is the focus fragment's wave and lowest lane (R236). -/
structure Team where
  id : Nat
  ctx : Nat
  serial : Nat
  prio : Nat
  t : Nat
  xyz : Nat × Nat × Nat
  grid : Nat × Nat × Nat
  teamsz : Nat
  width : Nat
  alloc : Nat
  bandsN : Nat
  scrSize : Nat
  twin : Bool
  unpark : Bool
  waves : List Wave
  halves : List Half
  place : Place := .resident
  admitted : Nat := 0
  idle : Nat := 0
  lds : List LdsPend := []
  watches : List Watch := []
  fires : List (Nat × Nat × Nat) := []
  pops : List Popped := []
  owed : Bool := false
  fences : List (Nat × Nat) := []
  stopped : Bool := false
  stopAt : Nat := 0
  stopCyc : Nat := 0
  focus : Option (Nat × Nat) := none
  deriving DecidableEq, Repr

/-! ## Memory -/

/-- A line of a core's L1 (R291): its line number, the valid bytes, the dirty bytes, the data, the context, launch and virtual address of the
last store into it, which an error of its write-back names (R127), and the contexts and pages through which accesses reached it (R294). -/
structure L1Line where
  line : Nat
  valid : BitVec 128 := 0
  dirty : BitVec 128 := 0
  data : BitVec 1024 := 0
  ctx : Nat := 0
  serial : Nat := 0
  va : Nat := 0
  via : List (Nat × Nat) := []
  deriving DecidableEq, Repr

/-- A page as translated (R286): first virtual and physical address, size in bytes, and the leaf's attributes. -/
structure Page where
  va : Nat
  pa : Nat
  size : Nat
  w : Bool
  x : Bool
  kind : Nat
  plc : Nat
  die : Nat
  stk : Nat
  cgr : Nat
  fmt : Nat
  mset : Nat
  deriving DecidableEq, Repr

/-- The result of a page walk (R286, R287); `down` when a die that holds a table answers ENDPOINT-DOWN (R336). -/
inductive WalkRes where
  | page (p : Page)
  | absent
  | malformed
  | down
  deriving DecidableEq, Repr

/-- A cached walk of a core (R277): context, 64 KiB page number, result. -/
structure TlbEnt where
  ctx : Nat
  vpn : Nat
  res : WalkRes
  deriving DecidableEq, Repr

/-- The kinds of a transaction in flight. -/
inductive FKind where
  | load | store | atomic | mcas | sred | tqry | tcls | tfill
  deriving DecidableEq, Repr

/-- The spaces that a transaction reaches. -/
inductive Space where
  | scratch | twin | global | majority | remote | host
  deriving DecidableEq, Repr

/-- The code of a space for `cpy` (R176). -/
def Space.code (s : Space) : Nat := s.ctorIdx

/-- A staged write of a replayable launch (R272): to host memory, to a remote module, or a `publish` counter update; `seq` is its number among the transactions, so that a
load made before it does not see it (R125), and it is released under that number (R273); team, wave, lane, core and head say who made it, `eng` that an engine did. -/
structure Staged where
  space : Space
  addr : Nat
  size : Nat
  data : Nat
  count : Bool := false
  seq : Nat := 0
  team : Nat := 0
  wave : Nat := 0
  lane : Nat := 0
  core : Nat := 0
  head : Nat := 0
  eng : Bool := false
  deriving DecidableEq, Repr

/-- A transaction in flight (R127): who made it, what it is, its address (virtual and physical), its size and data, its destination
registers, the operation, type and payload bits of an atomic, the half of a scratchpad, one more than the clock at the start of
its line's fill, or 0 when it waits for none (R291), the value once it is fixed (R125, R243) with the cause
of its error mark, the tag and line that a majority store read, the copies that have not answered its write, those that have, and whether a majority has accepted it (R131), whether it was
sent to another module, the head of its instruction, whether a copy engine made it (R192), whether it was released from staging (R273), for a load that was sent the
writes released since that lie over what it returns (R125, R272), whether the request that serves it has been counted already (R291, R292), and how many answers a request of
several lines still wants beside the last one (R344). -/
structure Flight where
  id : Nat
  team : Nat
  wave : Nat
  lane : Nat
  core : Nat
  ctx : Nat
  serial : Nat
  kind : FKind
  space : Space
  va : Nat
  pa : Nat
  size : Nat
  data : Nat := 0
  cmp : Nat := 0
  op : Nat := 0
  ty : Nat := 0
  m : Nat := 0
  half : Nat := 0
  born : Nat := 0
  dest : Option Nat := none
  wide : Bool := false
  sext : Bool := false
  fromHandler : Bool := false
  fixed : Option Nat := none
  mark : Nat := 0
  page : Option Page := none
  read : Option (Nat × Nat) := none
  todo : List Nat := []
  got : List Nat := []
  acc : Bool := false
  sent : Bool := false
  head : Nat := 0
  eng : Bool := false
  rel : Bool := false
  newer : List Staged := []
  paid : Bool := false
  owe : Nat := 0
  deriving DecidableEq, Repr

/-- A page copied to the snapshot store (R271): its first line number, its lines, their poison, tile entries and majority tags. -/
structure Snap where
  pa : Nat
  size : Nat
  bytes : Mem
  poison : List Nat
  dir : Sparse 64
  tags : Sparse 64
  deriving DecidableEq, Repr

/-- A tracked range (R295): first and last + 1 physical address, format code. -/
structure Tracked where
  lo : Nat
  hi : Nat
  fmt : Nat
  deriving DecidableEq, Repr

/-- A placement pool (R288): policy, die, stack within the die, extent. -/
structure Pool where
  plc : Nat
  die : Nat
  stk : Nat
  lo : Nat
  hi : Nat
  deriving DecidableEq, Repr

/-! ## Cores -/

/-- A place that issues: a slot of a wave of a team, or the wave's handler fragment. -/
structure Loc where
  team : Nat
  wave : Nat
  slot : Nat
  handler : Bool := false
  deriving DecidableEq, Repr


/-- A quadrant (R223, R224, R228): issue cycles so far, how many of its last issues in a row were taken at step 3, whether the group that is issuing was
chosen there, and in unchecked issue the groups that may issue beside the one chosen, in the order of their choice and each with whether that choice was made at step 3, the scalars of its wave as at the choice, and the
cycles of the first group of a pairing that is still open. -/
structure Quad where
  cyc : Nat := 0
  run3 : Nat := 0
  at3 : Bool := false
  pair : Nat := 0
  seconds : List (Loc × Bool) := []
  scal : Option (Nat × Nat × List Word) := none
  deriving DecidableEq, Repr

/-- A core (R2, R227, R250, R277, R291, R292, R328, R332). `rr` holds, for the copy, index, binning and work-list engines, the team served
last; `marked` says that it is marked for retirement; `mism` are the times of its last 16 corrected mismatches, newest first; `badRow` says that a row of its arrays waits for a spare
row; `test` is the time of its last passing test. -/
structure CoreSt where
  quads : List Quad := [{}, {}, {}, {}]
  l1 : List L1Line := []
  tlb : List TlbEnt := []
  lreq : DWord := 0
  rreq : DWord := 0
  service : Bool := true
  testing : Bool := false
  closed : Bool := false
  marked : Bool := false
  mism : List Nat := []
  badRow : Bool := false
  test : Nat := 0
  rr : List Nat := [0, 0, 0, 0]
  deriving DecidableEq, Repr

/-! ## Contexts and launches -/

/-- A slot of a seal table (R154, R155): its generation and, while it is in use, the record. -/
structure SealSlot where
  gen : Nat := 1
  tensor : Option Tensor := none
  deriving DecidableEq, Repr

/-- A fault record (R276); while it waits for room, `team`, `wave` and `slot` name the group that stays parked until it is written. -/
structure FRec where
  cause : Nat
  detail : Nat
  lane : Nat
  src : Nat
  addr : Nat
  head : Nat
  core : Nat
  wave : Nat
  que : Nat
  serial : Nat
  team : Nat := 0
  slot : Nat := 0
  deriving DecidableEq, Repr

/-- A context (R275): its registration, `%cflags` (R214), the seal table and the released slots in order, each with the post before which entries may still name it (R155), save slots in use (R280), fault records
that wait (R276), the attached debugger (R208), code from a foreign stepping (R34), the function it is assigned to (R347). The record's
other fields stand in device memory at `addr`. DESIGN CHOICE, log entry 5. -/
structure CtxSt where
  addr : Nat := 0
  reg : Bool := false
  fn : Nat := 0
  cflags : Word := 0
  seals : List SealSlot := []
  released : List (Nat × Nat) := []
  slots : List Nat := []
  waiting : List FRec := []
  dbg : Bool := false
  lock : Bool := false
  deriving DecidableEq, Repr

/-- What the entry function's directives declare (R264): the native code's first word, `.regs`, `.bands`, `.scratch`, `.param`, `.wave`, `.twin`,
the landing entries, and whether its code is native code of a foreign stepping (R284). DESIGN CHOICE, log entry 74. -/
structure Func where
  entry : Nat
  regs : Nat
  bands : Nat
  scratch : Nat
  param : Nat
  wave : Nat
  twin : Bool
  codeLo : Nat
  codeHi : Nat
  lands : List (Nat × Nat)
  foreign : Bool := false
  deriving DecidableEq, Repr

/-- A load slot (R290): its generation, and the functions while a container is loaded. -/
structure Container where
  gen : Nat := 0
  loaded : Bool := false
  funcs : List Func := []
  deriving DecidableEq, Repr

/-- The translated code of a load slot (R290): its bytes, and where its copy stands in each die's die-local pool. -/
structure Code where
  slot : Nat
  size : Nat
  at_ : List Nat
  deriving DecidableEq, Repr

/-- The states of a launch (R270). -/
inductive LState where
  | accepted | started | rolledBack | replayed | retired | failed | cancelled
  deriving DecidableEq, Repr

/-- STATE of a launch (R270). -/
def LState.code (x : LState) : Nat := x.ctorIdx

/-- A launch (R264 to R274): its queue, index, context and entry, its Logbook fields, the resources of its function, its copied parameters, the next team to
dispatch, the teams that have exited, for a replayable launch the pages marked and copied and the writes staged, and the lines that it wrote (R311). DESIGN CHOICE, log entry 22. -/
structure Launch where
  serial : Nat
  queue : Nat
  index : Nat
  ctx : Nat
  ent : Nat
  fn : Func
  st : LState
  err : Nat := 0
  detail : Nat := 0
  nonrep : Bool := false
  repl : Nat := 0
  tacc : Nat := 0
  tstart : Nat := 0
  tend : Nat := 0
  next : Nat := 0
  exited : List Nat := []
  waitOk : Bool := false
  params : List Byte := []
  marked : List (Nat × Nat) := []
  snaps : List Snap := []
  staged : List Staged := []
  wrote : List Nat := []
  deriving DecidableEq, Repr

/-- A launch queue (R263, R267): its registration, the fields read from its block, entries accepted, the last TAIL observed, stopped, boost. DESIGN CHOICE, log entry 5. -/
structure QueueSt where
  addr : Nat := 0
  reg : Bool := false
  read : Bool := false
  base : Nat := 0
  depth : Nat := 0
  ctx : Nat := 0
  notify : Bool := false
  age : Nat := 0
  vec : Nat := 0
  head : Nat := 0
  seen : Nat := 0
  stop : Bool := false
  boost : Nat := 0
  deriving DecidableEq, Repr

/-! ## Spares and repairs (R328, R330, R332) -/

/-- A spare core (R328, R332): still a spare, under test, and the time of its last passing test. -/
structure Spare where
  free : Bool := true
  testing : Bool := false
  test : Nat := 0
  deriving DecidableEq, Repr

/-- An entry of the repair map (R330): its version, the UKIND and number of the part, and the spare. -/
structure Repair where
  version : Nat
  kind : Nat
  unit : Nat
  spare : Nat
  deriving DecidableEq, Repr

/-- The entries in the order in which bring-up applies them: the fuses, then those of the copy whose version is newer (R330). DEDUCED, log entry 55. -/
def applyMap (fuses copy : List Repair) : List Repair :=
  fuses ++ copy.filter (fun r => decide (r.version > fuses.foldl (fun n x => max n x.version) 0))

/-! ## The rest of the module -/

/-- The states of a die endpoint (R334). -/
inductive DieState where
  | active | quiescing | orphaned | dark
  deriving DecidableEq, Repr

/-- A die endpoint's register (R338) and the command it holds until drained (R335); `cold` says that its memory was powered off (R336). -/
structure Eps where
  st : DieState := .active
  hang : Bool := false
  refused : Bool := false
  drops : Nat := 0
  held : Option Bool := none
  cold : Bool := false
  deriving DecidableEq, Repr

/-- A ROUTE register (R339), and for each fabric lane that has not changed over the VALID and PORTS that still hold there (R340). -/
structure Route where
  valid : Bool := false
  ports : Nat := 0
  old : List (Nat × Bool × Nat) := []
  deriving DecidableEq, Repr

/-- A port (R342, R343, R345): EN, UP, WIDTH, SPARED, RETRIES; the next sequence number to send, the last good flit received, the flits kept
for a resend, how often in a row each of them has been resent, the lanes that have failed (lane 8 is the spare), the slot credits that are left and those that are to be returned, for
requests and responses, and the flits last put on the link. DESIGN CHOICE, log entry 5. DESIGN CHOICE, log entry 73. -/
structure Port where
  en : Bool := true
  up : Bool := true
  width : Nat := 2
  spared : Bool := false
  retries : Nat := 0
  txSeq : Nat := 0
  ack : Nat := 4095
  kept : List Flit := []
  row : List (Nat × Nat) := []
  bad : List Nat := []
  credits : Nat × Nat := (4095, 4095)
  owed : Nat × Nat := (0, 0)
  out : List (List Byte) := []
  deriving DecidableEq, Repr

/-- A BAR2 window (R347): the first offset, the size, the physical address it maps, the majority set when it maps one (R312), and the function in whose BAR2 it stands. -/
structure Window where
  lo : Nat
  size : Nat
  pa : Nat
  mset : Option Nat := none
  fn : Nat := 0
  deriving DecidableEq, Repr

/-- A line of the read buffer on the I/O die (R311). -/
structure BufLine where
  line : Nat
  bytes : List Byte
  poison : Bool
  deriving DecidableEq, Repr

/-- A record of the error log (R331). DESIGN CHOICE, log entry 22. -/
structure LogRec where
  time : Nat
  addr : Nat
  serial : Nat
  unit : Nat
  cls : Nat
  action : Nat
  count : Nat
  detail : Nat
  cause : Nat
  deriving DecidableEq, Repr

/-- The Malox controller (R349 to R354): the identity key, container keys, the keys of the IDE streams by the stream's number and the streams in the Secure state (R346, R354), measurement
registers, the mailbox command that runs, the rest of the mailbox word and the buffer, the Shutter's lock and count, the alarm. -/
structure Malox where
  identity : Bool := true
  keys : List (List Byte) := []
  ide : List (Nat × List Byte) := []
  secure : List Nat := []
  m : List (BitVec 512) := List.replicate 8 0
  cmd : Option Nat := none
  refused : Bool := false
  status : Nat := 0
  len : Nat := 0
  buf : Mem := []
  lock : Bool := false
  shut : Bool := false
  alrm : Nat := 0
  count : Nat := 0
  deriving DecidableEq, Repr

/-- What comes next (R1 to R375 leave open which agent moves next): a quadrant issues, with or without a disagreement of the checking
datapath (R227); one group issues for a debugger, and then its team stops again, the lanes of the old focus in hand (R236, R237); or an event of the table. DESIGN CHOICE, log entry 1. DESIGN CHOICE, log entry 71. -/
inductive Act where
  | issue (core quad : Nat) (disagree : Bool)
  | only (l : Loc) (disagree : Bool)
  | refreeze (team wave : Nat) (mask : DWord)
  | ev (i : Instr)
  deriving DecidableEq, Repr

/-- The state of the module. `wanted` are the teams that the host or a migration has asked to pre-empt (R279); `repairs` is the repair map in force with its
copy in majority space, `fuses` the fuses (R330); `badChans` and `lostChans` are channels, as stack × 32 + channel, that are to be repaired and that failed with no spare left (R328, R329);
`corrected` counts corrected errors by unit and line, `corrLimit` and `laneLimit` are the thresholds that BAR0 sets for them and for the symbol errors of a port's lane (R328, R345), `planeBad` says that a crossbar plane has failed and `sparePlane` that the spare one is left (R328), `firmLate` are the copies that will answer firmware's next access to its
own pages too late (R300). `transit` are the requests that
have left by a port and whose response has not passed here, by DST, LANE, SRC and TAG (R340). `barSizes` are the sizes of the functions' BAR2, as powers of two (R347); `hotAt` and
`stepAt` are the times at which a throttling trigger last held and the clock last changed (R357). `hostMem` holds the bytes of host memory that the module has written, as 256 plus the byte. `agenda`, `cur`, `disagree`, `draw`, `nextId`, `seqNo` and `admitNo` are the model's own: what comes next, the group that is
issuing, whether the two datapaths disagree on its issue (R227), the counter of free values, and the counters that name transactions, posts and admissions. -/
structure State where
  teams : List Team := []
  cores : List CoreSt := List.replicate 96 {}
  mem : Mem := []
  hostMem : Sparse 9 := []
  poison : List Nat := []
  tracked : List Tracked := []
  dir : Sparse 64 := []
  msets : List Nat := List.replicate 128 0
  msetLen : List Nat := List.replicate 128 0
  mtags : Sparse 64 := []
  pools : List Pool
  flights : List Flight := []
  ats : List (Nat × Nat × Option Bool) := []
  ctxs : List CtxSt := List.replicate 64 {}
  queues : List QueueSt := List.replicate 256 {}
  launches : List Launch := []
  nextSerial : Nat := 1
  lastQueue : Nat := 255
  halted : Bool := false
  wanted : List Nat := []
  conts : List Container := List.replicate 4096 {}
  codes : List Code := []
  dtlb : List (List TlbEnt) := [[], [], [], []]
  windows : List Window := []
  barSizes : List Nat := List.replicate 64 30
  readBuf : List BufLine := []
  atomEn : List Nat := []
  vecMask : List Nat := []
  vecPend : List Nat := []
  notices : List Nat := []
  hostAdds : List (Nat × Nat) := []
  readOut : List Byte := []
  readEp : Bool := false
  errLog : List LogRec := []
  errCount : Nat := 0
  logBase : Nat := 0
  repairs : List Repair := []
  fuses : List Repair := []
  spares : List Spare := List.replicate 8 {}
  spareChans : List Nat := List.replicate 16 2
  badChans : List Nat := []
  lostChans : List Nat := []
  corrected : List (Nat × Nat × Nat) := []
  corrLimit : Nat := 0
  laneLimit : Nat := 0
  planeBad : Bool := false
  sparePlane : Bool := true
  firmLate : List Nat := []
  sparedWays : List (Nat × Nat) := []
  testHours : Nat := 4
  scrubHours : Nat := 24
  mid : Nat
  eps : List Eps := [{}, {}, {}, {}]
  routes : List Route := List.replicate 256 {}
  ports : List Port := List.replicate 32 {}
  islRefused : Bool := false
  islReset : Bool := false
  outQ : List Txn := []
  transit : List (Nat × Nat × Nat × Nat) := []
  mx : Malox
  throttle : Nat := 0
  hotAt : Nat := 0
  stepAt : Nat := 0
  cap : Nat := 0
  clock : DWord := 0
  ns : Nat := 0
  agenda : List Act := []
  cur : Option Loc := none
  disagree : Bool := false
  draw : Nat := 0
  nextId : Nat := 1
  seqNo : Nat := 0
  admitNo : Nat := 0
  deriving DecidableEq, Repr

/-- The placement pools at bring-up (R288): their extents are the model's choice, except that the die-local pools stand where the example of
R317 shows one, with 64 GiB below them interleaved and 52 GiB for each stack above: 960 GiB in all (R6). DESIGN CHOICE, log entry 6. -/
def State.bringUpPools : List Pool :=
  [⟨0, 0, 0, 0, 0x1000000000⟩] ++
  (List.range 4).map (fun d => ⟨1, d, 0, 0x1000000000 + d * 0x400000000, 0x1000000000 + (d + 1) * 0x400000000⟩) ++
  (List.range 16).map (fun k => ⟨2, k / 4, k % 4, 0x2000000000 + k * 0xD00000000, 0x2000000000 + (k + 1) * 0xD00000000⟩)

/-- An extension of measurement register `i` by a digest (R351). -/
def Malox.extend (m : Malox) (i : Nat) (d : BitVec 512) : Malox :=
  { m with m := modNth m.m i (fun x => sha3_512 (leBytes 64 x.toNat ++ leBytes 64 d.toNat)) }

/-- The parts of bring-up (R330, R350, R351, R354, R356): a firmware image that is verified and measured, by its measurement register and its place there; the work of a step; the repair
map; zero to every line after a Shutter. -/
inductive Boot where
  | image (reg k : Nat)
  | work (step : Nat)
  | map
  | zero
  deriving DecidableEq, Repr

/-- Bring-up in its order (R356). DEDUCED, log entry 55. -/
def bootOrder : List Boot :=
  [.image 0 0, .image 1 0, .image 2 0, .work 2, .work 3, .image 3 0, .image 3 1, .work 4, .map, .zero, .work 6]

/-- The measurement registers after the parts of bring-up that were done (R330, R350, R351): each image in its order, then the repair map as applied. DEDUCED, log entry 55. -/
def Malox.boot (m : Malox) (repairs : List Repair) (done : List Boot) : Malox :=
  done.foldl (fun x p => match p with
    | .image i k => x.extend i (Config.imageDigest i k)
    | .map => x.extend 4 (Config.mapDigest (repairs.map (fun r => (r.version, r.kind, r.unit, r.spare))))
    | .work _ => x
    | .zero => x) { m with m := List.replicate 8 0 }

/-- The Malox controller after bring-up (R351): registers 0 to 4 extended, no container, key or digest of system software. -/
def State.bringUpMalox : Malox := ({} : Malox).boot [] bootOrder

/-- The module right after reset and bring-up (R356): every die ACTIVE, no queue or context registered, no team, memory with nothing listed. DESIGN CHOICE, log entry 5. -/
def State.reset : State :=
  { pools := State.bringUpPools, mid := Config.moduleId.toNat, mx := State.bringUpMalox }

end Sys2Proof.Machine
end

