-- ==== Sys2Proof/Machine/Base.lean ====
section
/-!
DEFINITION. The basic operations over the state: teams, waves, groups, registers, placement, page walks, scratchpad and barriers, the tile
directory, and device memory at its home.
-/

namespace Sys2Proof.Machine

/-! ## Teams, waves, groups -/

/-- The team of an id. -/
def State.team? (s : State) (t : Nat) : Option Team := s.teams.find? (fun x => x.id == t)

/-- Change the team of an id. -/
def State.modTeam (s : State) (t : Nat) (f : Team → Team) : State :=
  { s with teams := s.teams.map (fun x => if x.id = t then f x else x) }

/-- Change a wave of a team. -/
def Team.modWave (t : Team) (w : Nat) (f : Wave → Wave) : Team := { t with waves := modNth t.waves w f }

/-- Change a half of a team. -/
def Team.modHalf (t : Team) (h : Nat) (f : Half → Half) : Team := { t with halves := modNth t.halves h f }

/-- Change a wave of a team of the module. -/
def State.modWave (s : State) (t w : Nat) (f : Wave → Wave) : State := s.modTeam t (fun x => x.modWave w f)

/-- Change a half of a team of the module. -/
def State.modHalf (s : State) (t h : Nat) (f : Half → Half) : State := s.modTeam t (fun x => x.modHalf h f)

/-- The wave of a team of the module. -/
def State.wave? (s : State) (t w : Nat) : Option Wave := (s.team? t).bind (fun x => x.waves[w]?)

/-- Change a core. -/
def State.modCore (s : State) (c : Nat) (f : CoreSt → CoreSt) : State := { s with cores := modNth s.cores c f }

/-- A core of the module. -/
def State.core (s : State) (c : Nat) : CoreSt := nth {} s.cores c

/-- Change a context. -/
def State.modCtx (s : State) (c : Nat) (f : CtxSt → CtxSt) : State := { s with ctxs := modNth s.ctxs c f }

/-- A context of the module. -/
def State.ctx (s : State) (c : Nat) : CtxSt := nth {} s.ctxs c

/-- Change the launch of a serial. -/
def State.modLaunch (s : State) (n : Nat) (f : Launch → Launch) : State :=
  { s with launches := s.launches.map (fun l => if l.serial = n then f l else l) }

/-- The launch of a serial. -/
def State.launch? (s : State) (n : Nat) : Option Launch := s.launches.find? (fun l => l.serial == n)

/-- The group at a place. -/
def Wave.group (w : Wave) (slot : Nat) : Group := nth {} w.slots slot

/-- Change the group in a slot. -/
def Wave.modGroup (w : Wave) (slot : Nat) (f : Group → Group) : Wave := { w with slots := modNth w.slots slot f }

/-- The group that a place names; the handler fragment's when it says so. -/
def State.group? (s : State) (l : Loc) : Option Group :=
  (s.wave? l.team l.wave).bind (fun w => if l.handler then w.handler.map (·.g) else w.slots[l.slot]?)

/-- Change the group that a place names. -/
def State.modGroup (s : State) (l : Loc) (f : Group → Group) : State :=
  s.modWave l.team l.wave (fun w =>
    if l.handler then { w with handler := w.handler.map (fun h => { h with g := f h.g }) } else w.modGroup l.slot f)

/-- A fresh free value, and the state with the counter advanced. DESIGN CHOICE, log entry 2. -/
def State.free (s : State) : Nat × State := (Config.freeValue s.draw, { s with draw := s.draw + 1 })

/-- A fresh number for a transaction. -/
def State.fresh (s : State) : Nat × State := (s.nextId, { s with nextId := s.nextId + 1 })

/-- The core of a wave of a team. -/
def Team.coreOf (t : Team) (w : Wave) : Nat := (nth { core := 0 } t.halves w.half).core

/-- The quadrant of a core. -/
def CoreSt.quad (c : CoreSt) (q : Nat) : Quad := nth {} c.quads q

/-- The issue cycle of the quadrant that holds a wave. -/
def State.cycOf (s : State) (t : Team) (w : Wave) : Nat := ((s.core (t.coreOf w)).quad w.quad).cyc

/-- Change a quadrant of a core. -/
def State.modQuad (s : State) (c q : Nat) (f : Quad → Quad) : State := s.modCore c (fun x => { x with quads := modNth x.quads q f })

/-- The mask of all lanes of a width. -/
def fullMask (w : Nat) : DWord := BitVec.ofNat 64 (2 ^ w - 1)

/-! ## Registers -/

/-- Main register `i` of a lane. -/
def Lane.reg (l : Lane) (i : Nat) : VReg := nth {} l.v i

/-- Write main register `i`: it becomes full and loses its error mark (R21, R127). -/
def Lane.setReg (l : Lane) (i : Nat) (x : Word) : Lane := { l with v := l.v.set i ⟨x, false, 0⟩ }

/-- Mark main register `i` empty (R21); its error mark is cleared by the write that follows. -/
def Lane.setEmpty (l : Lane) (i : Nat) : Lane := { l with v := modNth l.v i (fun r => { r with empty := true }) }

/-- Set main register `i` full with an error mark (R127). DEDUCED, log entry 32. -/
def Lane.setMark (l : Lane) (i : Nat) (c : Nat) : Lane :=
  { l with v := modNth l.v i (fun r => { r with empty := false, mark := BitVec.ofNat 8 c }) }

/-- The low word of a number. -/
def loWord (n : Nat) : Word := BitVec.ofNat 32 n

/-- The high word of a 64-bit number. -/
def hiWord (n : Nat) : Word := BitVec.ofNat 32 (n / 2 ^ 32)

/-- Write 32 or 64 bits to a main, operand or last-result register of a lane (R20, R70). A scalar selector writes nothing here. -/
def Lane.write (l : Lane) (sel : Nat) (wide : Bool) (x : Nat) : Lane :=
  if sel < 0xC0 then
    let l1 := l.setReg sel (loWord x)
    if wide then l1.setReg (sel + 1) (hiWord x) else l1
  else if sel < 0xD0 then
    let o1 := l.o.set (sel - 0xC0) (loWord x)
    { l with o := if wide then o1.set (sel - 0xBF) (hiWord x) else o1 }
  else if sel = 0xD0 then { l with l0 := loWord x }
  else if sel = 0xD1 then { l with l1 := loWord x }
  else l

/-- Shift the last-result file (R25). -/
def Lane.shift (l : Lane) (x : Word) : Lane := { l with l1 := l.l0, l0 := x }

/-- Write 32 or 64 bits to the scalar registers (R26). -/
def setScalar (s : List Word) (i : Nat) (wide : Bool) (x : Nat) : List Word :=
  let s1 := s.set i (loWord x)
  if wide then s1.set (i + 1) (hiWord x) else s1

/-! ## Placement and lines (R286 to R289) -/

/-- The line of an address. -/
def lineOf (a : Nat) : Nat := a / 128

/-- The exclusive or of the bits of `a` at `i`, `i + k`, …, below `n` of them. -/
def xorBits (a i k n : Nat) : Bool := (List.range n).foldl (fun b j => b != nbit a (i + k * j)) false

/-- The pool that holds a physical address (R288). -/
def State.poolOf (s : State) (a : Nat) : Option Pool := s.pools.find? (fun p => p.lo ≤ a && a < p.hi)

/-- The home die of a physical address (R288); on a tile-tracked page bit 12 is taken clear. -/
def State.homeDie (s : State) (a : Nat) (tile : Bool) : Nat :=
  match s.poolOf a with
  | some p =>
    if p.plc = 0 then
      let b := if tile then a - nbits a 12 1 * 4096 else a
      2 * b2n (xorBits b 13 2 18) + b2n (xorBits b 12 2 18)
    else p.die
  | none => 0

/-- The stack, 0 to 15, of a physical address (R288). -/
def State.stackOf (s : State) (a : Nat) (tile : Bool) : Nat :=
  match s.poolOf a with
  | some p => if p.plc = 2 then 4 * p.die + p.stk else 4 * s.homeDie a tile + 2 * b2n (nbit a 8 != nbit a 10) + b2n (nbit a 9 != nbit a 11)
  | none => 0

/-- The channel of a physical address within its stack (R289): granule by CGR. -/
def channelOf (a cgr : Nat) : Nat := a / (match cgr with | 0 => 256 | 1 => 1024 | _ => 4096) % 30

/-- Is a die's memory served: ACTIVE or QUIESCING (R334)? -/
def State.served (s : State) (die : Nat) : Bool :=
  match (nth {} s.eps die).st with | .active => true | .quiescing => true | .orphaned => false | .dark => false

/-- Is a tracked range's tile at an address: its format (R295)? -/
def State.trackFmt (s : State) (a : Nat) : Option Nat := (s.tracked.find? (fun r => r.lo ≤ a && a < r.hi)).map (·.fmt)

/-- The home die of a byte of device memory. -/
def State.dieOf (s : State) (pa : Nat) : Nat := s.homeDie pa (s.trackFmt pa).isSome

/-- Is every byte of a range served (R336)? Dies change at 4 KiB at the earliest. -/
def State.homesUp (s : State) (pa n : Nat) : Bool :=
  n == 0 || (List.range ((pa + n - 1) / 4096 - pa / 4096 + 1)).all (fun i => s.served (s.dieOf (max pa (4096 * (pa / 4096 + i)))))

/-- A range cut at line boundaries: address and length of each piece. -/
def linePieces (a n : Nat) : List (Nat × Nat) :=
  if n = 0 then []
  else (List.range (lineOf (a + n - 1) - lineOf a + 1)).map (fun i =>
    let lo := max a (128 * (lineOf a + i))
    (lo, min (a + n) (128 * (lineOf a + i) + 128) - lo))

/-! ## Check values (R323) -/

/-- One bit of the CRC-32C register, reflected: the polynomial 0x1EDC_6F41 reads 0x82F6_3B78 from its low end. -/
def crcBit (c : Word) : Word := if c.getLsbD 0 then (c >>> 1) ^^^ 0x82F63B78#32 else c >>> 1

/-- One byte. -/
def crcByte (c : Word) (b : Byte) : Word := (List.range 8).foldl (fun x _ => crcBit x) (c ^^^ b.setWidth 32)

/-- The CRC-32C of bytes (R323): initial value and final exclusive or 0xFFFF_FFFF. -/
def crc32c (bs : List Byte) : Word := bs.foldl crcByte 0xFFFFFFFF#32 ^^^ 0xFFFFFFFF#32

/-- The check value that the line of a number carries: over its 128 bytes in address order (R323). -/
def State.checkValue (s : State) (ln : Nat) : Word := crc32c (Sparse.readList s.mem (128 * ln) 128)

/-! ## Copies of majority lines (R131, R298, R299) -/

/-- The copies of a set: base and stack (R298). -/
def setCopies (e : Nat) : List (Nat × Nat) := (List.range (nbits e 0 3)).map (fun i => (nbits e (32 + 48 * i) 48, nbits e (8 + 4 * i) 4))

/-- The majority of a set. -/
def setMaj (e : Nat) : Nat := nbits e 0 3 / 2 + 1

/-- The address of copy `i` of a majority line (R298). -/
def copyAddr (e i pa : Nat) : Nat := (nth (0, 0) (setCopies e) i).1 + (pa - nbits e 32 48)

/-- The tag of a copy of a line as the pair (SEQ, WRITER) in one number, without FLAGS (R299). -/
def State.copyTag (s : State) (e i pa : Nat) : Nat := (Sparse.read s.mtags (lineOf (copyAddr e i pa))).toNat / 16

/-- The copy with the greatest tag of a list (R131). -/
def State.newest (s : State) (e pa : Nat) (l : List Nat) : Nat :=
  l.foldl (fun b i => if s.copyTag e i pa > s.copyTag e b pa then i else b) ((l.head?).getD 0)

/-- Is a copy's stack available: its die is served and none of its channels is lost (R300, R329)? -/
def State.copyUp (s : State) (e i : Nat) : Bool :=
  let k := (nth (0, 0) (setCopies e) i).2
  decide (i < nbits e 0 3) && s.served (k / 4) && !s.lostChans.any (fun c => c / 32 == k)

/-- Does a copy of a line respond: its stack is available and its line is not poisoned (R300)? -/
def State.copyOk (s : State) (e i pa : Nat) : Bool := s.copyUp e i && !s.poison.contains (lineOf (copyAddr e i pa))

/-- The 128 bytes of a copy of a line as a number. -/
def State.copyData (s : State) (e i pa : Nat) : Nat := Mem.nat s.mem (lineOf (copyAddr e i pa) * 128) 128

/-- Merge bytes at an address into the data of its line. -/
def mergeLine (data pa : Nat) (bs : List Byte) : Nat := Mem.nat (Sparse.writeList (Sparse.writeList [] 0 (leBytes 128 data)) (pa % 128) bs) 0 128

/-- The tag of a store after the greatest SEQ seen, by a writer (R131). -/
def nextTag (t w : Nat) : Nat := (t / 2 ^ 12 + 1) % 2 ^ 48 * 2 ^ 12 + w

/-- The 8 bytes at an address at device scope: on a majority page those of the greatest tag (R190, R309, R318). -/
def State.word8 (s : State) (mset : Option Nat) (pa : Nat) : Nat :=
  match mset with
  | none => Mem.nat s.mem pa 8
  | some k => let e := nth 0 s.msets k; Mem.nat s.mem (copyAddr e (s.newest e pa (List.range (nbits e 0 3))) pa) 8

/-! ## Firmware's majority memory: the Logbook, the error log, the repair map (R269, R330, R331) -/

/-- The majority set of the firmware-reserved pages: three copies, at the top of the first stack's pool of dies 0 to 2. DESIGN CHOICE, log entry 83. -/
def firmSet : Nat :=
  ((List.range 3).map (fun i => 4 * i * 2 ^ (8 + 4 * i) + (0x2000000000 + (4 * i + 1) * 0xD00000000 - 0x50000) * 2 ^ (32 + 48 * i))).foldl (· + ·) 11

/-- The address of firmware's majority pages, as copy 0 numbers it. DESIGN CHOICE, log entry 83. -/
def firmBase : Nat := nbits firmSet 32 48
/-- The Logbook (R269). DESIGN CHOICE, log entry 83. -/
def logbookAt : Nat := firmBase
/-- The error log (R331). DESIGN CHOICE, log entry 83. -/
def errLogAt : Nat := firmBase + 0x40000
/-- The copy of the repair map (R330). DESIGN CHOICE, log entry 83. -/
def repairAt : Nat := firmBase + 0x48000

/-- The copies of a line of firmware's pages that respond in time (R300). DEDUCED, log entry 79. DESIGN CHOICE, log entry 76. -/
def State.firmCopies (s : State) (pa : Nat) : List Nat := (List.range 3).filter (fun i => s.copyOk firmSet i pa && !s.firmLate.contains i)

/-- Does a majority of the copies of a line of firmware's pages respond? -/
def State.firmOk (s : State) (pa : Nat) : Bool := decide ((s.firmCopies pa).length ≥ 2)

/-- A majority store of firmware into its own pages (R131, R269), which no context's writable set names; the read buffer keeps no older value. DESIGN CHOICE, log entry 83. DEDUCED, log entry 79. -/
def State.firmStore (s : State) (pa : Nat) (bs : List Byte) : State :=
  if !s.firmOk pa then { s with firmLate := [] }
  else
    let b := s.newest firmSet pa (s.firmCopies pa)
    let tag := nextTag (s.copyTag firmSet b pa) 0xE00
    let data := mergeLine (s.copyData firmSet b pa) pa bs
    ((List.range 3).filter (fun i => s.copyUp firmSet i && !s.firmLate.contains i)).foldl (fun a i =>
      if s.copyTag firmSet i pa > tag then a
      else
        let x := lineOf (copyAddr firmSet i pa)
        { a with mem := Sparse.writeList a.mem (128 * x) (leBytes 128 data), poison := a.poison.filter (· != x)
                 mtags := Sparse.write a.mtags x (BitVec.ofNat 64 (tag * 16)), readBuf := a.readBuf.filter (fun l => l.line != x) }) { s with firmLate := [] }

/-! ## The error log (R331) -/

/-- A record of the error log (R331). DESIGN CHOICE, log entry 70. DESIGN CHOICE, log entry 22. -/
def LogRec.word (r : LogRec) : Nat :=
  r.cause % 256 * 2 ^ 8 + r.detail % 65536 * 2 ^ 16 + r.count % 2 ^ 32 * 2 ^ 32 + r.action % 256 * 2 ^ 64 + r.cls % 256 * 2 ^ 72 + r.unit % 65536 * 2 ^ 80 +
    r.serial % 2 ^ 32 * 2 ^ 96 + r.addr % 2 ^ 56 * 2 ^ 136 + r.time % 2 ^ 64 * 2 ^ 192

/-- The last record of the error log stands in memory at its place in the ring. -/
def State.errPut (s : State) : State :=
  match s.errLog.getLast? with
  | some r => s.firmStore (errLogAt + 32 * ((s.errCount - 1) % 1024)) (leBytes 32 r.word)
  | none => s

/-- Write an error-log record, or count a repeat of the last one (R331); a record from before the last module reset, whose time ran from another reset, is
not added to. -/
def State.logError (s : State) (r : LogRec) : State :=
  let s1 := { s with errCount := s.errCount + 1 }
  match s.errLog.getLast? with
  | some l =>
    if l.cls = r.cls && l.unit = r.unit && l.addr = r.addr && s.ns - l.time < 1000000 && decide (s.errCount > s.logBase) then
      ({ s with errLog := s.errLog.dropLast ++ [{ l with count := min (2 ^ 32 - 1) (l.count + r.count) }] } : State).errPut
    else ({ s1 with errLog := (s.errLog ++ [r]).drop (s.errLog.length + 1 - 1024) } : State).errPut
  | none => ({ s1 with errLog := [r] } : State).errPut

/-- An access found no majority: a record of class 10 (R302, R321). -/
def State.logLoss (s : State) (pa serial unit cause : Nat) : State := s.logError ⟨s.ns, 128 * lineOf pa, serial % 2 ^ 32, unit, 10, 0, 1, 0, cause⟩

/-! ## The Logbook (R269, R270) -/

/-- The Logbook record of a launch (R269). DESIGN CHOICE, log entry 22. -/
def Launch.word (l : Launch) : Nat :=
  l.serial % 2 ^ 64 + l.index % 2 ^ 64 * 2 ^ 128 + l.queue % 256 * 2 ^ 206 + l.ctx % 64 * 2 ^ 214 + l.st.code * 2 ^ 220 + l.repl % 4 * 2 ^ 225 +
    b2n l.nonrep * 2 ^ 227 + l.err % 256 * 2 ^ 232 + l.detail % 65536 * 2 ^ 240 + l.tacc % 2 ^ 64 * 2 ^ 320 + l.tstart % 2 ^ 64 * 2 ^ 384 + l.tend % 2 ^ 64 * 2 ^ 448

/-- The Logbook record of a launch is written whole, at index serial mod 4096 (R269); with no majority nothing is written and the loss is logged (R302). -/
def State.logPut (s : State) (n : Nat) : State :=
  match s.launch? n with
  | none => s
  | some l =>
    let a := logbookAt + 64 * (n % 4096)
    if s.firmOk a then s.firmStore a (leBytes 64 l.word) else s.logLoss a n (5 * 4096) 0

/-- Change a launch and its Logbook record with it (R269). -/
def State.setLaunch (s : State) (n : Nat) (f : Launch → Launch) : State := (s.modLaunch n f).logPut n

/-! ## Context records (R275) -/

/-- A field of the context record in device memory: bits `[lo + len - 1 : lo]`, both multiples of 8. -/
def State.ctxField (s : State) (c lo len : Nat) : Nat := Mem.nat s.mem ((s.ctx c).addr + lo / 8) (len / 8)

/-- The context's page table root. -/
def State.root (s : State) (c : Nat) : Nat := s.ctxField c 0 64
/-- HANDLER. -/
def State.handlerAddr (s : State) (c : Nat) : Nat := s.ctxField c 64 64
/-- Is a module in the context's domain set (R133)? -/
def State.inDomain (s : State) (c m : Nat) : Bool := nbit (s.ctxField c 896 256) m

/-! ## Page tables (R286, R287) -/

/-- Does a page lie in the pages of a majority set, as copy 0 numbers them (R298)? DEDUCED, log entry 17. -/
def State.setHolds (s : State) (ms pa size : Nat) : Bool :=
  let b := nbits (nth 0 s.msets ms) 32 48
  decide (b ≤ pa ∧ pa + size ≤ b + 65536 * nth 0 s.msetLen ms)

/-- The page of a well-formed leaf entry at a level; the pool check of R287 included. DEDUCED, log entry 17. -/
def State.leafPage (s : State) (va e lvl : Nat) : Option Page :=
  let sz := nbits e 59 2; let kind := nbits e 57 2; let plc := nbits e 55 2; let die := nbits e 53 2; let stk := nbits e 51 2
  let cgr := nbits e 49 2; let fmt := nbits e 45 4; let pa := nbits e 13 32 * 65536; let ms := nbits e 6 7
  let size := match lvl with | 0 => 65536 | 1 => 0x200000 | _ => 0x20000000
  let poolOk := match s.poolOf pa with
    | some p => p.plc == plc && pa + size ≤ p.hi && (plc == 0 || p.die == die) && (plc != 2 || p.stk == stk)
    | none => false
  if lvl ≤ 2 && sz == lvl && plc != 3 && cgr != 3 && !(nbit e 62 && nbit e 61) && pa % size == 0 && nbits e 1 5 == 0 &&
     !(kind == 2 && fmt ≥ 0xB) && (kind == 2 || fmt == 0) && (kind == 3 || ms == 0) &&
     !(kind == 3 && (plc != 0 || !nbit (nth 0 s.msets ms) 3)) &&
     (plc != 0 || die == 0) && (plc == 2 || stk == 0) && (if kind == 3 then s.setHolds ms pa size else poolOk)
  then some ⟨va / size * size, pa, size, nbit e 62, nbit e 61, kind, plc, die, stk, cgr, fmt, ms⟩
  else none

/-- Walk from a table at a level down to a leaf; a die that is not served answers for its tables with ENDPOINT-DOWN (R336). -/
def State.walkFrom (s : State) (va : Nat) : Nat → Nat → WalkRes
  | lvl, tbl =>
    let idx := match lvl with | 4 => nbits va 47 9 | 3 => nbits va 38 9 | 2 => nbits va 29 9 | 1 => nbits va 21 8 | _ => nbits va 16 5
    let e := Mem.nat s.mem (tbl + 8 * idx) 8
    if !s.served (s.dieOf (tbl + 8 * idx)) then .down
    else if !nbit e 63 then .absent
    else if nbit e 0 then
      match lvl with
      | 0 => .malformed
      | k + 1 => if nbits e 1 11 != 0 || nbits e 48 15 != 0 then .malformed else s.walkFrom va k (nbits e 12 36 * 4096)
    else match s.leafPage va e lvl with
      | some p => .page p
      | none => .malformed

/-- Does a context's record, 256 bytes of device memory, lie at dies that are served (R275, R336)? DEDUCED, log entry 106. -/
def State.recordUp (s : State) (c : Nat) : Bool := s.homesUp (s.ctx c).addr 256

/-- The walk of a virtual address in a context (R286, R287): its root stands in the context's record. -/
def State.walk (s : State) (c va : Nat) : WalkRes := if s.recordUp c then s.walkFrom va 4 (s.root c) else .down

/-- The 64 KiB page number of a virtual address. -/
def vpn (va : Nat) : Nat := va / 65536

/-- The page that a fault record's ADDR names: its 56 bits are those of the address (R276, R278). DEDUCED, log entry 69. -/
def faultPage (va : Nat) : Nat := va % 2 ^ 56 / 65536

/-- The cached walk for a virtual address of a context: in the core's TLB, or in the shared one of its die (R277). -/
def State.tlb? (s : State) (core c va : Nat) : Option WalkRes :=
  (((s.core core).tlb ++ nth [] s.dtlb (core / 24)).find? (fun e => e.ctx == c && e.vpn == vpn va)).map (·.res)

/-- The physical address within a page. -/
def Page.phys (p : Page) (va : Nat) : Nat := p.pa + (va - p.va)


/-! ## Waking groups -/

/-- A group whose wait is over becomes ready (R220); one that is frozen or drained will find itself ready. -/
def Group.wake (g : Group) (cyc : Nat) : Group :=
  match g.st with
  | .stalled | .asleep | .meeting => { g with st := .ready, wait := .none, since := cyc }
  | .frozen | .drained =>
    (match g.prior with
     | .stalled | .asleep | .meeting => { g with prior := .ready, wait := .none }
     | _ => g)
  | _ => g

/-- A group comes to wait: it leaves READY for a state of R219. -/
def Group.waitFor (g : Group) (st : GState) (w : Wait) : Group := { g with st := st, wait := w }

/-- Wake the groups of a wave, its handler fragment included, whose wait satisfies a test. -/
def Wave.wakeIf (w : Wave) (cyc : Nat) (p : Wait → Bool) : Wave :=
  let f : Group → Group := fun g => if g.wait != .none && p g.wait then g.wake cyc else g
  { w with slots := w.slots.map f, handler := w.handler.map (fun h => { h with g := f h.g }) }

/-- Wake the groups of a team whose wait satisfies a test. -/
def State.wakeTeam (s : State) (t : Nat) (p : Wait → Bool) : State :=
  s.modTeam t (fun x => { x with waves := x.waves.map (fun w => w.wakeIf (s.cycOf x w) p) })

/-- Wake the groups of every team whose wait satisfies a test. -/
def State.wakeAll (s : State) (p : Wait → Bool) : State :=
  { s with teams := s.teams.map (fun x => { x with waves := x.waves.map (fun w => w.wakeIf (s.cycOf x w) p) }) }

/-! ## Barriers (R183, R184) -/

/-- The fields of a barrier object (R183). -/
structure Bar where
  ovr : Bool
  wf : Nat
  phase : Nat
  pbytes : Nat
  exp : Nat
  parr : Nat
  rsv : Nat
  deriving DecidableEq, Repr

/-- The barrier object at an offset of a scratchpad. -/
def Bar.read (m : Mem) (off : Nat) : Bar :=
  let n := m.nat off 16
  ⟨nbit n 100, nbits n 96 4, nbits n 64 32, nbits n 32 32, nbits n 16 16, nbits n 0 16, nbits n 101 27⟩

/-- Write a barrier object. DEDUCED, log entry 16. -/
def Bar.put (b : Bar) (m : Mem) (off : Nat) : Mem :=
  m.putNat off 16 (b.parr + b.exp * 2 ^ 16 + b.pbytes * 2 ^ 32 + b.phase * 2 ^ 64 + b.wf * 2 ^ 96 + b2n b.ovr * 2 ^ 100 + b.rsv * 2 ^ 101)

/-- The completion check after an update (R184): with PARR = 0 and PBYTES = 0 the phase completes. -/
def Bar.check (b : Bar) : Bar :=
  if b.parr = 0 && b.pbytes = 0 then { b with phase := (b.phase + 1) % 2 ^ 32, parr := b.exp } else b

/-- An arrival of `n` lanes with a declaration of `bytes`, as one update (R184, R186). -/
def Bar.arrive (b : Bar) (n bytes : Nat) : Bar :=
  if n > b.parr || b.pbytes + bytes ≥ 2 ^ 32 then ({ b with ovr := true }).check
  else ({ b with parr := b.parr - n, pbytes := b.pbytes + bytes }).check

/-- A declaration of bytes without an arrival (R187). -/
def Bar.expect (b : Bar) (bytes : Nat) : Bar :=
  if b.pbytes + bytes ≥ 2 ^ 32 then ({ b with ovr := true }).check else ({ b with pbytes := b.pbytes + bytes }).check

/-- A credit of bytes (R184). -/
def Bar.credit (b : Bar) (bytes : Nat) : Bar :=
  if bytes > b.pbytes then ({ b with pbytes := 0, ovr := true }).check else ({ b with pbytes := b.pbytes - bytes }).check

/-- A watch fire: WF and an arrival of one lane (R190). -/
def Bar.fire (b : Bar) (wf : Nat) : Bar := ({ b with wf := wf }).arrive 1 0

/-- Does the test of `bar.wait` hold, or is OVR set (R188)? -/
def Bar.awake (b : Bar) (ph : Word) : Bool := b.ovr || decide (toSigned 32 ((BitVec.ofNat 32 b.phase - ph).toNat) > 0)

/-- A half of a team of the module. -/
def State.half? (s : State) (t h : Nat) : Option Half := (s.team? t).bind (fun x => x.halves[h]?)

/-- The sleepers on a barrier whose test holds wake (R184, R188). -/
def State.wakeBar (s : State) (t h off : Nat) : State :=
  match s.half? t h with
  | none => s
  | some x =>
    let b := Bar.read x.scr off
    s.wakeTeam t (fun w => match w with | .sleep h' o ph => h' == h && o == off && b.awake ph | _ => false)

/-- One atomic update of a barrier (R184). -/
def State.modBar (s : State) (t h off : Nat) (f : Bar → Bar) : State :=
  (s.modHalf t h (fun x => { x with scr := (f (Bar.read x.scr off)).put x.scr off })).wakeBar t h off

/-- The barrier objects that a range of a scratchpad overlaps. DEDUCED, log entry 16. -/
def Half.barsIn (x : Half) (off n : Nat) : List Nat := x.bars.filter (fun b => b < off + n && off < b + 16)

/-- Write bytes of a scratchpad; a write to a barrier object is an update of it (R184, R240). -/
def State.scrWrite (s : State) (t h off : Nat) (bs : List Byte) : State :=
  let s1 := s.modHalf t h (fun x => { x with scr := Sparse.writeList x.scr off bs })
  match s.half? t h with
  | none => s1
  | some x => (x.barsIn off bs.length).foldl (fun a b => a.modBar t h b Bar.check) s1

/-- A wave's view of its scratchpad: its own stores that are not yet performed lie over the bytes (R125, R243). -/
def Wave.scrView (w : Wave) (x : Half) : Mem := w.sbuf.foldl (fun m b => if b.half = w.half then Sparse.writeList m b.off b.vals else m) x.scr

/-- Perform the scratchpad stores of a wave, oldest first (R243). -/
def State.flushScr (s : State) (t w : Nat) : State :=
  match s.wave? t w with
  | none => s
  | some x => (x.sbuf.foldl (fun a b => a.scrWrite t b.half b.off b.vals) s).modWave t w (fun y => { y with sbuf := [] })

/-- Credit a barrier of a half, or nothing for the offset that means none (R179). -/
def State.credit (s : State) (t h : Nat) (bar : Option Nat) (n : Nat) : State :=
  match bar with
  | some b => s.modBar t h b (fun x => x.credit n)
  | none => s

/-! ## Tile directory (R146, R296) -/

/-- CLASS of a directory entry. -/
def dirClass (e : Nat) : Nat := nbits e 8 2

/-- A directory entry from its fields (R146). -/
def dirEntry (const diag fmt fin cls : Nat) : DWord := BitVec.ofNat 64 (const * 2 ^ 32 + diag * 2 ^ 15 + fmt * 2 ^ 11 + fin * 2 ^ 10 + cls * 2 ^ 8)

/-- The elements of a row of a tile that bytes `[lo, hi)` of it touch: first and last + 1 column. -/
def rowCols (c lo hi : Nat) : Nat × Nat :=
  let b := codeBits c
  if b = 4 then (2 * lo, 2 * hi) else let k := (b + 7) / 8; (lo / k, (hi + k - 1) / k)

/-- The raw bits of element (r, c) of a tile at a physical address (R37, R146). -/
def tileElem (m : Mem) (base code r c : Nat) : Nat :=
  let b := codeBits code
  if b = 4 then nbits (m.nat (base + 256 * r + c / 2) 1) (4 * (c % 2)) 4
  else let k := (b + 7) / 8; m.nat (base + 256 * r + k * c) k % 2 ^ b

/-- Is an element ±0, judged on raw codes for CB4 (R148)? -/
def elemZero (code x : Nat) : Bool :=
  match FFmt.ofCode code with
  | some f => (f.read x).isZero
  | none => x == 0

/-- Is an element finite (R296)? CB4 never is. -/
def elemFin (code x : Nat) : Bool :=
  match FFmt.ofCode code with
  | some f => let v := f.read x; !v.isNan && !v.isInf
  | none => code != 9

/-- The encoding of 1 in a format (R147). -/
def elemOne (code : Nat) : Nat := (writeCode code (Num.ofInt 1) false .rne false false []).1

/-- The columns of a tile in a format. -/
def tileCols (code : Nat) : Nat := 2048 / (if codeBits code = 4 then 4 else 8 * ((codeBits code + 7) / 8))

/-- Does a written element keep the tile in its class (R296)? -/
def keepsClass (e r c x : Nat) : Bool :=
  let code := nbits e 11 4
  match dirClass e with
  | 1 => elemZero code x
  | 2 => x == nbits e 32 32 % 2 ^ codeBits code
  | 3 => if c = r + nbits e 15 9 then x == elemOne code else elemZero code x
  | _ => true

/-- The directory entry of a tile after bytes `[lo, hi)` of it were written, judged on the memory after the write (R296). -/
def dirAfter (m : Mem) (base e lo hi : Nat) (poison : Bool) : DWord :=
  let code := nbits e 11 4
  if poison then dirEntry 0 0 code 0 0
  else
    let elems := (List.range 32).flatMap (fun r =>
      let a := max lo (256 * r); let b := min hi (256 * r + 256)
      if a < b then
        let (c0, c1) := rowCols code (a - 256 * r) (b - 256 * r)
        ((List.range (c1 - c0)).map (fun i => (r, c0 + i, tileElem m base code r (c0 + i))))
      else [])
    let keep := elems.all (fun (r, c, x) => keepsClass e r c x)
    let fin := nbit e 10 && elems.all (fun (_, _, x) => elemFin code x)
    if keep then BitVec.ofNat 64 (e - b2n (nbit e 10) * 1024 + b2n fin * 1024) else dirEntry 0 0 code (b2n fin) 0

/-- The elements of a whole tile, row by row. -/
def tileAll (m : Mem) (base code : Nat) : List (Nat × Nat × Nat) :=
  (List.range 32).flatMap (fun r => (List.range (tileCols code)).map (fun c => (r, c, tileElem m base code r c)))

/-- The entry that `tcls` gives a tile (R148): the first class that fits, and FIN. -/
def classify (m : Mem) (base code : Nat) : DWord :=
  let es := tileAll m base code
  let fin := b2n (es.all (fun (_, _, x) => elemFin code x))
  let x0 := (es.head?.map (fun (_, _, x) => x)).getD 0
  if es.all (fun (_, _, x) => elemZero code x) then dirEntry 0 0 code fin 1
  else if es.all (fun (_, _, x) => x == x0) then dirEntry x0 0 code fin 2
  else if code = 9 then dirEntry 0 0 code fin 0
  else
    match (List.range (min 512 (tileCols code))).find? (fun d => es.all (fun (r, c, x) => if c = r + d then x == elemOne code else elemZero code x)) with
    | some d => dirEntry 0 d code fin 3
    | none => dirEntry 0 0 code fin 0

/-- Update the directory entries of the tiles that a write to `[pa, pa + n)` touches (R149, R296). -/
def State.dirUpdate (s : State) (pa n : Nat) (poison : Bool) : State :=
  if n = 0 then s
  else
    let tiles := (List.range ((pa + n - 1) / 8192 - pa / 8192 + 1)).map (fun i => pa / 8192 + i)
    { s with dir := tiles.foldl (fun d k =>
        if (s.trackFmt (k * 8192)).isSome then
          let base := k * 8192
          Sparse.write d k (dirAfter s.mem base (Sparse.read d k).toNat (max pa base - base) (min (pa + n) (base + 8192) - base) poison)
        else d) s.dir }

/-! ## Device memory at its home (R243, R271, R296, R322) -/

/-- The entries of a sparse map with keys in a range. -/
def Sparse.slice {w : Nat} (m : Sparse w) (lo hi : Nat) : Sparse w := m.filter (fun e => lo ≤ e.1 && e.1 < hi)

/-- Write the entries of a list that lie in a range. -/
def Sparse.writeIn {w : Nat} (lo hi : Nat) : List (Nat × BitVec w) → Sparse w → Sparse w
  | [], m => m
  | (k, v) :: t, m => Sparse.writeIn lo hi t (if lo ≤ k ∧ k < hi then Sparse.write m k v else m)

/-- Replace the entries of a sparse map in a range by those of another map. -/
def Sparse.splice {w : Nat} (m : Sparse w) (lo hi : Nat) (n : Sparse w) : Sparse w :=
  Sparse.writeIn lo hi n (m.filter (fun e => e.1 < lo || hi ≤ e.1))

/-- Does a launch run its replayable course (R271, R273)? -/
def Launch.replaying (l : Launch) : Bool := nbit l.ent 184 && !l.nonrep && (l.st == .started || l.st == .replayed)

/-- `n` bytes of host memory: what the module wrote there, else what the host holds, a free value (R134). DESIGN CHOICE, log entry 4. -/
def State.hostRead (s : State) (a n : Nat) : Nat :=
  leNat ((List.range n).map (fun i => let v := Sparse.read s.hostMem (a + i); if v = 0 then Config.hostByte (a + i) else v.setWidth 8))

/-- Write bytes to host memory (R304). -/
def State.hostWrite (s : State) (a : Nat) (bs : List Byte) : State :=
  { s with hostMem := Sparse.writeList s.hostMem a (bs.map (fun b => 256#9 ||| b.setWidth 9)) }

/-- The fabric lane of an offset (R307). -/
def fabricLane (a : Nat) : Nat := (List.range 4).foldl (fun n j => n + b2n (xorBits a (7 + j) 4 13) * 2 ^ j) 0

/-- Put a request for another module into the Lighthouse's queue (R304, R307, R344). -/
def State.send (s : State) (x : Txn) : State := { s with outQ := s.outQ ++ [x] }

/-- A staged write as a transaction under way (R273), of the launch and the wave that made it, under the number that it was given when it was staged. -/
def Staged.flight (w : Staged) (ctx serial : Nat) : Flight :=
  { id := w.seq, team := w.team, wave := w.wave, lane := w.lane, core := w.core, ctx := ctx, serial := serial, kind := if w.count then .atomic else .store
    space := w.space, va := w.addr, pa := w.addr, size := w.size, data := w.data, head := w.head, eng := w.eng, rel := true }

/-- Put a transaction among those under way, in the order of their numbers. -/
def insertFlight (f : Flight) (l : List Flight) : List Flight := l.takeWhile (fun x => decide (x.id < f.id)) ++ f :: l.dropWhile (fun x => decide (x.id < f.id))

/-- A load that another module has been asked for keeps the staged writes before it when they are released (R125, R272). -/
def Flight.keeps (f : Flight) (n : Nat) (l : List Staged) : Flight :=
  if f.serial = n && f.kind = .load && f.space = .remote && f.sent && f.fixed.isNone then { f with newer := f.newer ++ l.filter (fun w => decide (w.seq < f.id)) } else f

/-- Release every staged write of a launch (R273): they are under way, and are performed in staging order. DEDUCED, log entry 42. -/
def State.releaseStaged (s : State) (n : Nat) : State :=
  match s.launch? n with
  | none => s
  | some l =>
    ({ s with flights := l.staged.foldl (fun fs (w : Staged) => insertFlight (w.flight l.ctx n) fs) (s.flights.map (fun (f : Flight) => f.keeps n l.staged)) } : State).modLaunch n (fun l => { l with staged := [] })

/-- Set NONREP of a launch: its snapshot copies are discarded, and its staged writes are released (R273). DEDUCED, log entry 27. -/
def State.setNonrep (s : State) (n : Nat) : State :=
  match s.launch? n with
  | some l => if l.replaying then (s.setLaunch n (fun l => { l with nonrep := true, snaps := [] })).releaseStaged n else s
  | none => s

/-- The copy of a page with its poison, tile-directory entries and majority tags (R271). -/
def State.snapOf (s : State) (a z : Nat) : Snap :=
  { pa := a
    size := z
    bytes := Sparse.slice s.mem a (a + z)
    poison := s.poison.filter (fun k => decide (lineOf a ≤ k) && decide (k < lineOf (a + z)))
    dir := Sparse.slice s.dir (a / 8192) ((a + z) / 8192)
    tags := Sparse.slice s.mtags (lineOf a) (lineOf (a + z)) }

/-- Copy every marked page that a write to `[pa, pa + n)` reaches for the first time (R271). -/
def State.snapshot (s : State) (pa n : Nat) : State :=
  { s with launches := s.launches.map (fun l =>
      if l.replaying then
        (l.marked.filter (fun (a, z) => a < pa + n && pa < a + z)).foldl (fun l (a, z) =>
          if l.snaps.any (fun c => c.pa == a) then l
          else { l with snaps := l.snaps ++ [s.snapOf a z] }) l
      else l) }

/-- A write by a launch to a device page outside its writable set makes it non-replayable (R271). -/
def State.outsideSet (s : State) (serial pa : Nat) : State :=
  match s.launch? serial with
  | some l => if l.replaying && !(l.marked.any (fun (a, z) => a ≤ pa && pa < a + z)) then s.setNonrep serial else s
  | none => s

/-- Is any line of a range poisoned (R322)? -/
def State.poisoned (s : State) (pa n : Nat) : Bool := n != 0 && s.poison.any (fun k => lineOf pa ≤ k && k ≤ lineOf (pa + n - 1))

/-- The poison of the lines after a write: a line covered whole loses it; with `p` the written lines become poisoned (R322). DEDUCED, log entry 25. -/
def poisonAfter (l : List Nat) (pa n : Nat) (p : Bool) : List Nat :=
  if p then (List.range (lineOf (pa + n - 1) - lineOf pa + 1)).foldl (fun l i => let k := lineOf pa + i; if l.contains k then l else k :: l) l
  else l.filter (fun k => !(pa ≤ 128 * k && 128 * k + 128 ≤ pa + n))

/-- Fire the armed watch of a team on its barrier, at once or when the team is restored (R190). -/
def State.fire (s : State) (t : Nat) (w : Watch) (wf : Nat) : State :=
  let s1 := s.modTeam t (fun x => { x with watches := x.watches.erase w })
  match (s.team? t).map (fun x => x.place) with
  | some Place.resident => s1.modBar t w.half w.bar (fun b => b.fire wf)
  | _ => s1.modTeam t (fun x => { x with fires := x.fires ++ [(w.half, w.bar, wf)] })

/-- The value of WF with which a watch fires after a write to `[pa, pa + n)` (R190): an armed word was written, or the counter, whose value is `v`,
has reached its target. -/
def Watch.hit (w : Watch) (v pa n : Nat) : Option Nat :=
  if w.counter then
    (match w.words with
     | a :: _ => if a < pa + n && pa < a + 8 && v ≥ w.target then some 12 else none
     | [] => none)
  else ((List.range w.words.length).find? (fun i => let a := nth 0 w.words i; a < pa + n && pa < a + 8)).map (fun i => 8 + i)

/-- Fire every watch that a write to `[pa, pa + n)` concerns (R190). -/
def State.watchFire (s : State) (pa n : Nat) : State :=
  s.teams.foldl (fun a t => t.watches.foldl (fun b w =>
    match w.hit (a.word8 w.mset ((w.words.head?).getD 0)) pa n with
    | some wf => b.fire t.id w wf
    | none => b) a) s

/-- Note lines that a launch has written: `publish` takes them from the read buffer (R311). -/
def State.noteWrote (s : State) (serial pa n : Nat) : State :=
  s.modLaunch serial (fun l => { l with wrote := (((List.range (lineOf (pa + n - 1) - lineOf pa + 1)).map (fun i => lineOf pa + i)) ++ l.wrote).eraseDups })

/-- Write bytes at the home slice or stack engine of their lines: snapshot copies, memory, poison and tile directory, as one step. The lines that
the read buffer and the L1 caches hold are not touched: they may serve an older value (R305, R311). -/
def State.rawWrite (s : State) (serial pa : Nat) (bs : List Byte) (poison : Bool) : State :=
  let n := bs.length
  if n = 0 then s
  else
    let s1 := (s.outsideSet serial pa).snapshot pa n
    let s2 := { s1 with mem := Sparse.writeList s1.mem pa bs, poison := poisonAfter s1.poison pa n poison }
    (s2.dirUpdate pa n (s2.poisoned pa n)).noteWrote serial pa n

/-- A write performed at device scope: its bytes and the watches that it fires (R190, R243). -/
def State.devWrite (s : State) (serial pa : Nat) (bs : List Byte) (poison : Bool) : State :=
  if bs.length = 0 then s else (s.rawWrite serial pa bs poison).watchFire pa bs.length

/-- Write a field of the context record; a record that does not answer is not written (R336). DEDUCED, log entry 106. -/
def State.setCtxField (s : State) (c lo len v : Nat) : State := if !s.recordUp c then s else s.devWrite 0 ((s.ctx c).addr + lo / 8) (leBytes (len / 8) v) false

/-- Lines of a range become poisoned, and the tiles there with them (R296, R322). -/
def State.setPoison (s : State) (pa n : Nat) : State :=
  { s with poison := poisonAfter s.poison pa n true }.dirUpdate pa (max 1 n) true

/-- Does a write reach a poisoned line that it does not cover whole (R127, R322)? DEDUCED, log entry 25. -/
def State.partPoison (s : State) (pa n : Nat) : Bool :=
  n != 0 && s.poison.any (fun k => lineOf pa ≤ k && k ≤ lineOf (pa + n - 1) && !(pa ≤ 128 * k && 128 * k + 128 ≤ pa + n))

/-- A write to an unserved home was cut off: its bytes hold what they held, what the write leaves, or poison (R336). DESIGN CHOICE, log entry 11. -/
def State.cutWrite (s : State) (pa n : Nat) (done : State → State) : State :=
  let (x, s1) := s.free
  match x % 3 with
  | 0 => s1
  | 1 => done s1
  | _ => s1.setPoison pa n

/-- Read `n` bytes of device memory at its home as a number. DESIGN CHOICE, log entry 4. -/
def State.devRead (s : State) (pa n : Nat) : Nat := Mem.nat s.mem pa n

end Sys2Proof.Machine
end

