-- ==== Sys2Proof/Machine/Home.lean ====
section
/-!
DEFINITION. Accesses at their home: translation checks (R126, R287), majority lines (R131, R298 to R302), reads and writes of device memory by the module's
own agents, the error log (R331), completion notices (R348), fault records (R276), and the end of a launch (R374).
-/

namespace Sys2Proof.Machine

/-! ## Translation -/

/-- The result of the translation and protection checks of an access: its page, or a cause with the DETAIL of R276. -/
inductive Xl where
  | ok (p : Page)
  | bad (cause detail : Nat)
  deriving DecidableEq, Repr

/-- The checks on the result of a walk (R54, R130, R287): `d` is the DETAIL of the access. -/
def WalkRes.judge (r : WalkRes) (wr : Bool) (d : Nat) : Xl :=
  match r with
  | .absent => .bad 0x04 d
  | .malformed => .bad 0x05 (d + 8)
  | .down => .bad 0x13 0
  | .page p => if wr && (!p.w || p.x) then .bad 0x05 d else .ok p

/-- The translation of an access that an agent other than a lane makes (R286): bit 2 of DETAIL says engine. -/
def State.xlate (s : State) (c va : Nat) (wr : Bool) : Xl :=
  let d := b2n wr + 4
  if va ≥ 2 ^ 56 then .bad 0x04 d else (s.walk c va).judge wr d

/-- The translation of a lane's access through the core's TLB (R126, R277): none while its walk is pending. -/
def State.laneXlate (s : State) (core c va : Nat) (wr : Bool) : Option Xl :=
  if va ≥ 2 ^ 56 then some (.bad 0x04 (b2n wr)) else (s.tlb? core c va).map (fun r => r.judge wr (b2n wr))

/-- Is the home of a byte of a page served (R336)? -/
def State.up (s : State) (p : Page) (pa : Nat) : Bool := s.served (s.homeDie pa (p.kind == 2))

/-! ## Majority lines (R131, R298 to R302) -/

/-- The copies of the first majority to respond, in the order given; none when fewer respond (R300, R302). -/
def State.majority (s : State) (e pa : Nat) (order : List Nat) : Option (List Nat) :=
  let l := order.filter (fun i => s.copyOk e i pa)
  if l.length < setMaj e then none else some (l.take (setMaj e))

/-- The copies that answer an access of an agent other than a lane within 20 µs, in the order of their answers (R300). DESIGN CHOICE, log entry 76. -/
def State.answering (s : State) (pa : Nat) : List Nat := (Config.copyOrder s.draw (lineOf pa)).eraseDups

/-- Write a copy of a line: it takes data and tag when the tag is at least its own (R300). `fl` are the FLAGS. -/
def State.putCopy (s : State) (e i pa tag fl data : Nat) : State :=
  if tag < s.copyTag e i pa then s
  else
    let a := lineOf (copyAddr e i pa) * 128
    let s1 := s.rawWrite 0 a (leBytes 128 data) false
    { s1 with mtags := Sparse.write s1.mtags (lineOf a) (BitVec.ofNat 64 (tag * 16 + fl)) }

/-- The copies that a majority write reaches among those that answer: a poisoned line on an available stack takes a write of the whole line too, though it does not
count toward the majority (R300, R309, R322). -/
def State.reached (s : State) (e : Nat) (order : List Nat) : List Nat := order.filter (fun i => s.copyUp e i)

/-- Write a line to the copies reached, with the watches that the bytes fire. -/
def State.putCopies (s : State) (serial e pa tag data n : Nat) (l : List Nat) : State :=
  (l.foldl (fun a i => a.putCopy e i pa tag 0 data) (s.outsideSet serial pa)).watchFire pa n

/-- A majority store whole, toward the copies that answer: read the tags and data of a majority, merge, write (R131); none when no majority responds (R132). -/
def State.majStore (s : State) (serial writer e pa : Nat) (bs : List Byte) (order : List Nat) : Option State :=
  (s.majority e pa order).map (fun l =>
    let b := s.newest e pa l
    s.putCopies serial e pa (nextTag (s.copyTag e b pa) writer) (mergeLine (s.copyData e b pa) pa bs) bs.length (s.reached e order))

/-- A majority load: the line of the greatest tag of a majority in the order given, and the state after its laggards are repaired with REP set
(R131, R300). -/
def State.majLoad (s : State) (e pa : Nat) (order : List Nat) : Option (Nat × Nat × State) :=
  (s.majority e pa order).map (fun l =>
    let b := s.newest e pa l
    let tag := s.copyTag e b pa; let data := s.copyData e b pa
    (data, tag, (l.filter (fun i => s.copyTag e i pa < tag)).foldl (fun a i => a.putCopy e i pa tag 1 data) s))

/-! ## Reads and writes at the home by the module's own agents -/

/-- Write bytes within one line or page of device memory for an agent: the new state, and a cause when the write fails and has no effect (R127,
R132, R322, R336). DEDUCED, log entry 25. -/
def State.homeWrite (s : State) (serial writer : Nat) (p : Page) (pa : Nat) (bs : List Byte) : State × Nat :=
  if p.kind = 3 then
    match s.majStore serial writer (nth 0 s.msets p.mset) pa bs (s.answering pa) with
    | some s1 => ({ s1 with draw := s1.draw + 1 }, 0)
    | none => (s, 0x12)
  else if !s.up p pa then (s, 0x13)
  else if s.partPoison pa bs.length then (s, 0x0C)
  else (s.devWrite serial pa bs false, 0)

/-- Read `n` bytes within one line of device memory for an agent: the value and the state, or a cause (R132, R322, R336). -/
def State.homeRead (s : State) (p : Page) (pa n : Nat) : Except Nat (Nat × State) :=
  if p.kind = 3 then
    match s.majLoad (nth 0 s.msets p.mset) pa (s.answering pa) with
    | some (d, _, s1) => .ok (d / 256 ^ (pa % 128) % 256 ^ n, { s1 with draw := s1.draw + 1 })
    | none => .error 0x12
  else if !s.up p pa then .error 0x13
  else if s.poisoned pa n then .error 0x0C
  else .ok (s.devRead pa n, s)

/-- Read `n` bytes at a virtual address for an engine of a context: the value and the state, or a cause with its DETAIL. -/
def State.engRead (s : State) (c va n : Nat) : Except (Nat × Nat) (Nat × State) :=
  match s.xlate c va false with
  | .bad k d => .error (k, d)
  | .ok p => match s.homeRead p (p.phys va) n with
    | .ok r => .ok r
    | .error k => .error (k, 0)

/-- Write bytes at a virtual address for an engine of a context. -/
def State.engWrite (s : State) (c serial writer va : Nat) (bs : List Byte) : Except (Nat × Nat) State :=
  match s.xlate c va true with
  | .bad k d => .error (k, d)
  | .ok p =>
    match s.homeWrite serial writer p (p.phys va) bs with
    | (s1, 0) => .ok s1
    | (_, k) => .error (k, 0)

/-! ## Error log and notices -/

/-- The unit of the command processor and of the host's accesses in the error log: the I/O die (R331). -/
def ioUnit : Nat := 5 * 4096

/-- The number of an MSI-X vector of a function. -/
def vecNo (fn v : Nat) : Nat := fn * 2 ^ 16 + v

/-- The number of vectors in a function's table (R346). -/
def vecCount (fn : Nat) : Nat := if fn = 0 then 256 else 64

/-- Send an MSI-X message on a vector, or set its pending bit while it is masked or when it lies beyond the function's table (R348). -/
def State.sendVec (s : State) (v : Nat) : State :=
  if s.vecMask.contains v || v % 2 ^ 16 ≥ vecCount (v / 2 ^ 16) then { s with vecPend := if s.vecPend.contains v then s.vecPend else s.vecPend ++ [v] }
  else { s with notices := s.notices ++ [v] }

/-- The completion notice of a launch of a queue (R263, R268, R348, R374), on the function that owns the queue's context. -/
def State.notify (s : State) (q : Nat) : State :=
  let x := nth {} s.queues q
  if x.notify then s.sendVec (vecNo (s.ctx x.ctx).fn x.vec) else s

/-! ## The end of a launch (R374) -/

/-- Is a launch in a final state (R266, R270)? -/
def LState.final : LState → Bool
  | .retired => true | .failed => true | .cancelled => true
  | .accepted => false | .started => false | .rolledBack => false | .replayed => false

/-- Stop every team of a launch at once: its teams, entries, pending records, loads in flight and save slots are gone, and the miss-status entries of its loads are free
(R274 steps 1 and 2, R291, R374). -/
def State.stopTeams (s : State) (n : Nat) : State :=
  let mine := s.teams.filter (fun t => t.serial == n)
  let slotOf (t : Team) : Option Nat := match t.place with | .saved k => some k | _ => none
  State.wakeAll (p := (· == .miss)) { s with
    teams := s.teams.filter (fun t => t.serial != n)
    flights := s.flights.filter (fun f => f.serial != n || f.kind = .store || (f.kind = .atomic && f.dest.isNone) || f.kind = .tfill)
    ctxs := s.ctxs.zipIdx.map (fun (c, i) =>
      { c with waiting := c.waiting.filter (fun r => r.serial != n)
               slots := c.slots.filter (fun k => !(mine.any (fun t => t.ctx == i && slotOf t == some k))) }) }

/-- The writes of a launch to the host that are under way reach it, in their order: its notice comes after them (R304, R348). -/
def State.hostFlush (s : State) (n : Nat) : State :=
  let mine (f : Flight) : Bool := f.serial == n && f.space = .host && f.kind = .store
  { (s.flights.filter mine).foldl (fun a f => a.hostWrite f.va (leBytes f.size f.data)) s with flights := s.flights.filter (fun f => !mine f) }

/-- End a launch: it becomes FAILED or CANCELLED with an ERROR and DETAIL, its teams and entries stop, staged writes and snapshot copies are
discarded, what it has written to the host reaches it, and then a notice is sent when the queue asks for one (R348, R374). DEDUCED, log entry 33. -/
def State.endLaunch (s : State) (n : Nat) (st : LState) (err det : Nat) (notice : Bool) : State :=
  match s.launch? n with
  | none => s
  | some l =>
    if l.st.final then s
    else
      let s1 := ((s.stopTeams n).hostFlush n).setLaunch n (fun l =>
        { l with st := st, err := err, detail := det, tend := s.ns, snaps := [], staged := [], marked := [] })
      if notice then s1.notify l.queue else s1

/-- A launch fails with a cause (R208, R211, R274). -/
def State.failLaunch (s : State) (n err det : Nat) : State := s.endLaunch n .failed err det true

/-! ## Fault records (R276) -/

/-- The 32 bytes of a fault record. DESIGN CHOICE, log entry 70. -/
def FRec.bytes (r : FRec) (seq : Nat) : List Byte :=
  leBytes 32 (r.cause + r.detail * 2 ^ 8 + r.lane * 2 ^ 24 + r.src * 2 ^ 30 + (r.addr % 2 ^ 56) * 2 ^ 32 + nbits r.head 4 52 * 2 ^ 96 +
    r.core * 2 ^ 152 + r.wave * 2 ^ 159 + r.que * 2 ^ 166 + (r.serial % 2 ^ 32) * 2 ^ 192 + (seq % 2 ^ 32) * 2 ^ 224)

/-- Has the fault queue of a context room for a record? Its place and length stand in the context's record. -/
def State.fqRoom (s : State) (c : Nat) : Bool :=
  s.recordUp c && decide (s.ctxField c 320 64 - s.ctxField c 256 64 < 2 ^ s.ctxField c 192 8)

/-- Count a dropped record. -/
def State.lost (s : State) (c : Nat) : State := s.setCtxField c 512 64 ((s.ctxField c 512 64 + 1) % 2 ^ 64)

/-- Write a fault record into a queue that has room; when its slot cannot be written the record is dropped and its launch fails. -/
def State.writeRec (s : State) (c : Nat) (r : FRec) : State :=
  let tail := s.ctxField c 320 64
  match s.engWrite c 0 0xE00 (s.ctxField c 128 64 + 32 * (tail % 2 ^ s.ctxField c 192 8)) (r.bytes tail) with
  | .ok s1 => s1.setCtxField c 320 64 ((tail + 1) % 2 ^ 64)
  | .error (k, _) =>
    ((if k = 0x12 then s.logLoss 0 r.serial ioUnit 0x12 else s).lost c).failLaunch r.serial r.cause 0xFFFE

/-- Write the records that wait, in order, while there is room. DEDUCED, log entry 33. -/
def State.drainRecs (s : State) (c : Nat) : Nat → State
  | 0 => s
  | n + 1 =>
    match (s.ctx c).waiting with
    | [] => s
    | r :: _ =>
      if s.fqRoom c then ((s.modCtx c (fun x => { x with waiting := x.waiting.drop 1 })).writeRec c r).drainRecs c n else s

/-- Put records of lanes into the context's fault queue, behind those that wait. -/
def State.laneRecs (s : State) (c : Nat) (l : List FRec) : State :=
  let s1 := s.modCtx c (fun x => { x with waiting := x.waiting ++ l })
  s1.drainRecs c (s1.ctx c).waiting.length

/-- Has the record of a group been written, so that the group may go on (R276)? -/
def State.recsOut (s : State) (c t w slot : Nat) : Bool := !((s.ctx c).waiting.any (fun r => r.team == t && r.wave == w && r.slot == slot))

/-- Add to the asynchronous error count of a context (R127). -/
def State.addAerr (s : State) (c n : Nat) : State := s.setCtxField c 448 64 ((s.ctxField c 448 64 + n) % 2 ^ 64)

/-- An asynchronous error (R127): a record of SRC 2, dropped when the queue is full, and the count. -/
def State.asyncErr (s : State) (c : Nat) (r : FRec) : State :=
  let s1 := s.addAerr c 1
  if s1.fqRoom c then s1.writeRec c { r with src := 2 } else s1.lost c

end Sys2Proof.Machine
end

