-- ==== Sys2Proof/WellFormed.lean ====
section
/-!
DEFINITION. Which instructions are legal (R57, R58, R60 to R76): what each opcode does with each of its fields, the selectors a field
admits, and the six reasons of R76 in their order.
-/

namespace Sys2Proof

/-- The reasons of R76 for cause 0x01, in the order in which the first that applies is reported. -/
inductive Reason where
  | shape | reserved | placement | unassigned | operand | variant
  deriving DecidableEq, Repr

/-- The number of a reason as the trap record's detail holds it (R76). -/
def Reason.code : Reason → Nat
  | .shape => 1 | .reserved => 2 | .placement => 3 | .unassigned => 4 | .operand => 5 | .variant => 6

/-- What legality depends on besides the words: the main registers allocated to a lane (R19), the declared bands (R31), whether the
kernel is `.twin` (R129), whether waves have 64 lanes (R111), whether a handler fragment issues (R211), and the allocation that the
`lget` and `lset` selectors name (R212). -/
structure DecodeCtx where
  alloc : Nat
  bands : Nat
  twin : Bool
  wide : Bool
  handler : Bool
  selAlloc : Nat
  deriving DecidableEq, Repr

/-- The context that admits most: every register and band, in a twin kernel. -/
def DecodeCtx.max : DecodeCtx := ⟨192, 256, true, false, false, 192⟩

/-- The class of an opcode by its high nibble (R71). -/
inductive OpClass where
  | A | M | H
  deriving DecidableEq, Repr

/-- The class of an opcode number (R71). -/
def opClass (n : Nat) : OpClass := if n < 0x80 then .A else if n < 0xC0 then .M else .H

/-- How an opcode uses a source field: not at all, for its own value, or as a register read of 32 or 64 bits. -/
inductive SUse where
  | none | own | r32 | r64
  deriving DecidableEq, Repr

/-- How an opcode uses D: not at all, for its own value, as a source of 64 bits or not, read and written, written (64 bits or not; main,
operand, scalar registers admitted), or marked empty and so a main register (R21, R24). -/
inductive DUse where
  | none | own
  | src (w : Bool)
  | rmw
  | wr (w v o s : Bool)
  | mark (w : Bool)
  deriving DecidableEq, Repr

/-- What an opcode admits: its VARs, the use of each field, on which sources modifiers may stand, whether CLP and SCL may be nonzero, and
for classes M and H the bits of P[14:5] that have a meaning. -/
structure Shape where
  vars : List Nat
  d : DUse
  a : SUse := .none
  b : SUse := .none
  c : SUse := .none
  ma : Bool := false
  mb : Bool := false
  mc : Bool := false
  clp : Bool := false
  scl : Bool := false
  bits : Nat := 0
  deriving DecidableEq, Repr

/-- A source of the width that a 64-bit flag gives. -/
def SUse.of (w : Bool) : SUse := if w then .r64 else .r32

/-- Is the type of VAR 64 bits wide (R65)? -/
def wide64 (v : Nat) : Bool := v == 2 || v == 3 || v == 5

/-- Does the type of VAR admit source modifiers: signed and float types (R66)? -/
def modTy (v : Nat) : Bool := v == 0 || v == 2 || v ≥ 4

/-- Any main, operand or scalar register as a written D (R70). -/
def DUse.any (w : Bool) : DUse := .wr w true true true

/-- An arithmetic opcode of `n` typed sources under VAR, in the natural reading of VAR 1 and 3 (R65, R66). -/
def shapeT (p : Payload) (vars : List Nat) (n : Nat) : Shape :=
  let w := wide64 p.v; let m := modTy p.v
  { vars := vars, d := .any w, a := .of w, b := if n ≥ 2 then .of w else .none, c := if n ≥ 3 then .of w else .none,
    ma := m, mb := m && n ≥ 2, mc := m && n ≥ 3, clp := true, scl := p.v ≥ 4 }

/-- A bit opcode of `n` typed sources, followed by one 32-bit control source if `k`: no modifiers, SCL or CLP (R102). -/
def shapeB (p : Payload) (vars : List Nat) (n : Nat) (k : Bool) : Shape :=
  let w := wide64 p.v
  { vars := vars, d := .any w, a := .of w,
    b := if n ≥ 2 then .of w else if k then .r32 else .none,
    c := if n ≥ 3 then .of w else if k && n ≥ 2 then .r32 else .none }

/-- A load (R121, R124): `g` says that the address is a 64-bit pair, `e` that the destination is marked empty. -/
def shapeLd (p : Payload) (g e : Bool) : Shape :=
  let w := p.v == 5
  { vars := [0, 1, 2, 3, 4, 5], d := if e then .mark w else .any w, a := .of g, b := .r32, bits := 0x3FF }

/-- A store (R121, R124). -/
def shapeSt (p : Payload) (g : Bool) : Shape :=
  { vars := [0, 2, 4, 5], d := .none, a := .of g, b := .r32, c := .of (p.v == 5), bits := 0x3FF }

/-- An atomic (R135): RET is P[9], OP is P[8:5]. -/
def shapeAt (p : Payload) (g : Bool) : Shape :=
  let w := wide64 p.v
  { vars := [0, 1, 2, 3, 4, 6], d := if p.m.getLsbD 4 then .mark w else .none, a := .of g, b := .of w,
    c := if p.m.toNat % 16 == 7 then .of w else .none, bits := 0x3FF }

/-- The special registers of R214 that are 64 bits wide. -/
def special64 (c : Nat) : Bool := [0x0D, 0x0E, 0x0F, 0x11, 0x12, 0x13, 0x19, 0x1A].contains c

/-- The use of the fields by each opcode (R100 to R120, R121, R135, R138 to R148, R151, R176 and the descriptions). DEDUCED, log entry 15. `fcross` admits no CLP (R66, R116).
DESIGN CHOICE, log entry 88. -/
def Opcode.shape (o : Opcode) (x : DecodeCtx) (p : Payload) : Shape :=
  let all := [0, 1, 2, 3, 4, 5, 6, 7]; let ints := [0, 1, 2, 3]; let fl := [4, 5, 6, 7]; let bv := [1, 3]
  let w := wide64 p.v; let sp := SUse.of (p.v == 0); let mask := SUse.of x.wide
  match o with
  | .mov => shapeT p all 1
  | .add | .sub | .mul | .div | .min | .max => shapeT p all 2
  | .mulhi | .rem | .addSat | .subSat => shapeT p ints 2
  | .mad => shapeT p ints 3
  | .lea => { vars := [2, 3], d := .any true, a := .r64, b := .r32, c := .own, ma := p.v == 2, mb := p.v == 2, clp := true }
  | .prmt => shapeB p [1] 3 false
  | .sel => { shapeT p all 2 with c := .r32 }
  | .and | .or | .xor | .andn => shapeB p bv 2 false
  | .not | .popc | .clz | .ctz | .brev => shapeB p bv 1 false
  | .shl | .shr | .bfe => shapeB p ints 1 true
  | .rot => shapeB p bv 1 true
  | .bfi => shapeB p bv 2 true
  | .fma => shapeT p fl 3
  | .dot2 => { vars := [6, 7], d := .any false, a := .r32, b := .r32, c := .r32, ma := true, mb := true, mc := true, clp := true,
               scl := true }
  | .fmin | .fmax => shapeT p fl 2
  | .rcp | .sqrt | .frac => shapeT p fl 1
  | .rsq | .exp2 | .log2 | .tanh => shapeT p [4, 6, 7] 1
  | .sin | .cos => shapeT p [4] 1
  | .rnd => { shapeT p fl 1 with c := .own }
  | .ldexp => { shapeT p [4, 5] 1 with b := .r32, mb := true }
  | .sgn => shapeT p [0, 2, 4, 5, 6, 7] 1
  | .cvt =>
    let s := p.c.toNat % 16; let nat := (s == 8 || s == 0xA) && p.b.getLsbD 0
    { vars := [0, 1, 2, 3, 4], d := .any (p.c.toNat / 16 == 0xB), a := .of (s == 0xB), b := .own, c := .own, ma := !nat,
      clp := true, scl := !(s == 8 || s == 0xA) }
  | .cvtpk => { vars := [0, 1, 2, 3, 4], d := .rmw, a := .r32, b := .r32, c := .own, ma := true, mb := true, clp := true, scl := true }
  | .cvtun => { vars := [0], d := .any false, a := .r32, c := .own, ma := true, clp := true, scl := true }
  | .cvtmx => { vars := [0, 1], d := .any false, a := .r32, b := if p.v == 1 then .r32 else .none, c := .own, ma := true }
  | .fclass => { vars := fl, d := .any w, a := .of w }
  | .fbin => { vars := [4], d := .any false, a := .r32, b := .r32, c := .own, ma := true }
  | .fscale => { vars := [4], d := .any false, a := .r32, b := .r32, ma := true, clp := true, scl := true }
  | .fcross => { vars := [1], d := .any false, a := .r32, b := .r32, c := .r32 }
  | .node => { vars := ints, d := .any false, a := .r32, b := .r32, c := .r32 }
  | .lacc => { vars := [4], d := .any false, a := .r32, b := .r32, c := .r32, ma := true, clp := true, scl := true }
  | .link => { vars := [4], d := .any false, a := .r32, c := .own, ma := true, clp := true, scl := true }
  | .lds => shapeLd p false false
  | .ldt => shapeLd p false true
  | .ldg | .ldm | .ldr | .ldh => shapeLd p true true
  | .sts | .stt => shapeSt p false
  | .stg | .stm | .str | .sth => shapeSt p true
  | .atms => shapeAt p false
  | .atmg | .atmr => shapeAt p true
  | .mcas => { vars := bv, d := .mark true, a := .r64, b := .r64, c := .of w }
  | .sred => { vars := [0, 1, 4], d := .mark false, a := .r64, b := .r32, c := .own }
  | .smv => { vars := [4], d := .none, a := .r32, b := .r32 }
  | .cpy1d =>
    { vars := [0], d := .src false, a := .of ((p.m.toNat % 8) ≥ 2), b := .of ((p.m.toNat / 8 % 8) ≥ 2), c := .r32, bits := 0x3F }
  | .cpyE => { vars := [1], d := .none, a := .r32 }
  | .idxg | .idxs => { vars := [0], d := .none, a := .r32, b := .r32 }
  | .idxgSt | .idxsSt => { vars := [1], d := .wr false true false true, a := .r32, b := .r32 }
  | .fqplay => { vars := [0], d := .none, b := .r32 }
  | .bput => { vars := [0], d := .none, a := .r32, b := .r32, c := .r32 }
  | .bplay => { vars := [0], d := .none, a := .r32, b := .r32 }
  | .wlpush | .wlins => { vars := [0], d := .none, b := .r32, bits := 3 }
  | .wlpop => { vars := [0], d := .mark false, c := .own, bits := 3 }
  | .wlstat => { vars := [0], d := .mark true, bits := 3 }
  | .barInit | .barExp | .barArr => { vars := [0], d := .none, a := .r32, b := .r32 }
  | .barArrM => { vars := [1], d := .none, a := .r32, b := .r32, c := mask }
  | .watchA => { vars := [0], d := .none, a := .r32, b := .r32, bits := 3 }
  | .watchC => { vars := [1], d := .none, a := .r32, b := .r64, c := .r64 }
  | .qword => { vars := ints, d := if p.v == 1 then .src true else .none, a := .r32, b := .r32, c := .r32, bits := 3 }
  | .tfill => { vars := [0, 1, 2], d := .none, a := .r64, b := if p.v == 0 then .none else .r32 }
  | .tcls | .tqry => { vars := [0], d := .mark true, a := .r64 }
  | .gang => { vars := [0, 2, 3, 4, 5, 6], d := .own, a := .own, b := .own, c := .own, bits := 0x3FF }
  | .mma => { vars := [0], d := .none, a := .r64, b := .r64, c := .own, bits := 0xFF }
  | .mmx => { vars := [1, 2, 3, 4], d := .none, a := .r64, b := .r64, c := .own, bits := 0xFF }
  | .mmld => { vars := [0, 1], d := .mark false, a := sp, b := .r32, c := .own, bits := 0xFF }
  | .mmst => { vars := [0, 1], d := .none, a := sp, b := .r32, c := .own, bits := 0xFF }
  | .mmz => { vars := [0], d := .none, bits := 0xFF }
  | .mmstat => { vars := [0], d := .mark true, bits := 0xFF }
  | .cbld => { vars := [0, 1], d := .none, a := sp, c := .own }
  | .seal => { vars := [0, 1], d := .wr false true false true, a := sp }
  | .hdrop => { vars := [0], d := .none, a := .r32 }
  | .fmt => { vars := [0], d := .none, a := .r32 }
  | .fmtM => { vars := [1], d := .none, a := .r32, b := .r32 }
  | .shfl => { vars := ints, d := .wr false true true false, a := .r32, b := .r32, c := mask }
  | .vote => { vars := ints, d := .wr (x.wide && p.v == 2) true false true, a := .r32, c := mask }
  | .redux => { vars := [0, 1, 2, 3, 4, 5], d := .wr w true false true, a := .of w, b := .own, c := mask,
                bits := if p.v ≥ 4 then 0x100 else 0 }
  | .bcast => { vars := [1], d := .wr false true false true, a := .r32, b := .r32, c := mask }
  | .barWait => { vars := [0, 1], d := if p.v == 1 then .wr false true false true else .none, a := .r32, b := .r32 }
  | .phaseRel | .phaseAcq => { vars := [0, 1, 2, 3, 4], d := .none }
  | .publish => { vars := [0], d := .none, a := .r64 }
  | .qfence => { vars := [0], d := .none, c := .own }
  | .trap | .bkpt => { vars := [0], d := .none, c := .own }
  | .nopre | .pre | .yield => { vars := [0], d := .none }
  | .capq => { vars := [0], d := .wr true true false true }
  | .sread => { vars := [0], d := .wr (special64 p.c.toNat) false false true, c := .own }
  | .swrite => { vars := [0], d := .none, a := .of (special64 p.c.toNat), c := .own }
  | .eret => { vars := [0], d := .none, a := mask, b := .r64 }
  | .eretExit => { vars := [1], d := .none, a := mask }
  | .lget => { vars := ints, d := .wr (p.v == 1) true false true, a := .r32, c := .own }
  | .lset => { vars := [0, 1], d := .none, a := .of (p.v == 1), b := .r32, c := .own }

/-- Is a selector a source of 32 or 64 bits (R70, R19, R20)? -/
def srcOk (alloc nlit : Nat) (w : Bool) (sel : Nat) : Bool :=
  if sel < 0xC0 then sel < alloc && (!w || sel % 2 == 0)
  else if sel < 0xD0 then !w || sel % 2 == 0
  else if sel < 0xD2 then !w
  else if sel < 0xD4 then true
  else if sel < 0xD8 then false
  else if sel < 0xE0 then
    let i := sel - 0xD8
    if w then i % 2 == 0 && i + 1 < nlit else i < nlit
  else !w || sel % 2 == 0

/-- Is a selector a written destination, with main, operand and scalar registers admitted as the flags say (R24, R25, R70)? -/
def dstOk (alloc : Nat) (w v o s : Bool) (sel : Nat) : Bool :=
  (!w || sel % 2 == 0) &&
  (if sel < 0xC0 then v && sel < alloc else if sel < 0xD0 then o else if sel < 0xE0 then false else s)

/-- The number of elements of a 32-bit register in a format code (R37). -/
def codeCount (c : Nat) : Nat :=
  if c == 1 || c == 2 then 2 else if c == 7 || c == 9 then 8 else if 3 ≤ c && c ≤ 8 then 4 else 1

/-- The operand types that an atomic operation admits (R136). -/
def atomTypes (op : Nat) : List Nat :=
  match op with
  | 0 => [0, 1, 2, 3, 4, 6] | 1 => [0, 1, 2, 3, 4] | 2 => [0, 1, 2, 3, 4]
  | 3 => [1, 3] | 4 => [1, 3] | 5 => [1, 3] | 6 => [1, 3] | 7 => [1, 3] | _ => []

/-- The pairings of R156 for `mma`. -/
def mmaPair (a b : Nat) : Bool :=
  (a == 1 && b == 1) || (a == 2 && b == 2) || ((a == 3 || a == 4) && (b == 3 || b == 4)) || (a == 8 && b == 8) ||
  ((a == 5 || a == 6) && (b == 5 || b == 6)) || (a == 7 && b == 7) || (a == 9 && b == 9) || (a == 9 && b == 1) || (a == 1 && b == 9)

/-- The pairings of R156 for `mmx`. -/
def mmxPair (a b : Nat) : Bool := (a == 1 && b == 1) || (a == 2 && b == 2) || (a == 8 && b == 8)

/-- The special-register codes of R214 that `sread` admits. -/
def sreadCode (c : Nat) : Bool := c ≤ 0x13 || (0x18 ≤ c && c ≤ 0x1B) || c == 0x20

/-- The gang field P[46:5] of an operation (R158): the low bits of D, then A, B, C and P[14:5]. -/
def Payload.gangBits (p : Payload) : Nat :=
  p.m.toNat + p.c.toNat * 2 ^ 10 + p.b.toNat * 2 ^ 18 + p.a.toNat * 2 ^ 26 + p.d.toNat * 2 ^ 34

/-- Member `i` of a gang field (R30). -/
def gangMember (g i : Nat) : Nat := nbits g (7 * i) 7

/-- Are the members of a gang field of `n` members strictly ascending, with the unused slots zero (R158)? -/
def gangOk (g n : Nat) : Bool :=
  (List.range 6).all (fun i => if i + 1 < n then gangMember g i < gangMember g (i + 1) else if i < n then true else gangMember g i == 0)
  && g < 2 ^ 42

/-- The values of an opcode's own fields that its description admits (reason 6 otherwise). -/
def Opcode.ownOk (o : Opcode) (x : DecodeCtx) (p : Payload) : Bool :=
  let c := p.c.toNat; let hi := c / 16; let lo := c % 16; let m := p.m.toNat
  match o with
  | .lea => c < 8
  | .rnd => c < 6
  | .cvt => hi < 12 && lo < 12 && p.b.toNat < 2
  | .cvtpk => 1 ≤ hi && hi ≤ 9 && lo < 4 && lo < codeCount hi / 2
  | .cvtun => 1 ≤ hi && hi ≤ 9 && lo < 8 && lo < codeCount hi
  | .cvtmx => (3 ≤ hi && hi ≤ 7 && lo == 0) || (hi == 9 && lo < 8)
  | .link => c < 4
  | .ldt | .stt => x.twin
  | .atms | .atmg | .atmr => (atomTypes (m % 16)).contains p.v && m / 32 % 8 < 5 && (m / 256 != 0 || m / 32 % 8 == 0)
  | .sred => c < 3
  | .cpy1d => m % 8 < 6 && m / 8 % 8 < 6
  | .wlpop => c < 32
  | .qword => p.v == 1 || m % 4 == 0
  | .gang => gangOk p.gangBits p.v
  | .mma => mmaPair hi lo && p.band < x.bands
  | .mmx => mmxPair hi lo && p.band < x.bands
  | .mmld | .mmst => hi == 0 && (lo < 5 || lo == 0xA) && p.band < x.bands
  | .mmz | .mmstat => p.band < x.bands
  | .cbld => c < 8
  | .redux => p.b.toNat < 6 && (p.b.toNat < 3 || p.v == 1 || p.v == 3)
  | .qfence => 0 < c && c < 64
  | .sread => sreadCode c
  | .swrite => c == 0x12 || c == 0x13 || c == 0x20
  | .lget => p.v != 3 || c < 4
  | _ => true

/-- Does a selector name what a membership mask may be: a main, operand or scalar register, or a literal (R111)? -/
def maskOk (c : BitVec 8) : Bool := c.toNat < 0xD0 || 0xD8 ≤ c.toNat

/-- The further selector kinds that a description asks of a field (reason 5 otherwise). -/
def Opcode.kindOk (o : Opcode) (x : DecodeCtx) (nlit : Nat) (p : Payload) : Bool :=
  let scal : BitVec 8 → Bool := fun s => 0xE0 ≤ s.toNat && s.toNat % 2 == 0
  match o with
  | .mma | .mmx => scal p.a && scal p.b
  | .mmld | .mmst | .cbld | .seal => p.v != 0 || p.a != 0xD3
  | .bcast => maskOk p.c && (p.b == 0xD2 || 0xD8 ≤ p.b.toNat)
  | .lget => p.v == 3 || srcOk x.selAlloc nlit (p.v == 1) p.c.toNat
  | .shfl | .vote | .redux | .barArrM => maskOk p.c
  | .lset => (p.v == 0 && (p.c == 0xD0 || p.c == 0xD1)) || dstOk x.selAlloc (p.v == 1) true true true p.c.toNat
  | _ => true

/-- May a handler fragment issue this opcode (R211)? -/
def Opcode.handlerOk (o : Opcode) : Bool :=
  opClass o.byte != .H ||
  (match o with | .sread | .swrite | .lget | .lset | .eret | .eretExit | .capq => true | _ => false)

/-- A source field against its use: the selector reason. -/
def SUse.selOk (u : SUse) (alloc nlit : Nat) (sel : BitVec 8) : Bool :=
  match u with
  | .none => true | .own => true
  | .r32 => srcOk alloc nlit false sel.toNat
  | .r64 => srcOk alloc nlit true sel.toNat

/-- A source field against its use: zero when unused, and an FE bit only on a main register (R64, R67). -/
def SUse.fieldOk (u : SUse) (sel : BitVec 8) (fe : Bool) : Bool :=
  match u with
  | .none => sel == 0 && !fe
  | .own => !fe
  | _ => !fe || sel.toNat < 0xC0

/-- The D field against its use: the selector reason. -/
def DUse.selOk (u : DUse) (alloc nlit : Nat) (sel : BitVec 8) : Bool :=
  match u with
  | .none => true | .own => true
  | .src w => srcOk alloc nlit w sel.toNat
  | .rmw => dstOk alloc false true true true sel.toNat
  | .wr w v o s => dstOk alloc w v o s sel.toNat
  | .mark w => dstOk alloc w true false false sel.toNat

/-- The modifier, SCL and CLP bits of a class-A payload, and P[14:5] of the others, against the shape (R64, R66). -/
def Shape.bitsOk (s : Shape) (cls : OpClass) (p : Payload) : Bool :=
  if cls = .A then
    (s.ma || !(p.na || p.aa)) && (s.mb || !(p.nb || p.ab)) && (s.mc || !(p.nc || p.ac)) && (s.clp || !p.clp) &&
    (s.scl || p.m.toNat % 8 == 0)
  else p.m.toNat &&& (0x3FF - s.bits) == 0

/-- The reasons 5 of one operation (R76), with the operand widths that its VAR bits give, admitted or not. DESIGN CHOICE, log entry 91. -/
def Op.operandOk (x : DecodeCtx) (nlit : Nat) (o : Op) : Bool :=
  match Opcode.ofByte o.opc.toNat o.p.v with
  | none => true
  | some k =>
    let s := k.shape x o.p
    s.d.selOk x.alloc nlit o.p.d && s.a.selOk x.alloc nlit o.p.a && s.b.selOk x.alloc nlit o.p.b &&
    s.c.selOk x.alloc nlit o.p.c && k.kindOk x nlit o.p

/-- The reasons 6 of one operation (R76); an opcode that a handler may not run (R211) is among them. DESIGN CHOICE, log entry 90. -/
def Op.variantOk (x : DecodeCtx) (o : Op) : Bool :=
  match Opcode.ofByte o.opc.toNat o.p.v with
  | none => true
  | some k =>
    let s := k.shape x o.p
    s.vars.contains o.p.v && (s.d != .none || o.p.d == 0) && s.a.fieldOk o.p.a o.p.fea && s.b.fieldOk o.p.b o.p.feb &&
    s.c.fieldOk o.p.c o.p.fec && s.bitsOk (opClass o.opc.toNat) o.p && k.ownOk x o.p && (!x.handler || k.handlerOk)

namespace Test

/-- Is a test type 64 bits wide (R62)? -/
def wide (t : Test) : Bool := t.tty = .f64 || t.tty = .s64 || t.tty = .n64

/-- Is a test type a float type (R61)? -/
def isFloat (t : Test) : Bool := t.tty = .f32 || t.tty = .f64 || t.tty = .bf16 || t.tty = .f16

/-- How many operands a test has (R61). -/
def arity (t : Test) : Nat :=
  match t.op with
  | .true => 0
  | .isnan | .isinf | .isfin | .issub | .isnorm | .iszero | .isneg | .pow2 | .full => 1
  | _ => 2

/-- Does the type suit the test (R61)? -/
def typeOk (t : Test) : Bool :=
  match t.op with
  | .ult | .ule | .ugt | .uge | .one | .ueq | .ord | .uno | .isnan | .isinf | .isfin | .issub | .isnorm | .mlt | .mle => t.isFloat
  | .btst | .all | .any | .inr | .inrc | .pow2 => !t.isFloat
  | .full | .true => t.tty = .n32
  | _ => true

/-- The reasons 5 of a test. -/
def operandOk (x : DecodeCtx) (nlit : Nat) (t : Test) : Bool :=
  (t.arity == 0 || srcOk x.alloc nlit t.wide t.a.toNat) && (t.arity != 2 || t.bi || srcOk x.alloc nlit t.wide t.b.toNat) &&
  (t.op != .full || t.a.toNat < 0xC0)

/-- The reasons 6 of a test. -/
def variantOk (t : Test) : Bool :=
  t.typeOk && (t.arity == 2 || (t.b == 0 && !t.bi && !t.feb)) && (t.arity != 0 || (t.a == 0 && !t.fea)) &&
  (!t.bi || !t.feb) && (!t.fea || (t.a.toNat < 0xC0 && t.op != .full)) && (!t.feb || t.b.toNat < 0xC0)

end Test

namespace Leaf

/-- The indirect selector of a leaf (R68). -/
def sel (l : Leaf) : Nat := l.off.toNat % 256

/-- Does a leaf name an indirect target (R68)? -/
def indirect (l : Leaf) : Bool := l.kind = .branchInd || l.kind = .callInd

/-- The reasons 5 of a leaf: an indirect target is an even main, operand or scalar register. -/
def operandOk (x : DecodeCtx) (l : Leaf) : Bool :=
  !l.indirect || dstOk x.alloc true true true true l.sel

/-- The reasons 6 of a leaf: the field values that R68 admits for its kind. -/
def variantOk (l : Leaf) : Bool :=
  match l.kind with
  | .next | .ret | .exit => l.pop == 0 && l.off == 0
  | .branch | .call => l.pop == 0
  | .branchInd | .callInd => l.pop == 0 && l.off.toNat < 256
  | .brk => l.pop != 0

end Leaf

namespace Tree

/-- Does a test stand at heap position `p` (R55)? -/
def hasTest (t : Tree) (p : Nat) : Bool := 1 ≤ p && p ≤ 7 && t.tmask.getLsbD (p - 1)

/-- The positions of the tests, ascending. -/
def testPos (t : Tree) : List Nat := (List.range 8).filter t.hasTest

/-- Is position `p` a leaf (R57)? -/
def isLeaf (t : Tree) (p : Nat) : Bool := 1 ≤ p && !t.hasTest p && (p == 1 || t.hasTest (p / 2))

/-- The positions of the leaves, ascending. -/
def leafPos (t : Tree) : List Nat := (List.range 16).filter t.isLeaf

/-- The test at a position. -/
def testAt (t : Tree) (p : Nat) : Option Test := (t.testPos.idxOf? p).bind (fun i => t.tests[i]?)

/-- The leaf at a position. -/
def leafAt (t : Tree) (p : Nat) : Option Leaf := (t.leafPos.idxOf? p).bind (fun i => t.leaves[i]?)

/-- Does arc `k` exist (R58)? -/
def arcExists (t : Tree) (k : Nat) : Bool := k == 0 || (k ≤ 14 && t.hasTest ((k + 1) / 2))

/-- The operations on an arc with their places among the tree's operations, in encoded order (R58). -/
def arcOps (t : Tree) (k : Nat) : List (Nat × Op) := t.ops.zipIdx.filterMap (fun (o, i) => if o.p.arc.toNat = k then some (i, o) else none)

/-- The number of words of the instruction (R59). -/
def words (t : Tree) : Nat := (2 * (1 + t.tests.length + t.ops.length + t.lits.length) + 3) / 4

/-- The shape rules R57 and R59. -/
def shapeOk (t : Tree) : Bool :=
  t.ops.length ≤ 8 && t.lits.length ≤ 7 && t.tests.length + t.ops.length + t.lits.length ≤ 15 &&
  t.tests.length == t.testPos.length && t.leaves.length == t.leafPos.length &&
  t.testPos.all (fun p => p == 1 || t.hasTest (p / 2))

/-- One item of a root-to-leaf path. -/
inductive Item where
  | op (o : Op) | test (t : Test) | leaf (l : Leaf)
  deriving DecidableEq, Repr

/-- The positions from the root down to `p`. -/
def chain (p : Nat) : List Nat := if p < 2 then [1] else if p < 4 then [1, p] else if p < 8 then [1, p / 2, p] else [1, p / 4, p / 2, p]

/-- The items of the path that ends at leaf position `p`, in the order in which a lane meets them (R77). -/
def path (t : Tree) (p : Nat) : List Item :=
  (t.arcOps 0).map (fun x => .op x.2) ++
  ((chain p).drop 1).flatMap (fun c =>
    ((t.testAt (c / 2)).toList.map .test) ++ (t.arcOps (c - 1)).map (fun x => .op x.2)) ++
  (t.leafAt p).toList.map .leaf

/-- The registers that a selector of 32 or 64 bits names. -/
def selRegs (w : Bool) (s : Nat) : List Nat := if w then [s, s + 1] else [s]

/-- The destination registers of an operation (R72); the scalar that `wlpop` writes is not counted. DESIGN CHOICE, log entry 89. -/
def Item.dest (x : DecodeCtx) : Item → List Nat
  | .op o =>
    match Opcode.ofByte o.opc.toNat o.p.v with
    | none => []
    | some k =>
      match (k.shape x o.p).d with
      | .wr w _ _ _ => selRegs w o.p.d.toNat
      | .mark w => selRegs w o.p.d.toNat
      | .rmw => [o.p.d.toNat]
      | _ => []
  | _ => []

/-- The registers that a source field names. -/
def useRegs (u : SUse) (s : BitVec 8) : List Nat :=
  match u with
  | .r32 => [s.toNat] | .r64 => [s.toNat, s.toNat + 1] | _ => []

/-- The registers that an item reads or writes (R72). -/
def Item.touch (x : DecodeCtx) : Item → List Nat
  | .op o =>
    match Opcode.ofByte o.opc.toNat o.p.v with
    | none => []
    | some k =>
      let s := k.shape x o.p
      Item.dest x (.op o) ++ (match s.d with | .src w => selRegs w o.p.d.toNat | _ => []) ++
      useRegs s.a o.p.a ++ useRegs s.b o.p.b ++ useRegs s.c o.p.c
  | .test t =>
    (if t.arity = 0 then [] else selRegs t.wide t.a.toNat) ++ (if t.arity = 2 && !t.bi then selRegs t.wide t.b.toNat else [])
  | .leaf l =>
    (if l.indirect then selRegs true l.sel else []) ++
    (if l.kind = .call || l.kind = .callInd || l.kind = .ret then [0xCE, 0xCF] else [])

/-- Does an operation have its destination guarded by R72: class M, or class H with a destination marked empty? -/
def Item.guarded (x : DecodeCtx) : Item → Bool
  | .op o =>
    match opClass o.opc.toNat with
    | .A => false
    | .M => true
    | .H =>
      match Opcode.ofByte o.opc.toNat o.p.v with
      | none => false
      | some k => match (k.shape x o.p).d with | .mark _ => true | _ => false
  | _ => false

/-- R72 along one path: after a guarded operation no item touches its destination. -/
def pathClear (x : DecodeCtx) : List Item → Bool
  | [] => true
  | i :: t =>
    (!(i.guarded x) || t.all (fun j => (j.touch x).all (fun r => !(i.dest x).contains r))) && pathClear x t

/-- Is an item a class-M operation? -/
def Item.isM : Item → Bool
  | .op o => opClass o.opc.toNat = .M
  | _ => false

/-- Must an operation stand alone in its instruction (R73, R186)? -/
def aloneOp (o : Op) : Bool := opClass o.opc.toNat = .H || (o.opc == 0x9D && o.p.v == 1)

/-- Is a list of numbers non-decreasing? -/
def ascending : List Nat → Bool
  | [] => true
  | a :: t => t.all (fun b => a ≤ b) && ascending t

/-- Reason 3: R58, R72, R73. -/
def placementOk (x : DecodeCtx) (t : Tree) : Bool :=
  t.ops.all (fun o => t.arcExists o.p.arc.toNat) &&
  ascending (t.ops.map (fun o => o.p.arc.toNat)) &&
  t.leafPos.all (fun p => ((t.path p).filter Item.isM).length ≤ 1 && pathClear x (t.path p)) &&
  t.ops.all (fun o => !aloneOp o || (t.tmask == 0 && t.ops.length == 1 && o.p.arc == 0))

/-- Reason 4: every opcode is assigned (R74). -/
def assignedOk (t : Tree) : Bool := t.ops.all (fun o => (Opcode.ofByte o.opc.toNat o.p.v).isSome)

/-- Reason 5 over the whole tree. -/
def operandOk (x : DecodeCtx) (t : Tree) : Bool :=
  t.ops.all (fun o => o.operandOk x t.lits.length) && t.tests.all (fun s => s.operandOk x t.lits.length) &&
  t.leaves.all (fun l => l.operandOk x)

/-- Reason 6 over the whole tree. -/
def variantOk (x : DecodeCtx) (t : Tree) : Bool :=
  t.ops.all (fun o => o.variantOk x) && t.tests.all Test.variantOk && t.leaves.all Leaf.variantOk

/-- The first reason of R76 that a tree of the right shape, without reserved bits, gives; none when it is legal. -/
def illegal? (x : DecodeCtx) (t : Tree) : Option Reason :=
  if !t.placementOk x then some .placement
  else if !t.assignedOk then some .unassigned
  else if !t.operandOk x then some .operand
  else if !t.variantOk x then some .variant
  else none

/-- The tree of one operation and no test. -/
def one (o : Opcode) (h : Head) (p : Payload) : Tree :=
  ⟨h.stall, h.uni, 0, [], [⟨BitVec.ofNat 8 o.byte, p⟩], [h.leaf], h.lits⟩

end Tree

/-- The tree of an instruction; none for an event. -/
def Instr.tree? : Instr → Option Tree
  | .treeInstruction t => some t
  | i => i.op?.map (fun (o, h, p) => Tree.one o h p)

/-- The instruction of a legal tree: its opcode's own row when it is one operation without tests, else `treeInstruction`. -/
def Instr.ofTree (t : Tree) : Instr :=
  match t.tmask == 0, t.ops, t.leaves with
  | true, [o], [l] =>
    match Opcode.ofByte o.opc.toNat o.p.v with
    | some k => Instr.ofOp k ⟨t.stall, t.uni, l, t.lits⟩ o.p
    | none => .treeInstruction t
  | _, _, _ => .treeInstruction t

/-- An instruction is well formed in a context: its tree has the shape of R57 and R59, breaks no rule of R76, and is written with its own
opcode's constructor. An event is always well formed. -/
def Instr.wf (x : DecodeCtx) (i : Instr) : Bool :=
  match i.tree? with
  | none => true
  | some t => t.shapeOk && (t.illegal? x).isNone && Instr.ofTree t == i

end Sys2Proof
end

