-- ==== Sys2Proof/Machine/Access.lean ====
section
/-!
DEFINITION. Accesses of lanes under way: the L1 of a core (R291, R292), atomics (R136), and the transactions in flight: how each is performed, in what order,
and how its answer reaches a register (R125, R127, R243).
-/

namespace Sys2Proof.Machine

/-! ## L1 (R291, R292) -/

/-- The line of a core's L1, empty when it is not held. -/
def CoreSt.line (c : CoreSt) (ln : Nat) : L1Line := (c.l1.find? (fun l => l.line == ln)).getD { line := ln }

/-- Put a line into a core's L1; a line without valid bytes is not held. -/
def CoreSt.putLine (c : CoreSt) (l : L1Line) : CoreSt :=
  let rest := c.l1.filter (fun x => x.line != l.line)
  { c with l1 := if l.valid = 0 then rest else l :: rest }

/-- The mask of `n` bytes from offset `off` of a line. -/
def byteMask (off n : Nat) : BitVec 128 := BitVec.ofNat 128 ((2 ^ n - 1) * 2 ^ off)

/-- The mask of the bits of the bytes of a byte mask. -/
def bitMask (m : BitVec 128) : BitVec 1024 :=
  (List.range 128).foldl (fun b i => if m.getLsbD i then b ||| (255#1024 <<< (8 * i)) else b) 0

/-- Are `n` bytes from offset `off` valid in a line? -/
def L1Line.hits (l : L1Line) (off n : Nat) : Bool := l.valid &&& byteMask off n == byteMask off n

/-- Bytes of a line as a number. -/
def L1Line.bytes (l : L1Line) (off n : Nat) : Nat := nbits l.data.toNat (8 * off) (8 * n)

/-- Store bytes into a line, where the mask of the bytes given becomes valid, and dirty if so said. -/
def L1Line.put (l : L1Line) (off n v : Nat) (dirty : Bool) : L1Line :=
  let m := byteMask off n; let b := bitMask m
  { l with valid := l.valid ||| m, dirty := if dirty then l.dirty ||| m else l.dirty,
           data := (l.data &&& ~~~b) ||| (BitVec.ofNat 1024 (v * 2 ^ (8 * off)) &&& b) }

/-- A fill merges beneath the stored bytes and never overwrites them. -/
def L1Line.fill (l : L1Line) (v : Nat) : L1Line :=
  let b := bitMask l.valid
  { l with valid := BitVec.allOnes 128, data := (l.data &&& b) ||| (BitVec.ofNat 1024 v &&& ~~~b) }

/-- A line is reached by an access of a context through a page (R294). -/
def L1Line.reached (l : L1Line) (c va : Nat) : L1Line := { l with via := if l.via.contains (c, vpn va) then l.via else (c, vpn va) :: l.via }

/-- Drop the bytes of a line that are not dirty. -/
def L1Line.clean (l : L1Line) : L1Line := { l with valid := l.dirty }

/-- Count a request of a core toward a line (R292). -/
def State.countReq (s : State) (core pa : Nat) (tile : Bool) : State :=
  s.modCore core (fun c => if s.homeDie pa tile = core / 24 then { c with lreq := c.lreq + 1 } else { c with rreq := c.rreq + 1 })

/-- The runs of set bits of a byte mask: offset and length, ascending. -/
def runs (m : BitVec 128) : List (Nat × Nat) :=
  ((List.range 128).foldl (fun (r : List (Nat × Nat)) i =>
    if m.getLsbD i then
      (match r with
       | (o, n) :: t => if o + n = i then (o, n + 1) :: t else (i, 1) :: r
       | [] => [(i, 1)])
    else r) []).reverse

/-- Write the dirty bytes of a line at their home. -/
def State.putDirty (s : State) (l : L1Line) : State :=
  (runs l.dirty).foldl (fun a (o, n) => a.devWrite l.serial (128 * l.line + o) (leBytes n (l.bytes o n)) false) s

/-- The asynchronous error of a line's write-back (R127). -/
def State.lineErr (s : State) (core : Nat) (l : L1Line) (cause : Nat) : State :=
  s.asyncErr l.ctx { cause := cause, detail := 0, lane := 0, src := 2, addr := l.va, head := 0, core := core, wave := 0, que := 0, serial := l.serial }

/-- Write a core's dirty line back to its home slice and keep it clean (R291, R320); a home die that does not answer cuts the bytes off, and bytes for a
poisoned line have no effect unless they cover it, each with its record (R127, R322, R336). DEDUCED, log entry 25. -/
def State.writeBack (s : State) (core ln : Nat) : State :=
  let l := (s.core core).line ln
  if l.dirty = 0 then s
  else
    let pa := 128 * ln
    let s1 := (s.modCore core (fun c => c.putLine { l with dirty := 0 })).countReq core pa false
    if !s.served (s.homeDie pa false) then (s1.cutWrite pa 128 (fun a => a.putDirty l)).lineErr core l 0x13
    else if s1.poison.contains ln && l.dirty != BitVec.allOnes 128 then s1.lineErr core l 0x0C
    else s1.putDirty l

/-- Write back every dirty line of a core, in the order of their line numbers. -/
def State.writeBackAll (s : State) (core : Nat) : State :=
  (sortNat (((s.core core).l1.filter (fun l => l.dirty != 0)).map (·.line))).foldl (fun a ln => a.writeBack core ln) s

/-- Drop a line from a core's L1, writing its dirty bytes back first. -/
def State.evict (s : State) (core ln : Nat) : State :=
  (s.writeBack core ln).modCore core (fun c => { c with l1 := c.l1.filter (fun l => l.line != ln) })

/-- Drop the lines of a range from a core's L1, writing their dirty bytes back first. -/
def State.evictRange (s : State) (core pa n : Nat) : State :=
  (((s.core core).l1.filter (fun l => n != 0 && lineOf pa ≤ l.line && l.line ≤ lineOf (pa + n - 1))).map (·.line)).foldl (fun b ln => b.evict core ln) s

/-- Drop the lines of a range from every L1, after their dirty bytes are written back (R141, R294). -/
def State.dropLines (s : State) (pa n : Nat) : State := (List.range s.cores.length).foldl (fun a c => a.evictRange c pa n) s

/-- The lines that an L1 holds: 256 KiB of 128 bytes (R6). DESIGN CHOICE, log entry 77. -/
def l1Lines : Nat := 2048

/-- Make room in a core's L1 for a line: when the L1 is full without it, a line of its own choice, a free value, is evicted (R6, R291). DESIGN CHOICE, log entry 77. -/
def State.l1Room (s : State) (core ln : Nat) : State :=
  let l := (s.core core).l1
  if l.length < l1Lines || l.any (fun x => x.line == ln) then s
  else
    let (x, s1) := s.free
    match l[x % l.length]? with
    | some y => s1.evict core y.line
    | none => s1

/-- The invalidation of `phase.acq` (R143): what is not dirty leaves the core's L1. -/
def State.acquireL1 (s : State) (core : Nat) : State :=
  s.modCore core (fun c => { c with l1 := (c.l1.map L1Line.clean).filter (fun l => l.valid != 0) })

/-! ## Atomic operations (R136) -/

/-- A float sum of an atomic: RNE, no flush, canonical NaN. -/
def atomAddF (f : FFmt) (a b : Nat) : Nat := (writeF f .rne false false (Num.add .rne (f.read a) (f.read b)).1).1

/-- The new memory value of an atomic operation on type VAR; none for a `cas` whose compare fails. -/
def atomOp (op ty old b c : Nat) : Option Nat :=
  let n := if ty = 2 || ty = 3 then 64 else 32
  let sg : Nat → Int := fun x => if ty = 0 || ty = 2 then toSigned n x else ((x % 2 ^ n : Nat) : Int)
  let mm : Bool → Nat := fun mx =>
    if ty = 4 then (writeF .f32 .rne false false (Num.minmaxNum mx (FFmt.f32.read old) (FFmt.f32.read b))).1
    else if decide (sg old < sg b) != mx then old % 2 ^ n else b % 2 ^ n
  match op with
  | 0 => some (if ty = 4 then atomAddF .f32 old b
               else if ty = 6 then atomAddF .bf16 (old % 65536) (b % 65536) + 65536 * atomAddF .bf16 (old / 65536 % 65536) (b / 65536 % 65536)
               else (old + b) % 2 ^ n)
  | 1 => some (mm false)
  | 2 => some (mm true)
  | 3 => some ((old &&& b) % 2 ^ n)
  | 4 => some ((old ||| b) % 2 ^ n)
  | 5 => some ((old ^^^ b) % 2 ^ n)
  | 6 => some (b % 2 ^ n)
  | 7 => if old % 2 ^ n = c % 2 ^ n then some (b % 2 ^ n) else none
  | _ => some (old % 2 ^ n)

/-! ## Tile instructions (R147, R148) -/

/-- The 8192 bytes and the entry that `tfill` writes: kind 0 zero, 1 constant, 2 identity (R147). -/
def tfillData (k code b : Nat) : List Byte × DWord :=
  let w := codeBits code; let eb := if w = 4 then 4 else 8 * ((w + 7) / 8)
  let row : (Nat → Nat) → Nat := fun f => (List.range (tileCols code)).foldl (fun n c => n + f c * 2 ^ (eb * c)) 0
  let fin : Nat → Nat := fun x => b2n (code != 9 && elemFin code x)
  match k with
  | 0 => (List.replicate 8192 0, dirEntry 0 0 code (fin 0) 1)
  | 1 =>
    let x := b % 2 ^ w
    ((List.replicate 32 (leBytes 256 (row (fun _ => x)))).flatten, dirEntry x 0 code (fin x) 2)
  | _ =>
    if b ≥ tileCols code then (List.replicate 8192 0, dirEntry 0 0 code 1 1)
    else ((List.range 32).flatMap (fun r => leBytes 256 (row (fun c => if c = r + b then elemOne code else 0))), dirEntry 0 b code 1 3)

/-! ## `sred` (R139) -/

/-- The reduction of elements: `t` is 0 signed, 1 natural, 4 FP32; op 0 add, 1 min, 2 max. -/
def sredOp (t op : Nat) (xs : List Nat) : Nat :=
  if t = 4 then
    let ys := xs.map FFmt.f32.read
    (writeF .f32 .rne false false
      (match op, ys with
       | 0, [] => .fin false 0 0
       | 0, _ => (Num.sum .rne ys).1
       | 1, [] => .inf false
       | 1, y :: r => r.foldl (Num.minmaxNum false) y
       | _, [] => .inf true
       | _, y :: r => r.foldl (Num.minmaxNum true) y)).1
  else
    let v : Nat → Int := fun x => if t = 0 then toSigned 32 x else ((x % 2 ^ 32 : Nat) : Int)
    let lo : Int := if t = 0 then -2147483648 else 0
    let hi : Int := if t = 0 then 2147483647 else 4294967295
    wrapInt 32 (match op with
      | 0 => (xs.map v).foldl (· + ·) 0
      | 1 => (xs.map v).foldl min hi
      | _ => (xs.map v).foldl max lo)

/-- The bytes of an atomic's or `mcas`'s type (R135, R138). -/
def typeBytes (v : Nat) : Nat := if wide64 v then 8 else 4

/-! ## Delivery to registers (R21, R127) -/

/-- Change the lane that a destination stands in: the wave's lane, or the handler fragment's one lane. -/
def Wave.modLane (w : Wave) (fromHandler : Bool) (lane : Nat) (f : Lane → Lane) : Wave :=
  if fromHandler then { w with handler := w.handler.map (fun h => { h with lane := f h.lane }) } else { w with lanes := modNth w.lanes lane f }

/-- Groups whose empty registers have all been filled wake (R220). -/
def Wave.wakeRegs (w : Wave) (cyc : Nat) : Wave :=
  let full : Nat × Nat → Bool := fun (l, r) => !((nth {} w.lanes l).reg r).empty
  let fullH : Nat × Nat → Bool := fun (_, r) => (match w.handler with | some h => !(h.lane.reg r).empty | none => true)
  { w with
    slots := w.slots.map (fun g => match g.wait with | .regs l => if l.all full then g.wake cyc else g | _ => g)
    handler := w.handler.map (fun h => match h.g.wait with
      | .regs l => if l.all fullH then { h with g := h.g.wake cyc } else h
      | .laneRegs l => if l.all full then { h with g := h.g.wake cyc } else h
      | _ => h) }

/-- Write a delivered value, or set the register full with an error mark, and wake the groups that waited for it (R21, R127). DEDUCED, log entry 32. DEDUCED, log entry 48. -/
def State.deliver (s : State) (t w lane : Nat) (fromHandler : Bool) (dest : Nat) (wide : Bool) (v mark : Nat) : State :=
  match s.team? t with
  | none => s
  | some x =>
    s.modWave t w (fun y =>
      (y.modLane fromHandler lane (fun l =>
        if mark = 0 then l.write dest wide v
        else (let l1 := l.setMark dest mark; if wide then l1.setMark (dest + 1) mark else l1))).wakeRegs (s.cycOf x y))

/-- Transactions that groups waited for have been answered. -/
def State.wakeFlights (s : State) : State :=
  s.wakeAll (fun w => match w with | .flights l => l.all (fun i => !(s.flights.any (fun f => f.id == i))) | _ => false)

/-- A miss-status entry of a core is free: the groups that want one are looked at again (R291). -/
def State.wakeMiss (s : State) (core : Nat) : State :=
  { s with teams := s.teams.map (fun x => { x with waves := x.waves.map (fun w => if x.coreOf w = core then w.wakeIf (s.cycOf x w) (· == .miss) else w) }) }

/-- Remove a transaction. -/
def State.dropFlight (s : State) (id : Nat) : State := { s with flights := s.flights.filter (fun f => f.id != id) }

/-- Change a transaction. -/
def State.modFlight (s : State) (id : Nat) (f : Flight → Flight) : State :=
  { s with flights := s.flights.map (fun x => if x.id = id then f x else x) }

/-- The transaction of a number. -/
def State.flight? (s : State) (id : Nat) : Option Flight := s.flights.find? (fun f => f.id == id)

/-- The fault record of a transaction's asynchronous error (R276). -/
def Flight.errRec (f : Flight) (cause detail : Nat) : FRec :=
  { cause := cause, detail := detail, lane := f.lane, src := 2, addr := f.va, head := f.head, core := f.core, wave := f.wave, que := 0, serial := f.serial }

/-- A transaction ends with an error found after commit (R127): a mark for one that returns a value, else a record; a majority loss is logged (R321). -/
def State.flightErr (s0 : State) (f : Flight) (cause : Nat) : State :=
  let s := if cause = 0x12 then s0.logLoss f.pa f.serial f.core 0x12 else s0
  if f.dest.isSome then s.modFlight f.id (fun x => { x with fixed := some 0, mark := cause })
  else (s.dropFlight f.id).asyncErr f.ctx (f.errRec cause (if cause = 4 || cause = 5 then 1 else 0))

/-- A transaction's operation is done: its value is fixed when it returns one, else it is gone. -/
def State.flightDone (s : State) (f : Flight) (v : Nat) : State :=
  if f.dest.isSome then s.modFlight f.id (fun x => { x with fixed := some v }) else s.dropFlight f.id

/-! ## The order of a wave's transactions (R125, R243, R291, R301, R304, R308, R316) -/

/-- Is a transaction a write: a store, an atomic, `mcas` or `tfill`? -/
def Flight.writes (f : Flight) : Bool := match f.kind with | .store => true | .atomic => true | .mcas => true | .tfill => true | _ => false

/-- Does a transaction belong to a wave? -/
def Flight.ofWave (f : Flight) (t w : Nat) : Bool := !f.eng && f.team == t && f.wave == w

/-- Do two transactions touch the same bytes of one space? -/
def Flight.overlaps (f g : Flight) : Bool :=
  f.space = g.space &&
  (if f.space = .majority then lineOf f.pa == lineOf g.pa else decide (f.pa < g.pa + g.size) && decide (g.pa < f.pa + f.size))

/-- Must `g` be performed before `f`? Accesses of a wave to the same bytes of a space (R125), requests of a wave to other modules (R308), posted
writes to the host (R304), writes released from staging by one launch (R273), writes of a core to tile-tracked pages (R291, R304), majority stores of one writer to one line (R301). -/
def Flight.after (f g : Flight) : Bool :=
  let mine := f.team = g.team && f.wave = g.wave
  g.id < f.id && g.fixed.isNone && !g.sent &&
  (mine && f.overlaps g || (mine && f.space = .remote && g.space = .remote) ||
   (f.space = .host && g.space = .host && f.kind = .store && g.kind = .store) || (f.rel && g.rel && f.serial = g.serial) ||
   (f.space = .global && g.space = .global && f.core = g.core && f.writes && g.writes &&
      (match f.page, g.page with | some p, some q => p.kind == 2 && q.kind == 2 | _, _ => false)) ||
   (f.space = .majority && g.space = .majority && f.core = g.core && f.kind != .load && g.kind != .load && f.overlaps g))

/-- The domain window for an offset (R133): the physical address, which keeps the place within the line, the write permission and whether the page is a majority page. -/
def windowAt (src a : Nat) : Option (Nat × Bool × Bool) := (Config.domainWindow src a).map (fun (pa, w, maj) => (128 * lineOf pa + a % 128, w, maj))

/-- The device address that a remote access to the module itself reaches (R133). -/
def State.ownPa (s : State) (f : Flight) : Option Nat :=
  if f.space = .remote && nbits f.va 56 8 == s.mid then (windowAt s.mid (f.va % 2 ^ 56)).map (·.1) else none

/-- Must `g` be performed before `f` because one reaches the other's bytes by way of the Lighthouse: the coherence order of a byte keeps the order of a wave over
both spaces (R243)? DEDUCED, log entry 78. -/
def State.across (s : State) (f g : Flight) : Bool :=
  let meet (x a y b : Nat) : Bool := decide (x < y + b) && decide (y < x + a)
  f.team = g.team && f.wave = g.wave && g.id < f.id && g.fixed.isNone &&
  (match f.space, g.space with
   | .global, .remote => (s.ownPa g).elim false (fun a => meet f.pa f.size a g.size)
   | .remote, .global => (s.ownPa f).elim false (fun a => meet a f.size g.pa g.size)
   | _, _ => false)

/-- The transactions that must be performed before one, each after those that must precede it, oldest first. -/
def State.befores (s : State) (f : Flight) : List Flight :=
  s.flights.reverse.foldl (fun l g => if g.id != f.id && (f :: l).any (fun x => x.after g || s.across x g) then g :: l else l) []

/-! ## Performing (R131, R136, R138, R139, R243, R304) -/

/-- Update the bytes that the core's own L1 holds of a write-through store (R291). -/
def State.throughL1 (s : State) (f : Flight) : State :=
  let c := s.core f.core; let l := c.line (lineOf f.pa)
  if l.hits (f.pa % 128) f.size then s.modCore f.core (fun c => c.putLine ((l.put (f.pa % 128) f.size f.data false).reached f.ctx f.va)) else s

/-- Staged writes to a target lie over `n` bytes that it holds from an address (R272). -/
def overStaged (l : List Staged) (sp : Space) (a n v : Nat) : Nat :=
  Mem.nat (l.foldl (fun m w => if w.space = sp && !w.count then Sparse.writeList m w.addr (leBytes w.size w.data) else m) (Sparse.writeList [] a (leBytes n v))) a n

/-- The writes of a launch for a target that it has staged, or that have been released and not performed, before the transaction of number `id` lie over what the target
holds (R125, R272). -/
def State.overlay (s : State) (serial : Nat) (sp : Space) (a n v id : Nat) : Nat :=
  match s.launch? serial with
  | none => v
  | some l =>
    let out := (s.flights.filter (fun f => f.rel && f.serial == serial && f.kind = .store && !f.sent)).map (fun f => ({ space := f.space, addr := f.va, size := f.size, data := f.data, seq := f.id } : Staged))
    overStaged ((out ++ l.staged).filter (fun w => decide (w.seq < id))) sp a n v

/-- A check value failed at an exit point or at the merge (R324): a record of class 6. -/
def State.crcLog (s : State) (f : Flight) : State := s.logError ⟨s.ns, 128 * lineOf f.pa, f.serial % 2 ^ 32, f.core, 6, 1, 1, 0, 0x0C⟩

/-- The line of an access becomes poisoned because its check value failed (R322, R324). -/
def State.crcPoison (s : State) (f : Flight) : State := (s.setPoison f.pa 1).crcLog f

/-- The fill of a line has ended: it serves the requests that shared it, which wait for it no longer; one that must come after another access of its wave is served later, without
a request of its own (R125, R291, R292). DEDUCED, log entry 31. -/
def State.filled (s : State) (f : Flight) (l : L1Line) : State :=
  { s with flights := s.flights.map (fun g =>
      if g.kind = .load && g.space = .global && g.core == f.core && lineOf g.pa == lineOf f.pa && g.born == f.born && g.fixed.isNone && g.id != f.id then
        (if (s.befores g).any (fun x => x.id != f.id) then { g with born := 0, paid := true } else { g with born := 0, fixed := some (l.bytes (g.pa % 128) g.size) })
      else g) }

/-- A device-global load reads its bytes: from the core's L1, else from the home with a fill, which is a request of its own when the line was lost since the load's
issue (R291, R292, R322, R323). -/
def State.loadGlobal (s0 : State) (f : Flight) (p : Page) (crcFail : Bool) : State :=
  let ln := lineOf f.pa; let off := f.pa % 128
  let l0 := (s0.core f.core).line ln
  (if p.kind != 1 && l0.hits off f.size then (s0.modCore f.core (fun c => c.putLine (l0.reached f.ctx f.va))).flightDone f (l0.bytes off f.size)
   else
     let s := if p.kind != 1 && f.born = 0 && !f.paid then s0.countReq f.core f.pa (p.kind == 2) else s0
     if !s.up p f.pa then s.flightErr f 0x13
     else if crcFail then (s.crcPoison f).flightErr f 0x0C
     else if s.poisoned f.pa f.size then s.flightErr f 0x0C
     else if p.kind = 1 then s.flightDone f (s.devRead f.pa f.size)
     else
       let s1 := s.l1Room f.core ln
       let l := (((s1.core f.core).line ln).fill (s1.devRead (128 * ln) 128)).reached f.ctx f.va
       let s2 := s1.modCore f.core (fun c => c.putLine l)
       (if f.born = 0 then s2 else s2.filled f l).flightDone f (l.bytes off f.size)).wakeMiss f.core

/-- A store at the home slice or stack engine, write-through (R127, R291, R293, R324, R336). DEDUCED, log entry 25. -/
def State.storeGlobal (s : State) (f : Flight) (p : Page) (crcFail : Bool) : State :=
  let put (a : State) : State := (a.devWrite f.serial f.pa (leBytes f.size f.data) crcFail).throughL1 f
  if !s.up p f.pa then (s.cutWrite f.pa f.size put).flightErr f 0x13
  else if s.partPoison f.pa f.size then s.flightErr f 0x0C
  else (put (if crcFail then s.crcLog f else s)).flightDone f 0

/-- A majority load (R131, R132). -/
def State.loadMajority (s : State) (f : Flight) (p : Page) (r : Resp) : State :=
  match s.majLoad (nth 0 s.msets p.mset) f.pa r.copies with
  | none => s.flightErr f 0x12
  | some (d, _, s1) => s1.flightDone f (d / 256 ^ (f.pa % 128) % 256 ^ f.size)

/-- The writer id of a core (R299). -/
def Flight.writer (f : Flight) : Nat := f.core

/-- The answers of copies to the write of a majority store that has read tag and line (R131): nothing is written before a majority of copies has accepted, so that a store
that fails has written none (R132). DEDUCED, log entry 79. -/
def State.storeAnswers (s : State) (f : Flight) (e t d : Nat) (ready : List Nat) (whole : Bool) : State :=
  let todo := f.todo.filter (fun i => !ready.contains i)
  let last := todo.isEmpty || whole
  let keep (a : State) (got : List Nat) (acc : Bool) : State := a.modFlight f.id (fun x => { x with todo := todo, got := got, acc := acc })
  if f.acc then
    let s1 := ready.foldl (fun a i => a.putCopy e i f.pa t 0 d) s
    if last then s1.flightDone f 0 else keep s1 f.got true
  else
    let got := f.got ++ ready
    if (got.filter (fun i => s.copyOk e i f.pa)).length ≥ setMaj e then
      let s1 := s.putCopies f.serial e f.pa t d f.size got
      if last then s1.flightDone f 0 else keep s1 got true
    else if last then s.flightErr f 0x12
    else keep s got false

/-- A step of a majority store (R131): first it reads tags and data, then it writes the copies that respond, and it is performed when a majority has
accepted. With `whole` both happen at once. -/
def State.storeMajority (s : State) (f : Flight) (p : Page) (r : Resp) (whole : Bool) : State :=
  let e := nth 0 s.msets p.mset
  match f.read with
  | none =>
    if whole then
      (match s.majStore f.serial f.writer e f.pa (leBytes f.size f.data) r.copies with
       | none => s.flightErr f 0x12
       | some s1 => s1.flightDone f 0)
    else
      (match s.majority e f.pa r.copies with
       | none => s.flightErr f 0x12
       | some l =>
         let b := s.newest e f.pa l
         let t := nextTag (s.copyTag e b f.pa) f.writer
         let d := mergeLine (s.copyData e b f.pa) f.pa (leBytes f.size f.data)
         s.modFlight f.id (fun x => { x with read := some (t, d), todo := List.range (nbits e 0 3), got := [] }))
  | some (t, d) => s.storeAnswers f e t d (f.todo.filter (fun i => s.copyUp e i && (whole || r.copies.contains i))) whole

/-- `mcas` (R138). DEDUCED, log entry 26. -/
def State.doMcas (s : State) (f : Flight) (p : Page) (r : Resp) : State :=
  let e := nth 0 s.msets p.mset
  match s.majority e f.pa r.copies with
  | none => s.flightErr f 0x12
  | some l =>
    let b := s.newest e f.pa l
    let t := s.copyTag e b f.pa
    let old := (Sparse.read s.mtags (lineOf (copyAddr e b f.pa))).toNat
    let s1 :=
      if t / 2 ^ 12 = f.cmp then
        s.putCopies f.serial e f.pa (nextTag t f.writer) (mergeLine (s.copyData e b f.pa) f.pa (leBytes f.size f.data)) f.size (s.reached e r.copies)
      else s
    s1.flightDone f old

/-- An atomic on the bytes of device memory (R136): the state after it and the old value. -/
def State.atomicAt (s : State) (f : Flight) : State × Nat :=
  let old := s.devRead f.pa f.size
  match atomOp f.op f.ty old f.data f.cmp with
  | some v => (s.devWrite f.serial f.pa (leBytes f.size v) false, old)
  | none => (s, old)

/-- An atomic at the home slice or stack engine (R127, R136, R137): the core's own line is written back and dropped first. -/
def State.doAtomic (s : State) (f : Flight) (p : Page) : State :=
  let s0 := s.evict f.core (lineOf f.pa)
  if !s0.up p f.pa then (s0.cutWrite f.pa f.size (fun a => (a.atomicAt f).1)).flightErr f 0x13
  else if s0.poisoned f.pa f.size then s0.flightErr f 0x0C
  else (s0.atomicAt f).1.flightDone f (s0.atomicAt f).2

/-- An atomic on the scratchpad of a half (R135). -/
def State.doScratchAtomic (s : State) (f : Flight) (half : Nat) : State :=
  match s.half? f.team half with
  | none => s.dropFlight f.id
  | some x =>
    let old := x.scr.nat f.pa f.size
    match atomOp f.op f.ty old f.data f.cmp with
    | some v => (s.scrWrite f.team half f.pa (leBytes f.size v)).flightDone f old
    | none => s.flightDone f old

/-- `sred` (R139, R305): the lines of its range leave the core's L1, so that no later load of the wave returns an older value. -/
def State.doSred (s0 : State) (f : Flight) (p : Page) (crcFail : Bool) : State :=
  let s := s0.evictRange f.core f.pa (4 * f.cmp)
  if !s.up p f.pa then s.flightErr f 0x13
  else if crcFail then (s.crcPoison f).flightErr f 0x0C
  else if s.poisoned f.pa (4 * f.cmp) then s.flightErr f 0x0C
  else s.flightDone f (sredOp f.ty f.op ((List.range f.cmp).map (fun i => s.devRead (f.pa + 4 * i) 4)))

/-- The bytes and entry that `tfill` writes (R147), once no L1 holds a line of the tile: what the wave stored through another mapping of it comes before (R316). -/
def State.tfillAt (s : State) (f : Flight) (p : Page) : State :=
  let (bs, e) := tfillData f.op p.fmt f.data
  let s1 := ((s.dropLines f.pa 8192).rawWrite f.serial f.pa bs false).watchFire f.pa 8192
  { s1 with dir := Sparse.write s1.dir (f.pa / 8192) e }

/-- `tcls` (R148), after what the core's own L1 still holds of the tile's stores (R316). -/
def State.doTcls (s0 : State) (f : Flight) (p : Page) : State :=
  let s := s0.evictRange f.core f.pa 8192
  let e := if s.poisoned f.pa 8192 then dirEntry 0 0 p.fmt 0 0 else classify s.mem f.pa p.fmt
  let s1 := (s.outsideSet f.serial f.pa).snapshot f.pa 8192
  ({ s1 with dir := Sparse.write s1.dir (f.pa / 8192) e } : State).flightDone f e.toNat

/-- `tqry` (R148), after what the core's own L1 still holds of the tile's stores (R316). -/
def State.doTqry (s0 : State) (f : Flight) : State :=
  let s := s0.evictRange f.core f.pa 8192
  s.flightDone f (Sparse.read s.dir (f.pa / 8192)).toNat

/-- The check value of 128 bytes (R323). -/
def lineCheck (d : Nat) : Nat := (crc32c (leBytes 128 d)).toNat

/-- The transaction of a flight for the `n` bytes of one line from offset `a` on (R323, R344): a write carries its bytes in their places with their mask, an atomic its operand and then
its compare value, each with the check value of what it carries. DEDUCED, log entry 57. -/
def Flight.txn (f : Flight) (mid a n : Nat) : Txn :=
  let first := f.va % 2 ^ 56
  let t : Txn := { typ := 0, dst := nbits f.va 56 8, src := mid, lane := fabricLane first, tag := f.id % 2 ^ 16, addr := a % 2 ^ 56 }
  match f.kind with
  | .load => t
  | .store =>
    let d := f.data / 256 ^ (a - first) % 256 ^ n * 256 ^ (a % 128)
    { t with typ := 1, mask := (byteMask (a % 128) n).toNat, data := d, cv := lineCheck d }
  | _ =>
    let d := f.data + f.cmp * 2 ^ (8 * f.size)
    { t with typ := 2, aop := f.ty * 2 ^ 10 + f.m, mask := (byteMask (a % 128) n).toNat, data := d, cv := lineCheck d }

/-- The request of a remote access enters the Lighthouse's queue (R304, R344), one transaction for each line that it touches, all in the lane of its first byte (R307); one for the module
itself leaves no line of its bytes in the core's L1 (R243). DEDUCED, log entry 78. -/
def State.sendFlight (s0 : State) (f : Flight) : State :=
  let s := match s0.ownPa f with | some pa => s0.evictRange f.core pa f.size | none => s0
  let l := linePieces (f.va % 2 ^ 56) f.size
  l.foldl (fun b (a, n) => b.send (f.txn s.mid a n)) (s.modFlight f.id (fun x => { x with sent := true, owe := l.length - 1 }))

/-! ## Requests that reach this module (R133, R136, R137, R293, R304, R344) -/

/-- The response to a request: its TYPE follows the request's, its TAG and lane are echoed; a line or an old value carries its check value. DEDUCED, log entry 57. -/
def txnAnswer (f : Txn) (mid status data : Nat) (pois : Bool) : Txn :=
  { typ := f.typ + 3, dst := f.src, src := mid, lane := f.lane, tag := f.tag, status := status, addr := f.addr, data := data, cv := if f.typ = 1 then 0 else lineCheck data, pois := pois }

/-- Does what a transaction carries fail its check value (R323, R344)? -/
def txnCorrupt (f : Txn) : Bool := (f.typ == 1 || f.typ == 2 || f.typ == 3 || f.typ == 5) && f.cv != lineCheck f.data

/-- The bytes of an atomic transaction's type (R135, R344). -/
def txnBytes (f : Txn) : Nat := typeBytes (f.aop / 2 ^ 10)

/-- The bytes under a write's mask are written in the line of a physical address (R323, R344): poisoned when they came poisoned or corrupt (R324). -/
def State.maskWrite (s : State) (f : Txn) (serial pa : Nat) : State :=
  (runs (BitVec.ofNat 128 f.mask)).foldl (fun a (o, n) =>
    a.devWrite serial (128 * lineOf pa + o) (leBytes n (f.data / 256 ^ o % 256 ^ n)) (f.pois || txnCorrupt f)) s

/-- The write or atomic of a request, and the old value; `serial` is the launch of this module that made it, or 0 (R133, R311). -/
def State.txnWrite (s : State) (f : Txn) (serial pa : Nat) : State × Nat :=
  if f.typ = 1 then (s.maskWrite f serial pa, 0)
  else
    let n := txnBytes f; let old := s.devRead pa n
    match atomOp (f.aop % 16) (f.aop / 2 ^ 10) old (f.data % 256 ^ n) (f.data / 256 ^ n % 256 ^ n) with
    | some v => (s.devWrite serial pa (leBytes n v) false, old)
    | none => (s, old)

/-- Does a poisoned line refuse a write or an atomic: one that does not cover it whole (R127, R322)? -/
def State.poisonRefuses (s : State) (f : Txn) (pa : Nat) : Bool := s.poison.contains (lineOf pa) && (f.typ == 2 || f.mask % 2 ^ 128 != 2 ^ 128 - 1)

/-- The record of a check value that failed at the fabric's ingress (R324, R331). -/
def State.ingressLog (s : State) (pa : Nat) : State := s.logError ⟨s.ns, 128 * lineOf pa, 0, 5 * 4096, 6, 1, 1, 0, 0x0C⟩

/-- A request is performed at this module, with its response: a read answers with the whole line, and a write or atomic that is corrupt leaves the line poisoned (R323, R324).
DESIGN CHOICE, log entry 24. -/
def State.serveTxn (s : State) (f : Txn) (serial : Nat) : State × Txn :=
  match windowAt f.src f.addr with
  | none => (s, txnAnswer f s.mid 2 0 false)
  | some (pa, w, maj) =>
    if maj || (f.typ != 0 && !w) then (s, txnAnswer f s.mid 3 0 false)
    else if !s.served (s.dieOf pa) then
      (if f.typ = 0 then s else s.cutWrite (128 * lineOf pa) 128 (fun a => (a.txnWrite f serial pa).1), txnAnswer f s.mid 1 0 true)
    else if f.typ = 0 then
      (if s.poison.contains (lineOf pa) then (s, txnAnswer f s.mid 4 0 true) else (s, txnAnswer f s.mid 0 (s.devRead (128 * lineOf pa) 128) false))
    else if s.poisonRefuses f pa || (f.typ == 2 && f.pois) then (s, txnAnswer f s.mid 4 0 true)
    else if txnCorrupt f then
      (if f.typ = 1 then ((s.txnWrite f serial pa).1.ingressLog pa, txnAnswer f s.mid 0 0 false) else ((s.setPoison pa 1).ingressLog pa, txnAnswer f s.mid 4 0 true))
    else ((s.txnWrite f serial pa).1, txnAnswer f s.mid 0 (s.txnWrite f serial pa).2 false)

/-- The mark of a transaction that was cancelled when its die was lost (R336). -/
def cancelledMark : Nat := 0x100

/-- The cause of a response: its STATUS, or poison or a failed check value in its slots (R133, R324, R344). -/
def txnCause (f : Txn) : Nat :=
  match f.status with
  | 0 => if f.pois || txnCorrupt f then 0x0C else 0
  | 1 => 0x13 | 2 => 0x04 | 3 => 0x05 | _ => 0x0C

/-- Count a dropped response or write in a die's DROPS (R338). -/
def State.drops (s : State) (die : Nat) : State := { s with eps := modNth s.eps die (fun e => { e with drops := min (2 ^ 32 - 1) (e.drops + 1) }) }

/-- The request of this module that a response answers: the one that its TAG names. -/
def State.asked (s : State) (f : Txn) : Option Flight := s.flights.find? (fun g => g.space = .remote && g.sent && g.fixed.isNone && g.id % 2 ^ 16 == f.tag)

/-- Is a transaction an atomic with acquire order that invalidates the core's L1 (R135, R143)? -/
def State.acquires (s : State) (g : Flight) : Bool :=
  g.kind = .atomic && nbit g.m 8 && (g.m / 32 % 8 != 1 || (s.team? g.team).elim false (·.twin))

/-- What a response brings to a request: the bytes that it asked for of a line, or the old value of an atomic (R344). -/
def Flight.answer (g : Flight) (f : Txn) : Nat :=
  match g.kind with
  | .load => f.data / 256 ^ (g.va % 128) % 256 ^ g.size
  | .store => 0
  | _ => f.data % 256 ^ g.size

/-- The last answer to a request: an engine's waits with its value or its cause, a lane's is delivered or ends with its error (R127, R133, R195). -/
def State.answered (s : State) (g : Flight) (v cause : Nat) : State :=
  if g.eng then s.modFlight g.id (fun x => { x with fixed := some (if cause = 0 then v else 0), mark := cause })
  else if cause != 0 then s.flightErr g cause
  else s.flightDone g (if g.kind = .load then s.overlay g.serial .remote g.va g.size (overStaged g.newer .remote g.va g.size v) g.id else v)

/-- A response reaches the request that its TAG names; one for a cancelled request is dropped and counted, and one for no request is dropped. Of a request of several lines
the first cause stands. DEDUCED, log entry 20. -/
def State.answerTxn (s : State) (f : Txn) : State :=
  match s.asked f with
  | none => s
  | some g =>
    let more := decide (g.owe > 0)
    if g.mark = cancelledMark then (if more then s.modFlight g.id (fun x => { x with owe := x.owe - 1 }) else s.dropFlight g.id).drops (g.core / 24)
    else
      let cause := if g.mark != 0 then g.mark else txnCause f
      let s0 := if f.status = 0 && !f.pois && txnCorrupt f then s.crcLog g else s
      let s1 := if s0.acquires g then s0.acquireL1 g.core else s0
      (if more then s1.modFlight g.id (fun x => { x with owe := x.owe - 1, mark := cause }) else s1.answered g (g.answer f) cause).wakeFlights

/-- A transaction for this module is performed or taken as an answer; a core's request to its own module leaves no line of its bytes in the core's L1 (R243). -/
def State.ownTxn (s : State) (f : Txn) : State :=
  if f.typ ≤ 2 then
    let s0 := if f.src = s.mid then (match s.asked f with | some g => ((s.ownPa g).elim s (fun pa => s.evictRange g.core pa g.size)) | none => s) else s
    let (s1, r) := s0.serveTxn f (if f.src = s.mid then (s.asked f).elim 0 (·.serial) else 0)
    if r.dst = s.mid then s1.answerTxn r else s1.send r
  else s.answerTxn f

/-- A request that a wave made to its own module is performed now: it and the requests before it on its lane leave the Lighthouse's queue (R308). -/
def State.deliverOwn (s : State) (g : Flight) : State :=
  let lane := fabricLane (g.va % 2 ^ 56)
  let q := s.outQ.filter (fun x => x.dst == s.mid && decide (x.typ ≤ 2) && x.lane == lane)
  let mine (x : Txn) : Bool := x.src == s.mid && x.tag == g.id % 2 ^ 16
  if !q.any mine then s
  else (q.reverse.dropWhile (fun x => !mine x)).reverse.foldl (fun a x => ({ a with outQ := a.outQ.erase x } : State).ownTxn x) s

/-! ## One transaction, and those before it -/

/-- Is a transaction the released counter update of a `publish` (R144, R273)? -/
def Flight.counts (f : Flight) : Bool := f.space = .host && f.kind = .atomic

/-- Does a transaction itself wait for the order of what its launch has released from staging (R273, R315): a counter update for the released writes before it, and what comes
after a counter update, released or to the host, for its completion? DEDUCED, log entry 42. -/
def State.behind (s : State) (f : Flight) : Bool :=
  s.flights.any (fun g => g.serial == f.serial && decide (g.id < f.id) && g.fixed.isNone &&
    ((f.counts && g.writes && (g.rel || g.space = .host)) || (g.counts && f.writes && (f.rel || f.space = .host))))

/-- Must a transaction wait, for itself or for one before it (R273, R315)? -/
def State.heldBack (s : State) (f : Flight) : Bool := s.flights.any Flight.counts && (f :: s.befores f).any s.behind

/-- The FetchAdd of a released counter update is sent, once the read buffer has given up the lines that the launch has written (R144, R311). DEDUCED, log entry 42. -/
def State.sendCount (s : State) (f : Flight) : State :=
  { (s.modFlight f.id (fun x => { x with sent := true })) with
    hostAdds := s.hostAdds ++ [(f.id, f.va)], readBuf := s.readBuf.filter (fun b => !((s.launch? f.serial).elim [] (·.wrote)).contains b.line) }

/-- Perform a transaction, or its next step: what is stored is stored, and what is returned is fixed. One that must wait for the order of released writes stays. -/
def State.perform1 (s : State) (f : Flight) (r : Resp) (whole : Bool) : State :=
  if f.fixed.isSome || f.sent || s.heldBack f then s
  else
    match f.space, f.kind, f.page with
    | .remote, _, _ => s.sendFlight f
    | .scratch, .atomic, _ => s.doScratchAtomic f f.half
    | .twin, .load, _ =>
      (match s.half? f.team f.half with
       | some x => s.flightDone f (x.scr.nat f.pa f.size)
       | none => s.dropFlight f.id)
    | .twin, _, _ => (s.scrWrite f.team f.half f.pa (leBytes f.size f.data)).dropFlight f.id
    | .host, .load, _ =>
      if r.hostErr = 0x05 || r.hostErr = 0x0C then s.flightErr f r.hostErr
      else s.flightDone f (s.overlay f.serial .host f.va f.size (s.hostRead f.va f.size) f.id)
    | .host, .atomic, _ => s.sendCount f
    | .host, _, _ => (s.hostWrite f.va (leBytes f.size f.data)).dropFlight f.id
    | .majority, .load, some p => s.loadMajority f p r
    | .majority, .mcas, some p => s.doMcas f p r
    | .majority, _, some p => s.storeMajority f p r whole
    | _, .load, some p => s.loadGlobal f p r.crcFail
    | _, .store, some p => s.storeGlobal f p r.crcFail
    | _, .atomic, some p => (if r.crcFail then s.crcPoison f else s).doAtomic f p
    | _, .sred, some p => s.doSred f p r.crcFail
    | _, .tfill, some p => if !s.up p f.pa then (s.cutWrite f.pa 8192 (fun a => a.tfillAt f p)).flightErr f 0x13 else (s.tfillAt f p).flightDone f 0
    | _, .tcls, some p => if !s.up p f.pa then s.flightErr f 0x13 else s.doTcls f p
    | _, .tqry, some p => if !s.up p f.pa then s.flightErr f 0x13 else s.doTqry f
    | _, _, _ => s.dropFlight f.id

/-- Perform a transaction whole, as far as this module performs it: one to its own module on to its home. -/
def State.force (s : State) (id : Nat) : State :=
  match s.flight? id with
  | none => s
  | some f =>
    let s1 := s.perform1 f {} true
    if (s1.ownPa f).isSome then s1.deliverOwn f else s1

/-- Perform transactions one after another, each whole. -/
def State.performAll (s : State) (ids : List Nat) : State := ids.foldl State.force s

/-- Perform a transaction after those that come before it. -/
def State.perform (s : State) (id : Nat) (r : Resp) (whole : Bool) : State :=
  match s.flight? id with
  | none => s
  | some f =>
    let s1 := s.performAll ((s.befores f).map (·.id))
    match s1.flight? id with
    | some f => s1.perform1 f r whole
    | none => s1

/-- The value of a load as its destination takes it (R122). -/
def Flight.value (f : Flight) (v : Nat) : Nat := if f.sext then ofSigned 32 (toSigned (8 * f.size) v) else v

/-- The answer of a transaction reaches its destination, with an error mark when an error was found (R21, R127). -/
def State.arrive1 (s : State) (f : Flight) : State :=
  match f.fixed, f.dest with
  | some v, some d => (s.dropFlight f.id).deliver f.team f.wave f.lane f.fromHandler d f.wide (f.value v) f.mark
  | _, _ => s

/-- Is a transaction a result of a stack engine whose team is off its core: it waits for the restored registers (R35)? -/
def State.waitsTeam (s : State) (f : Flight) : Bool :=
  f.kind = .sred && (s.team? f.team).elim false (fun t => match t.place with | .resident => false | _ => true)

/-- A transaction is performed, if it was not yet, and its answer arrives. -/
def State.arrive (s : State) (id : Nat) (r : Resp) : State :=
  let s1 := s.perform id r true
  match s1.flight? id with
  | some f => if s1.waitsTeam f then s1 else s1.arrive1 f
  | none => s1

/-- Before a wave's store or atomic takes its place: its earlier transactions on the same bytes are performed (R125, R243). DEDUCED, log entry 19. -/
def State.settle (s : State) (f : Flight) : State := s.performAll ((s.befores f).map (·.id))

/-- Perform a transaction whole after those that come before it. DEDUCED, log entry 80. -/
def State.finish (s : State) (id : Nat) : State := ((s.flight? id).elim s s.settle).force id

/-- The device address that a remote address reaches when it names this module (R133). -/
def State.ownAddr (s : State) (va : Nat) : Option Nat := if nbits va 56 8 == s.mid then (Config.domainWindow s.mid (va % 2 ^ 56)).map (·.1) else none

/-- Does a load read bytes of device memory that a write to a space reaches by way of another: one side names the module itself as a remote module (R133, R246)? -/
def State.readsAcross (s : State) (f : Flight) (sp : Space) (a n : Nat) : Bool :=
  let meet (x y : Option Nat) : Bool := match x, y with | some x, some y => decide (x < y + n) && decide (y < x + f.size) | _, _ => false
  match f.space, sp with
  | .remote, .global => meet (s.ownPa f) (some a)
  | .global, .remote => meet (some f.pa) (s.ownAddr a)
  | _, _ => false

/-- Before an engine entry writes bytes: the loads that the issuing wave made before it, numbered below `since`, are performed on them (R246, R248). DEDUCED, log entry 80. -/
def State.settleLoads (s : State) (t w since : Nat) (sp : Space) (half a n : Nat) : State :=
  ((s.flights.filter (fun f => f.ofWave t w && decide (f.id < since) && (f.kind = .load || f.kind = .sred) &&
    (f.space = sp && (sp != .twin || f.half == half) && decide (f.pa < a + n) && decide (a < f.pa + f.size) || s.readsAcross f sp a n))).map (·.id)).foldl State.finish s

/-! ## Releases and acquires (R143, R244) -/

/-- Perform the writes of a wave at a scope (0 wave, 1 team, 2 device and wider), as far as this module performs them (R143, R243, R304). DEDUCED, log entry 19. -/
def State.releaseWave (s : State) (t w scope : Nat) : State :=
  match s.team? t with
  | none => s
  | some x =>
    if scope = 0 then s
    else
      let s1 := s.flushScr t w
      let ids := (s1.flights.filter (fun f => f.ofWave t w && f.writes)).map (·.id)
      let s2 := ids.foldl State.finish s1
      if scope ≥ 2 || x.twin then
        (match x.waves[w]? with
         | some y => s2.writeBackAll (x.coreOf y)
         | none => s2)
      else s2

/-- The writes of a wave that are not performed yet at a scope though this module has done its part (R304): another module must still answer, or a released write waits for
its turn (R273). -/
def State.unanswered (s : State) (t w scope : Nat) : List Nat :=
  if scope ≥ 3 then (s.flights.filter (fun f => f.ofWave t w && f.writes && (f.sent || f.rel) && f.fixed.isNone)).map (·.id) else []

/-- The writes of a team that a `publish` waits for (R144): to the host, and those of engine entries that were staged and released since. -/
def State.unpublished (s : State) (t : Nat) : List Nat :=
  (s.flights.filter (fun f => f.team == t && f.writes && f.fixed.isNone && (f.space = .host || f.rel && f.eng))).map (·.id)

/-- Complete the loads of a wave (R244), as far as this module answers them; the results of stack engines too when so said (R35). -/
def State.completeLoads (s : State) (t w : Nat) (stack : Bool) : State :=
  ((s.flights.filter (fun f => f.ofWave t w && f.dest.isSome && (stack || f.kind != .sred))).map (·.id)).foldl (fun a i => a.arrive i {}) s

/-- The loads of a wave that another module must still answer. -/
def State.openLoads (s : State) (t w : Nat) : List Nat := (s.flights.filter (fun f => f.ofWave t w && f.dest.isSome)).map (·.id)

/-- Perform every write of a team, and complete its loads, at a point where the team leaves its core (R35, R279, R319); results of stack engines stay under way. -/
def State.settleTeam (s : State) (t : Nat) : State :=
  match s.team? t with
  | none => s
  | some x =>
    (List.range x.waves.length).foldl (fun a w => (a.releaseWave t w 2).completeLoads t w false) s

end Sys2Proof.Machine
end

