-- ==== Sys2Proof/Machine/Ops.lean ====
section
/-!
DEFINITION. The operations over waves that every instruction shares: landing records (R87 to R93), the placement of groups (R218), rollback (R274), taking a
cause (R94, R95, R208, R211), and the return from it (R213).
-/

namespace Sys2Proof.Machine

/-! ## Landing records (R90 to R92, R221) -/

/-- The state of a group behind FROZEN and DRAINED (R220). -/
def Group.under (g : Group) : GState := match g.st with | .frozen => g.prior | .drained => g.prior | x => x

/-- Put a group into a state of R219, behind FROZEN and DRAINED when it is held. -/
def Group.enter (g : Group) (st : GState) : Group :=
  match g.st with
  | .frozen => { g with prior := st }
  | .drained => { g with prior := st }
  | _ => { g with st := st }

/-- A group that has met or fused is READY, and is not chosen before its STALL count has run (R56, R220). -/
def Group.goOn (g : Group) (cyc : Nat) : Group := { g.enter .ready with wait := .none, since := cyc }

/-- A group that an issue makes may issue again: READY, or STALLED until its STALL count has run (R56, R220). -/
def Group.resume (g : Group) (cyc : Nat) : Group :=
  if g.ready > cyc then { g.enter .stalled with wait := .stall g.ready, since := cyc } else { g.enter .ready with wait := .none, since := cyc }

/-- The lowest lane of a group. -/
def Group.low (g : Group) : Nat := lowLane g.mask

/-- The numbers of the slots whose group satisfies a test. -/
def Wave.slotsWith (w : Wave) (p : Group → Bool) : List Nat := (List.range w.slots.length).filter (fun i => let g := w.group i; g.st != .free && p g)

/-- Change a landing record. -/
def Wave.modRec (w : Wave) (i : Nat) (f : LandRec → LandRec) : Wave := { w with recs := modNth w.recs i f }

/-- The landing record of an index. -/
def Wave.landRec (w : Wave) (i : Nat) : LandRec := nth {} w.recs i

/-- The number of the slot, among some, whose group holds the lowest lane. -/
def Wave.lowestSlot (w : Wave) (l : List Nat) : Option Nat :=
  l.foldl (fun b i => match b with | none => some i | some j => if (w.group i).low < (w.group j).low then some i else some j) none

/-- The completion check of a record, with the fusion of its waiting groups and the arrivals that follow (R92): the fused group takes the slot of the
waiting group with the lowest lane, and keeps the head that chose that group's address (R98); `n` bounds the nesting of records. DESIGN CHOICE, log entry 93. -/
def Wave.complete (cyc : Nat) : Nat → Nat → Wave → Wave
  | 0, _, w => w
  | n + 1, i, w =>
    let r := w.landRec i
    if !r.valid then w
    else if r.members = 0 then w.modRec i (fun _ => {})
    else if r.arrived != r.members then w
    else
      let ws := w.slotsWith (fun g => g.under = .arrived && g.rcd = some i)
      match w.lowestSlot ws with
      | none => w.modRec i (fun _ => {})
      | some k =>
        let gs := ws.map w.group
        let g : Group :=
          { (w.group k) with
            mask := r.members, fmt := r.fmt, pc := r.land, rcd := r.parent, pushed := false, recs := []
            ready := gs.foldl (fun m g => max m g.ready) 0, late := gs.any (·.late)
            yieldTill := 0, retried := false, breaking := false }
        let w1 := ws.foldl (fun a j => a.modGroup j (fun _ => {})) (w.modRec i (fun _ => {}))
        let w2 := w1.modGroup k (fun _ => g.goOn cyc)
        match r.parent with
        | some p =>
          if (w2.landRec p).valid && (w2.landRec p).land = r.land then
            Wave.complete cyc n p ((w2.modGroup k (fun g => { g.enter .arrived with wait := .none })).modRec p (fun x => { x with arrived := x.arrived ||| r.members }))
          else w2
        | none => w2

/-- A group arrives when its next fetch address equals the LAND of its own record (R92). -/
def Wave.arrive (w : Wave) (cyc k : Nat) : Wave :=
  let g := w.group k
  match g.rcd with
  | some i =>
    let r := w.landRec i
    if (g.under = .ready || g.under = .stalled) && r.valid && r.land = g.pc then
      Wave.complete cyc 33 i ((w.modGroup k (fun g => { g.enter .arrived with wait := .none })).modRec i (fun x => { x with arrived := x.arrived ||| g.mask }))
    else w
  | none => w

/-- Remove lanes from some records (R87, R88, R221). -/
def Wave.leave (w : Wave) (cyc : Nat) (m : DWord) (l : List Nat) : Wave :=
  let w1 := l.foldl (fun a i => a.modRec i (fun r => { r with members := r.members &&& ~~~m, arrived := r.arrived &&& ~~~m })) w
  l.foldl (fun a i => a.complete cyc 33 i) w1

/-- The chain of records from a pointer outward, at most `n` of them (R88). -/
def Wave.chain (w : Wave) : Nat → Option Nat → List Nat
  | 0, _ => []
  | _, none => []
  | n + 1, some i => i :: w.chain n (w.landRec i).parent

/-- The pointer after a break that leaves `n` records of a chain (R88). -/
def Wave.afterBreak (w : Wave) (n : Nat) (ptr : Option Nat) : Option Nat :=
  match n with
  | 0 => ptr
  | k + 1 => match (w.chain (k + 1) ptr)[k]? with | some i => (w.landRec i).parent | none => none

/-- Lanes exit (R87): they leave every record and end. -/
def Wave.exit (w : Wave) (cyc : Nat) (m : DWord) : Wave :=
  { w with exited := w.exited ||| m }.leave cyc m ((List.range 32).filter (fun i => (w.landRec i).valid && (w.landRec i).members &&& m != 0))

/-- The first free record (R91, R93). DESIGN CHOICE, log entry 92. -/
def Wave.freeRec (w : Wave) : Option Nat := (List.range 32).find? (fun i => !(w.landRec i).valid)

/-- Push a landing record (R91). -/
def Wave.push (w : Wave) (i : Nat) (members : DWord) (fmt : Word) (land : DWord) (parent : Option Nat) : Wave :=
  w.modRec i (fun _ => { valid := true, members := members, arrived := 0, fmt := fmt, land := land, parent := parent })

/-- Has a wave no lane and no parked group left (R87)? Then it leaves its region (R209). -/
def Wave.checkLeft (w : Wave) : Wave :=
  if w.exited &&& w.active = w.active && w.handler.isNone && w.slots.all (fun g => g.st = .free) then { w with left := true, depth := 0 } else w

/-- The landing address of a site of the launch's entry function (R89). -/
def State.landAt (s : State) (serial head : Nat) : Option Nat :=
  (s.launch? serial).bind (fun l => (l.fn.lands.find? (fun x => x.1 == head)).map (·.2))

/-! ## Placement (R217, R218) -/

/-- The first free slot of a list of slots. -/
def Wave.freeOf (w : Wave) (l : List Nat) : Option Nat := l.find? (fun i => (w.group i).st = .free)

/-- The slots that any group may take, in the order of step 4. -/
def anySlots : List Nat := (List.range 8).flatMap (fun e => (List.range 8).map (fun k => 9 * e + k))

/-- The free slot that a group of an entry's fragment takes (steps 3 and 4). -/
def Wave.placeFor (w : Wave) (entry : Nat) : Option Nat := (w.freeOf ((List.range 8).map (fun k => 9 * entry + k))).orElse (fun _ => w.freeOf anySlots)

/-- The free slot that the parked group takes when step 1 did not place it (steps 2 and 4). -/
def Wave.parkFor (w : Wave) (entry : Nat) : Option Nat :=
  (w.freeOf ((9 * entry + 8) :: (List.range 8).map (fun k => 9 * entry + k))).orElse (fun _ => w.freeOf (List.range 72))

/-- Put a group into a slot. -/
def Wave.put (w : Wave) (k : Nat) (g : Group) : Wave := w.modGroup k (fun _ => g)

/-- What step 1 leaves (R218): the wave, the slots taken, the groups still to be placed, and the parked group in its slot or still to be placed. -/
structure Placing where
  w : Wave
  slots : List Nat := []
  rest : List Group := []
  pk : Option Nat := none
  pg : Option Group := none
  deriving DecidableEq, Repr

/-- Step 1 (R218): the first group, or the parked group when there is no other, takes the slot of the group that issued. -/
def Wave.placeFirst (w : Wave) (slot : Nat) (groups : List Group) (parked : Option Group) : Placing :=
  match groups, parked with
  | g :: t, p => { w := (w.put slot {}).put slot g, slots := [slot], rest := t, pg := p }
  | [], some p => { w := (w.put slot {}).put slot p, pk := some slot }
  | [], none => { w := w.put slot {} }

/-- Step 2 (R218): the parked group. DEDUCED, log entry 28. -/
def Wave.placeParked (x : Placing) (entry : Nat) : Wave × Option Nat :=
  match x.pg with
  | some p => (match x.w.parkFor entry with | some k => (x.w.put k p, some k) | none => (x.w, none))
  | none => (x.w, x.pk)

/-- Steps 3 and 4 (R218): the other groups, with the slots that they take. -/
def Wave.placeRest (entry : Nat) : List Group → Wave → List Nat → Wave × List Nat
  | [], w, l => (w, l)
  | g :: r, w, l => match w.placeFor entry with | some k => Wave.placeRest entry r (w.put k g) (l ++ [k]) | none => Wave.placeRest entry r w l

/-- Place the groups of a commit, ascending by lowest lane, and the parked group: the new wave with the slots taken (R218). DEDUCED, log entry 28. -/
def Wave.place (w : Wave) (slot : Nat) (groups : List Group) (parked : Option Group) : Wave × List Nat × Option Nat :=
  let x := w.placeFirst slot groups parked
  let y := Wave.placeParked x (slot / 9)
  let z := Wave.placeRest (slot / 9) x.rest y.1 x.slots
  (z.1, z.2, y.2)

/-! ## Rollback (R274, R327) -/

/-- Restore a page from its snapshot copy (R271, R274, R297). -/
def State.restore (s : State) (c : Snap) : State :=
  let s1 := s.dropLines c.pa c.size
  { s1 with
    mem := Sparse.splice s1.mem c.pa (c.pa + c.size) c.bytes
    poison := s1.poison.filter (fun k => !(lineOf c.pa ≤ k && k < lineOf (c.pa + c.size))) ++ c.poison
    dir := Sparse.splice s1.dir (c.pa / 8192) ((c.pa + c.size) / 8192) c.dir
    mtags := Sparse.splice s1.mtags (lineOf c.pa) (lineOf (c.pa + c.size)) c.tags }

/-- Write back the dirty lines that a launch has stored into, on every core: its teams may have left. -/
def State.writeBackLaunch (s : State) (n : Nat) : State :=
  let mine (l : L1Line) : Bool := l.dirty != 0 && (l.serial == n || (s.launch? n).elim false (fun x => x.wrote.contains l.line))
  (List.range s.cores.length).foldl (fun a c => (sortNat (((a.core c).l1.filter mine).map (·.line))).foldl (fun b ln => b.writeBack c ln) a) s

/-- The writes of a launch that are under way take their place, in device memory too. -/
def State.settleLaunch (s : State) (n : Nat) : State :=
  (((s.flights.filter (fun f => f.serial == n && f.writes)).map (·.id)).foldl (fun a i => a.perform i {} true) s).writeBackLaunch n

/-- A launch consumes poison or takes a machine check (R274, R327): a replayable one rolls back, or fails with its pages restored when it has been replayed
twice; any other fails with the cause. -/
def State.meetFatal (s : State) (n cause det : Nat) : State :=
  match s.launch? n with
  | none => s
  | some l0 =>
    if l0.st.final then s
    else
      let s0 := if l0.replaying then s.settleLaunch n else s
      match s0.launch? n with
      | none => s0
      | some l =>
        if !l.replaying then s0.failLaunch n cause det
        else
          let s1 := (s0.stopTeams n)
          let s2 := l.snaps.foldl State.restore s1
          if l.repl ≥ 2 then s2.failLaunch n cause det
          else s2.setLaunch n (fun l =>
            { l with st := .rolledBack, repl := l.repl + 1, err := cause, detail := det, next := 0, exited := [], snaps := [], staged := [], marked := [] })

/-! ## Taking a cause (R94, R95, R98, R208, R211) -/

/-- A wave's handler fragment at an address (R211): one lane, registers cleared, `fmt` 0x0000_0001. DESIGN CHOICE, log entry 3. -/
def Handler.start (addr cyc : Nat) : Handler :=
  { lane := { v := List.replicate 32 {} }, s := List.replicate 32 0
    g := { mask := 1, fmt := 1, pc := BitVec.ofNat 64 addr, st := .ready, since := cyc } }

/-- The first cause and detail of a group's records (R95). -/
def Group.firstCause (g : Group) : Nat × Nat := match g.recs with | r :: _ => (r.cause, r.detail) | [] => (0, 0)

/-- The first cause of a group that is fatal to its launch or leads to rollback (R274). -/
def Group.fatal? (g : Group) : Option (Nat × Nat) := (g.recs.find? (fun r => r.cause == 0x0C || r.cause == 0x0D)).map (fun r => (r.cause, r.detail))

/-- TAKING A CAUSE INTO THE HANDLER (R208, R211): the group in a slot becomes the wave's trapped group, or queues behind it, and the handler fragment starts at
the context's handler address; with no handler address the launch fails with the cause. Poison and machine checks follow R274 instead. -/
def State.enterHandler (s : State) (t w slot : Nat) : State :=
  match s.team? t, s.wave? t w with
  | some x, some y =>
    let g := y.group slot
    match g.fatal? with
    | some (k, d) => s.meetFatal x.serial k d
    | none =>
      let a := s.handlerAddr x.ctx
      if a = 0 then s.failLaunch x.serial g.firstCause.1 g.firstCause.2
      else
        let cyc := s.cycOf x y
        s.modWave t w (fun y =>
          let y1 := y.modGroup slot (fun g => { g.enter .trapped with wait := .none, since := cyc })
          { y1 with trapQ := y1.trapQ ++ [slot],
                    handler := match y1.handler with
                      | some h => some h
                      | none => some (if x.stopped then { Handler.start a cyc with g := { (Handler.start a cyc).g with st := .frozen, prior := .ready } } else Handler.start a cyc) })
  | _, _ => s

/-- The records of a group as the fault queue takes them (R276). -/
def Group.frecs (g : Group) (core wave serial t slot : Nat) (head : Nat → Nat) : List FRec :=
  g.recs.map (fun r => { cause := r.cause, detail := r.detail, lane := r.lane, src := 0, addr := r.addr, head := head r.head, core := core, wave := wave,
                         que := 0, serial := serial, team := t, slot := slot })

/-- A group whose records have been written goes on: it waits for the fault service when every record holds cause 0x04 on its own lanes, else it enters the
handler (R95). -/
def State.afterRecs (s : State) (t w slot : Nat) : State :=
  match s.wave? t w with
  | none => s
  | some y =>
    let g := y.group slot
    if g.recs.all (fun r => r.cause == 0x04 && !nbit r.detail 1) then
      s.modWave t w (fun y => y.modGroup slot (fun g => { g.enter .parked with wait := .none }))
    else s.enterHandler t w slot

/-- Faulting lanes of an issue stand in a slot with their records: the records go to the fault queue, and the group goes on once they are written (R95,
R276). -/
def State.parkGroup (s : State) (t w slot : Nat) : State :=
  match s.team? t, s.wave? t w with
  | some x, some y =>
    let g := y.group slot
    let s1 := s.modWave t w (fun y => y.modGroup slot (fun g => { g.enter .parked with wait := .room }))
    let s2 := s1.laneRecs x.ctx (g.frecs (x.coreOf y) y.idx x.serial t slot id)
    match s2.wave? t w with
    | none => s2
    | some y2 =>
      match (y2.group slot).fatal? with
      | some (k, d) => s2.meetFatal x.serial k d
      | none => if s2.recsOut x.ctx t w slot then s2.afterRecs t w slot else s2
  | _, _ => s

/-- The groups of a context whose records have been written by now go on (R276). -/
def State.recsReady (s : State) (c : Nat) : State :=
  ((s.teams.filter (fun t => t.ctx == c)).flatMap (fun t => (List.range t.waves.length).flatMap (fun w =>
      ((nth { idx := 0, half := 0, quad := 0, width := 0, active := 0, lanes := [] } t.waves w).slotsWith (fun g => g.wait = .room && g.under = .parked)).map (fun k => (t.id, w, k))))).foldl
    (fun a (t, w, k) => if a.recsOut c t w k then a.afterRecs t w k else a) s

/-- The cause that a whole group takes in every lane at its head (R54, R75, R94, R98); in a handler fragment any cause fails the launch (R211). DEDUCED, log entry 29. -/
def State.takeCause (s : State) (l : Loc) (cause detail addr head : Nat) : State :=
  match s.team? l.team, s.group? l with
  | some x, some g =>
    if l.handler then
      (if cause = 0x0C || cause = 0x0D then s.meetFatal x.serial cause detail else s.failLaunch x.serial cause detail)
    else
      let width := (s.wave? l.team l.wave).elim 0 (·.width)
      let recs := (maskLanes width g.mask).map (fun i => ({ cause := cause, detail := detail, lane := i, head := head, addr := addr } : LaneFault))
      (s.modGroup l (fun g => { g with recs := recs })).parkGroup l.team l.wave l.slot
  | _, _ => s

/-! ## The return from the handler (R213) -/

/-- The next trapped group of a wave, if there is one, starts the handler fragment again; else there is none (R211). -/
def State.nextTrap (s : State) (t w : Nat) : State :=
  match s.team? t, s.wave? t w with
  | some x, some y =>
    let a := s.handlerAddr x.ctx
    let h := if y.trapQ.isEmpty then none else some (Handler.start a (s.cycOf x y))
    if !y.trapQ.isEmpty && a = 0 then
      (let g := y.group ((y.trapQ.head?).getD 0); s.failLaunch x.serial g.firstCause.1 g.firstCause.2)
    else s.modWave t w (fun y => { y with handler := h })
  | _, _ => s

/-- THE RETURN (R213): the trapped lanes named in a mask form one group at `target`, the head when there is none, with the trapped group's pointer; when none
remain, the handler fragment ends. `from` is the address of the returning instruction. DEDUCED, log entry 28. -/
def State.eretOp (s : State) (t w : Nat) (mask : DWord) (target : Option DWord) (source : DWord) : State :=
  match s.team? t, s.wave? t w with
  | some x, some y =>
    (match y.trapQ with
     | [] => s
     | k :: q =>
       let g := y.group k; let named := g.mask &&& mask; let rest := g.mask &&& ~~~mask
       if named = 0 then s
       else
         let cyc := s.cycOf x y
         let head := target.elim true (fun x => x == g.pc)
         let ng : Group := { ({ g with mask := named, pc := target.getD g.pc, recs := [], pushed := head && g.pushed,
                                       chooser := if target.isNone then g.chooser else source, wait := .none, retried := false } : Group)
                             with st := .ready, since := cyc }
         if rest = 0 then
           ((s.modWave t w (fun y => ({ y.modGroup k (fun _ => ng) with trapQ := q }).arrive cyc k)).nextTrap t w)
         else
           s.modWave t w (fun y =>
             let y1 := y.modGroup k (fun g => { g with mask := rest, recs := g.recs.filter (fun r => rest.getLsbD r.lane) })
             match y1.placeFor (k / 9) with
             | some j => (y1.modGroup j (fun _ => ng)).arrive cyc j
             | none => y1))
  | _, _ => s

/-- The named trapped lanes exit (R87, R213). -/
def State.eretExitOp (s : State) (t w : Nat) (mask : DWord) : State :=
  match s.team? t, s.wave? t w with
  | some x, some y =>
    (match y.trapQ with
     | [] => s
     | k :: q =>
       let g := y.group k; let named := g.mask &&& mask; let rest := g.mask &&& ~~~mask
       if named = 0 then s
       else
         let cyc := s.cycOf x y
         if rest = 0 then
           (((s.modWave t w (fun y => ({ y.modGroup k (fun _ => {}) with trapQ := q }).exit cyc named)).nextTrap t w).modWave t w Wave.checkLeft)
         else
           s.modWave t w (fun y => (y.modGroup k (fun g => { g with mask := rest, recs := g.recs.filter (fun r => rest.getLsbD r.lane) })).exit cyc named))
  | _, _ => s

/-! ## Debugger stops (R235) -/

/-- A group stops at its next instruction boundary: FROZEN, with the prior state kept, behind DRAINED too (R220). -/
def Group.freeze (g : Group) : Group :=
  match g.st with
  | .free => g
  | .frozen => g
  | .drained => { g with st := .frozen }
  | st => { g with st := .frozen, prior := st }

/-- After a step for the debugger every group stops again, but for one that waits at a landing or in a meeting that it entered since (R236). -/
def Group.stopAgain (g : Group) : Group := if g.st = .arrived || g.st = .meeting then g else g.freeze

/-- A frozen group returns to its prior state (R237), to DRAINED while its team is off the core (R220). -/
def Group.thaw (g : Group) (resident : Bool) (cyc : Nat) : Group :=
  match g.st with
  | .frozen => if resident then { g with st := g.prior, prior := .free, since := cyc } else { g with st := .drained }
  | _ => g

/-- Change every group of a wave, the handler fragment's included. -/
def Wave.mapGroups (w : Wave) (f : Group → Group) : Wave :=
  { w with slots := w.slots.map f, handler := w.handler.map (fun h => { h with g := f h.g }) }

/-- Stop a team for the debugger (R235). -/
def State.freezeTeam (s : State) (t : Nat) : State :=
  s.modTeam t (fun x => { x with stopped := true, stopAt := if x.stopped then x.stopAt else s.ns
                                 stopCyc := if x.stopped then x.stopCyc else s.clock.toNat, waves := x.waves.map (fun w => w.mapGroups Group.freeze) })

/-- A stopped team stops again after a step (R236). -/
def State.stopTeam (s : State) (t : Nat) : State := s.modTeam t (fun x => { x with waves := x.waves.map (fun w => w.mapGroups Group.stopAgain) })

end Sys2Proof.Machine
end

