-- ==== Sys2Proof/Machine/Meet.lean ====
section
/-!
DEFINITION. What lanes of different groups wait for together: arrivals at lane exchanges and their failures (R111), the gang latch when a wave leaves (R159), and the
departure of a team from its core (R87, R259).
-/

namespace Sys2Proof.Machine

/-! ## Arrivals and failures (R111) -/

/-- The arrival of a lane. -/
def Wave.meetOf (w : Wave) (i : Nat) : Option Arrival := w.meets.find? (fun a => a.lane == i)

/-- Are two arrivals linked: does the mask of either name the other's lane? -/
def Arrival.linked (a b : Arrival) : Bool := a.mask.getLsbD b.lane || b.mask.getLsbD a.lane

/-- Do two linked arrivals differ: in their address, their mask, or for `bar.arr.m` in their barrier or bytes (R111, R186)? -/
def Arrival.differs (a b : Arrival) : Bool :=
  a.head != b.head || a.mask != b.mask || (a.op == .barArrM && (a.a != b.a || a.b != b.b))

/-- Has an arrival failed (R111)? A lane of the team that never was counts as one that has exited. -/
def Wave.meetFails (w : Wave) (a : Arrival) : Bool :=
  !a.mask.getLsbD a.lane || a.mask &&& ~~~fullMask w.width != 0 || a.mask &&& (w.exited ||| ~~~w.active) != 0 ||
  w.meets.any (fun b => b.lane != a.lane && a.linked b && a.differs b)

/-- The arrived lanes that a failure connects (R111), by as many rounds as there are arrivals. -/
def Wave.connected (w : Wave) : Nat → List Nat → List Nat
  | 0, l => l
  | n + 1, l => w.connected n (w.meets.filterMap (fun a =>
      if l.contains a.lane || w.meets.any (fun b => l.contains b.lane && a.linked b) then some a.lane else none))

/-! ## Lanes of a group that fault apart from it -/

/-- Lanes of the group in a slot fault at its head with the records given, and the others stay in the slot (R97, R111). When lanes are left and the head is a site, whose
landing address is given, the group has split: while a record is free and none was pushed at this head, one is pushed with all the group's lanes, and both parts point to it
(R78, R91, R96). The slot of the faulting lanes is returned. -/
def Wave.splitOff (w : Wave) (slot : Nat) (bad : List LaneFault) (land : Option Nat) : Wave × Option Nat :=
  let g := w.group slot; let m := lanesMask (bad.map (·.lane))
  let at_ (g : Group) : Group := { ({ g with mask := g.mask &&& m, recs := bad } : Group).enter .ready with wait := .none }
  if g.mask &&& ~~~m = 0 then (w.modGroup slot (fun _ => at_ g), some slot)
  else
    let x := if g.pushed then none else match land, w.freeRec with | some a, some i => some (i, a) | _, _ => none
    let w0 := match x with | some (i, a) => w.push i g.mask g.fmt (BitVec.ofNat 64 a) g.rcd | none => w
    let g0 := match x with | some (i, _) => { g with rcd := some i, pushed := true } | none => g
    let w1 := w0.modGroup slot (fun _ => { g0 with mask := g.mask &&& ~~~m })
    match w1.parkFor (slot / 9) with
    | some k => (w1.modGroup k (fun _ => at_ g0), some k)
    | none => (w1, none)

/-- Those lanes deliver their records (R95). -/
def State.splitPark (s : State) (t w slot : Nat) (bad : List LaneFault) : State :=
  if bad.isEmpty then s
  else
    match s.team? t, s.wave? t w with
    | some x, some y =>
      let (y1, pk) := y.splitOff slot bad (s.landAt x.serial (y.group slot).pc.toNat)
      let s1 := s.modWave t w (fun _ => y1)
      match pk with | some k => s1.parkGroup t w k | none => s1
    | _, _ => s

/-- Arrived lanes take a cause, group by group, precisely and with nothing committed. -/
def State.meetCause (s : State) (t w : Nat) (as : List Arrival) (cause : Nat) : State :=
  let s1 := s.modWave t w (fun y => { y with meets := y.meets.filter (fun a => !(as.any (fun b => b.lane == a.lane))) })
  ((as.map (·.slot)).eraseDups).foldl (fun a k =>
    a.splitPark t w k ((as.filter (fun b => b.slot = k)).map (fun b => ({ cause := cause, lane := b.lane, head := b.head.toNat } : LaneFault)))) s1

/-- The failures among the arrivals of a wave raise cause 0x08 in the lanes that they connect (R87, R111). -/
def State.meetFailures (s : State) (t w : Nat) (from_ : List Nat) : State :=
  match s.wave? t w with
  | none => s
  | some y =>
    let bad := (y.meets.filter (fun a => from_.contains a.lane && y.meetFails a)).map (·.lane)
    if bad.isEmpty then s
    else
      let conn := y.connected y.meets.length bad
      s.meetCause t w (y.meets.filter (fun a => conn.contains a.lane)) 0x08

/-- After lanes of a wave have exited: the arrivals whose masks name them fail (R87). -/
def State.meetExit (s : State) (t w : Nat) : State :=
  match s.wave? t w with
  | none => s
  | some y => if y.meets.isEmpty then s else s.meetFailures t w (y.meets.map (·.lane))

/-! ## The gang latch (R159) -/

/-- The waves that a gang register names (R30): CNT of them. -/
def gangList (g : DWord) : List Nat := (List.range (nbits g.toNat 42 3)).map (fun i => nbits g.toNat (7 * i) 7)

/-- The pending arrivals of some waves are resolved with cause 0x09, precisely, with nothing entered (R159). -/
def State.latchFail (s : State) (t : Nat) (ws : List Nat) : State :=
  ws.foldl (fun a w =>
    match (a.wave? t w).bind (·.latch) with
    | none => a
    | some x => (a.modWave t w (fun y => { y with latch := none })).takeCause { team := t, wave := w, slot := x.pd.slot } 0x09 0 0 x.pd.head.toNat) s

/-- A wave has left the core: every pending arrival whose list names it fails (R159). -/
def State.latchLeave (s : State) (t w : Nat) : State :=
  match s.team? t with
  | none => s
  | some x => s.latchFail t (((x.waves.filter (fun y => y.latch.isSome && (gangList y.gang).contains w)).map (·.idx)))

/-! ## The departure of a team (R87, R259) -/

/-- Has a half nothing left for its engines? -/
def Half.idle (h : Half) : Bool :=
  h.ring.elim true (fun r => r.ents.isEmpty) && h.fronts.all (fun f => f.elim true (fun r => r.ents.isEmpty)) &&
  h.qidx.isEmpty && h.qbin.isEmpty && h.qwl.isEmpty && h.qstack.isEmpty && h.qmat.isEmpty

/-- When every wave of a team has left, its entries are done and its fronts have been drained, the team leaves its core (R87, R259). -/
def State.teamLeave (s : State) (t : Nat) : State :=
  match s.team? t with
  | none => s
  | some x =>
    if x.waves.all (·.left) && x.halves.all Half.idle then
      ({ s with teams := s.teams.filter (fun y => y.id != t) }).modLaunch x.serial (fun l => { l with exited := l.exited ++ [x.t] })
    else s

/-- Lanes of a wave have exited: meetings that name them fail, and a wave without lanes leaves its core (R87, R111, R159). -/
def State.afterExit (s : State) (t w : Nat) : State :=
  let s1 := (s.meetExit t w).modWave t w Wave.checkLeft
  if ((s1.wave? t w).map (·.left)) = some true then (s1.latchLeave t w).teamLeave t else s1

end Sys2Proof.Machine
end

