-- ==== Sys2Proof/Decode.lean ====
section
/-!
DEFINITION. The decoder and the encoder (R53, R55 to R70, R75, R76). Decoding is total: it answers an instruction, or the reason for which
the instruction is illegal. An instruction is read from its parcels, that is, from all of its words (R54).
-/

namespace Sys2Proof

/-- The result of decoding: an instruction with its number of words, an illegal instruction with the reason of R76, or words whose first
parcel is not a head (R54). -/
inductive Decoded where
  | instr (i : Instr)
  | illegal (r : Reason)
  | notHead
  deriving DecidableEq, Repr

/-- Bits `[lo + len - 1 : lo]` of a parcel. -/
def fld (w : Word) (lo len : Nat) : Nat := nbits w.toNat lo len

/-- The number of words of the instruction that a header parcel starts (R55). -/
def headWords (h : Word) : Nat := fld h 28 3 + 1

/-- Is a parcel a head (R53)? -/
def isHead (h : Word) : Bool := h.getLsbD 31

/-- A test parcel (R60, R61, R62): every TOP and TTY code is assigned. -/
def readTest (w : Word) : Test :=
  { op := nth .eq TestOp.list (fld w 26 5), tty := nth .s32 TType.list (fld w 23 3), a := BitVec.ofNat 8 (fld w 15 8),
    b := BitVec.ofNat 8 (fld w 7 8), bi := w.getLsbD 6, inv := w.getLsbD 5, fea := w.getLsbD 4, feb := w.getLsbD 3 }

/-- An operation pair (R63): the 62-bit payload of the low and the high parcel. -/
def readOp (lo hi : Word) : Op :=
  let n := lo.toNat % 2 ^ 31 + (hi.toNat % 2 ^ 31) * 2 ^ 31
  { opc := BitVec.ofNat 8 (nbits n 50 8),
    p := { arc := BitVec.ofNat 4 (nbits n 58 4), var := BitVec.ofNat 3 (nbits n 47 3), d := BitVec.ofNat 8 (nbits n 39 8),
           a := BitVec.ofNat 8 (nbits n 31 8), b := BitVec.ofNat 8 (nbits n 23 8), c := BitVec.ofNat 8 (nbits n 15 8),
           m := BitVec.ofNat 10 (nbits n 5 10), fea := nbit n 4, feb := nbit n 3, fec := nbit n 2 } }

/-- A leaf parcel (R68): every KIND is assigned. -/
def readLeaf (w : Word) : Leaf :=
  { kind := nth .next LeafKind.list (fld w 28 3), pop := BitVec.ofNat 4 (fld w 24 4), off := BitVec.ofNat 24 (fld w 0 24) }

/-- A literal pair (R69). -/
def readLit (lo hi : Word) : Word := BitVec.ofNat 32 (lo.toNat % 2 ^ 31 + (hi.toNat % 2) * 2 ^ 31)

/-- Read `n` pairs of parcels. -/
def readPairs {α : Type} (f : Word → Word → α) : Nat → List Word → List α
  | 0, _ => []
  | n + 1, l => f (nth 0 l 0) (nth 0 l 1) :: readPairs f n (l.drop 2)

/-- The reserved bits of a body (R55, R60, R63, R69) and of the padding (R59): `T` tests, `n` operations and `k` literals stand in it. -/
def reservedOk (h : Word) (T n k : Nat) (body : List Word) : Bool :=
  let ops := body.drop T; let lits := ops.drop (2 * n + T + 1)
  fld h 0 9 == 0 && body.all (fun w => !isHead w) && (body.take T).all (fun w => fld w 0 3 == 0) &&
  (List.range n).all (fun i => fld (nth 0 ops (2 * i)) 0 2 == 0) && (List.range k).all (fun i => fld (nth 0 lits (2 * i + 1)) 1 30 == 0) &&
  (lits.drop (2 * k)).all (fun w => w == 0)

/-- The tree that a header and its body spell out, the shape rules having passed (R59). -/
def readTree (h : Word) (T n k : Nat) (body : List Word) : Tree :=
  { stall := BitVec.ofNat 4 (fld h 24 4), uni := h.getLsbD 9, tmask := BitVec.ofNat 7 (fld h 17 7),
    tests := (body.take T).map readTest, ops := readPairs readOp n (body.drop T),
    leaves := ((body.drop (T + 2 * n)).take (T + 1)).map readLeaf,
    lits := readPairs readLit k (body.drop (T + 2 * n + T + 1)) }

/-- The number of set bits of TMASK. -/
def tcount (m : Nat) : Nat := ((List.range 7).filter (fun i => nbit m i)).length

/-- Every test has its parent test (R57). -/
def parentsOk (m : Nat) : Bool := (List.range 8).all (fun p => p < 2 || !nbit m (p - 1) || nbit m (p / 2 - 1))

/-- Decode an instruction from its parcels, header first, in the context of the kernel that holds it (R75, R76). -/
def decode (x : DecodeCtx) (ps : List Word) : Decoded :=
  match ps with
  | [] => .notHead
  | h :: rest =>
    if !isHead h then .notHead
    else
      let m := fld h 17 7; let n := fld h 13 4; let k := fld h 10 3; let T := tcount m
      if n > 8 || T + n + k > 15 || fld h 28 3 + 1 != (2 * (1 + T + n + k) + 3) / 4 || !parentsOk m then .illegal .shape
      else
        let body := rest.take (4 * headWords h - 1)
        if !reservedOk h T n k body then .illegal .reserved
        else
          let t := readTree h T n k body
          match t.illegal? x with
          | some r => .illegal r
          | none => .instr (Instr.ofTree t)

/-- A test parcel's word (R60). -/
def Test.word (t : Test) : Word :=
  BitVec.ofNat 32 (t.op.code * 2 ^ 26 + t.tty.code * 2 ^ 23 + t.a.toNat * 2 ^ 15 + t.b.toNat * 2 ^ 7 + b2n t.bi * 2 ^ 6 +
    b2n t.inv * 2 ^ 5 + b2n t.fea * 2 ^ 4 + b2n t.feb * 2 ^ 3)

/-- The payload of an operation as a number (R63). -/
def Op.payload (o : Op) : Nat :=
  o.p.arc.toNat * 2 ^ 58 + o.opc.toNat * 2 ^ 50 + o.p.var.toNat * 2 ^ 47 + o.p.d.toNat * 2 ^ 39 + o.p.a.toNat * 2 ^ 31 +
  o.p.b.toNat * 2 ^ 23 + o.p.c.toNat * 2 ^ 15 + o.p.m.toNat * 2 ^ 5 + b2n o.p.fea * 2 ^ 4 + b2n o.p.feb * 2 ^ 3 + b2n o.p.fec * 2 ^ 2

/-- The low and high parcels of an operation pair (R63). -/
def Op.words (o : Op) : List Word := [BitVec.ofNat 32 (o.payload % 2 ^ 31), BitVec.ofNat 32 (o.payload / 2 ^ 31)]

/-- A leaf parcel's word (R68). -/
def Leaf.word (l : Leaf) : Word := BitVec.ofNat 32 (l.kind.code * 2 ^ 28 + l.pop.toNat * 2 ^ 24 + l.off.toNat)

/-- A literal pair (R69). -/
def litWords (v : Word) : List Word := [BitVec.ofNat 32 (v.toNat % 2 ^ 31), BitVec.ofNat 32 (v.toNat / 2 ^ 31)]

/-- The header parcel of a tree (R55). -/
def Tree.header (t : Tree) : Word :=
  BitVec.ofNat 32 (2 ^ 31 + (t.words - 1) * 2 ^ 28 + t.stall.toNat * 2 ^ 24 + t.tmask.toNat * 2 ^ 17 + t.ops.length * 2 ^ 13 +
    t.lits.length * 2 ^ 10 + b2n t.uni * 2 ^ 9)

/-- The parcels of a tree without the padding, in the order of R59. -/
def Tree.parcels (t : Tree) : List Word :=
  t.header :: (t.tests.map Test.word ++ t.ops.flatMap Op.words ++ t.leaves.map Leaf.word ++ t.lits.flatMap litWords)

/-- The parcels of a tree with its zero padding (R59). -/
def Tree.encode (t : Tree) : List Word :=
  t.parcels ++ List.replicate (4 * t.words - 2 * (1 + t.tests.length + t.ops.length + t.lits.length)) 0

/-- The words of a well-formed instruction; an event has none. -/
def encode (i : Instr) : List Word :=
  match i.tree? with
  | none => []
  | some t => t.encode

/-- The parcels of a number of `nbits` bits, bit 0 the least significant bit of the first parcel; above `nbits` every bit is 0. -/
def tableParcels (n w : Nat) : List Word := (List.range 32).map (fun i => BitVec.ofNat 32 (nbits (w % 2 ^ n) (32 * i) 32))

/-- The instruction that the decoder reads from the bits `w`, numbered from the least significant bit of the first parcel, in the context
that admits most. DESIGN CHOICE, log entry 74. -/
def decodeTableWord (nbits w : Nat) : Option Instr :=
  match decode DecodeCtx.max (tableParcels nbits w) with
  | .instr i => some i
  | .illegal _ => none
  | .notHead => none

end Sys2Proof
end

