-- ==== Sys2Proof/Machine/Real.lean ====
section
/-!
DEFINITION. The transcendental functions of R104 and R120 as dyadic enclosures in fixed point: integers scaled by 2^640. The error of each is
below 2^-500, far below any rounding that the model makes of it.
-/

namespace Sys2Proof.Machine.Fx

/-- The number of fraction bits. -/
def P : Nat := 640

/-- One. -/
def one : Int := 2 ^ P

/-- The fixed-point product. -/
def mul (a b : Int) : Int := a * b / one

/-- The fixed-point quotient. -/
def div (a b : Int) : Int := if b = 0 then 0 else a * one / b

/-- ±m·2^e in fixed point. -/
def ofDyadic (s : Bool) (m : Nat) (e : Int) : Int :=
  let n : Int := if (P : Int) + e ≥ 0 then ((m * 2 ^ ((P : Int) + e).toNat : Nat) : Int) else ((m / 2 ^ (-(P : Int) - e).toNat : Nat) : Int)
  if s then -n else n

/-- The terms of a Taylor sum: `t` is the current term, each next one is `t·x/(k·(k+1)·…)` as `den` says. DESIGN CHOICE, log entry 9. -/
def taylor (x : Int) (den : Nat → Int) : Nat → Nat → Int → Int
  | 0, _, t => t
  | n + 1, k, t => t + taylor x den n (k + 1) (mul t x / den k)

/-- e^r for a fixed-point r of magnitude below 1. -/
def expSmall (r : Int) : Int := taylor r (fun k => (k : Int)) 130 1 one

/-- 2·atanh(z) for |z| ≤ 1/3: the sum of 2·z^(2j+1)/(2j+1). -/
def atanh2 (z : Int) : Int :=
  let z2 := mul z z
  let rec go : Nat → Nat → Int → Int
    | 0, _, _ => 0
    | n + 1, k, p => p / (k : Int) + go n (k + 2) (mul p z2)
  2 * go 220 1 z

/-- ln 2. -/
def ln2 : Int := atanh2 (one / 3)

/-- arctan(1/q): the alternating sum. -/
def atanInv (q : Nat) : Int :=
  let rec go : Nat → Nat → Int → Int
    | 0, _, _ => 0
    | n + 1, k, p => p / (k : Int) - go n (k + 2) (p / ((q * q : Nat) : Int))
  go 150 1 (one / (q : Int))

/-- π by Machin's formula. -/
def pi : Int := 16 * atanInv 5 - 4 * atanInv 239

/-- ln of a positive m·2^e. -/
def ln (m : Nat) (e : Int) : Int :=
  let k := Nat.log2 m
  let f := ofDyadic false m (-(k : Int))
  atanh2 (div (f - one) (f + one)) + ((k : Int) + e) * ln2

/-- e^x as a fixed-point significand in [1, 2) or near it, and a binary exponent. -/
def exp (x : Int) : Int × Int :=
  let k := x / ln2
  (expSmall (x - k * ln2), k)

/-- The sine and cosine of a fixed-point x of magnitude below 1. -/
def sinSmall (x : Int) : Int :=
  let x2 := -(mul x x)
  taylor x2 (fun k => ((2 * k * (2 * k + 1) : Nat) : Int)) 70 1 x

/-- The cosine of a fixed-point x of magnitude below 1. -/
def cosSmall (x : Int) : Int :=
  let x2 := -(mul x x)
  taylor x2 (fun k => (((2 * k - 1) * (2 * k) : Nat) : Int)) 70 1 one

/-- The quadrant and remainder of x by π/2, the remainder in [−π/4, π/4]. -/
def reduce (x : Int) : Int × Int :=
  let h := pi / 2
  let q := (2 * x + h) / (2 * h)
  (q % 4, x - q * h)

/-- The sine. -/
def sin (x : Int) : Int :=
  let (q, r) := reduce x
  if q = 0 then sinSmall r else if q = 1 then cosSmall r else if q = 2 then -(sinSmall r) else -(cosSmall r)

/-- The cosine. -/
def cos (x : Int) : Int :=
  let (q, r) := reduce x
  if q = 0 then cosSmall r else if q = 1 then -(sinSmall r) else if q = 2 then -(cosSmall r) else sinSmall r

/-- A fixed-point value times 2^k as a number, with a sticky last bit since it is not exact. -/
def toNum (a k : Int) : Num := .fin (a < 0) (2 * a.natAbs + 1) (k - P - 1)

/-- e^x of a finite value (beyond ±1200 the exponent alone decides). -/
def expNum (s : Bool) (m : Nat) (e : Int) : Num :=
  if m = 0 then .fin false 1 0
  else if ilog m e ≥ 11 then (if s then .fin false 1 (-3000) else .fin false 1 3000)
  else let (a, k) := exp (ofDyadic s m e); toNum a k

/-- 2^x of a finite value. -/
def exp2Num (s : Bool) (m : Nat) (e : Int) : Num :=
  if m = 0 then .fin false 1 0
  else if ilog m e ≥ 12 then (if s then .fin false 1 (-8000) else .fin false 1 8000)
  else
    let x := ofDyadic s m e; let k := x / one; let r := x - k * one
    if r = 0 then .fin false 1 k
    else toNum (expSmall (mul r ln2)) k

/-- ln(1 + x) for a finite x > −1. -/
def log1pNum (s : Bool) (m : Nat) (e : Int) : Num :=
  match Num.add .rne (.fin false 1 0) (.fin s m e) with
  | (.fin _ n g, _) => toNum (ln n g) 0
  | (x, _) => x

/-- log₂ of a positive finite value: exact at powers of two. -/
def log2Num (m : Nat) (e : Int) : Num :=
  if m = 2 ^ Nat.log2 m then Num.ofInt (ilog m e)
  else toNum (div (ln m e) ln2) 0

/-- 1/(1 + e^−x). -/
def logisticNum (s : Bool) (m : Nat) (e : Int) : Num :=
  if m ≠ 0 && ilog m e ≥ 8 then (if s then .fin false 1 (-400) else .fin false (2 ^ 200 - 1) (-200))
  else
    let (a, k) := exp (ofDyadic (!s) m e)
    let t := if k ≥ 0 then a * 2 ^ k.toNat else a / 2 ^ (-k).toNat
    toNum (div one (one + t)) 0

/-- The hyperbolic tangent of a finite nonzero value. -/
def tanhNum (s : Bool) (m : Nat) (e : Int) : Num :=
  if ilog m e ≥ 6 then .fin s (2 ^ 180 - 1) (-180)
  else
    let (a, k) := exp (2 * ofDyadic false m e)
    let t := if k ≥ 0 then a * 2 ^ k.toNat else a / 2 ^ (-k).toNat
    match toNum (div (t - one) (t + one)) 0 with
    | .fin _ n g => .fin s n g
    | x => x

end Sys2Proof.Machine.Fx
end

