-- ==== Sys2Proof/Machine/Arith.lean ====
section
/-!
DEFINITION. The class-A integer, bit and float operations (R100 to R104): one definition for each opcode, from the raw bits of its sources to the
bits of D.
-/

namespace Sys2Proof.Machine

/-- `mov` (R100): A after modifiers; a float type also takes SCL and CLP. -/
def opMov (p : Payload) (x : AIn) : ARes :=
  if p.v < 4 then .ok (outInt p.v p.clp (srcA p x)) else floatOp p x (fun a _ _ => (a, {}))

/-- `add` (R100, R103): A + B. -/
def opAdd (p : Payload) (x : AIn) : ARes :=
  if p.v < 4 then .ok (outInt p.v p.clp (srcA p x + srcB p x))
  else floatOp p x (fun a b _ => let (r, i) := Num.add (Fmt.of x.fmt).rm a b; (r, .ofInv i))

/-- `sub` (R100, R103): A − B. -/
def opSub (p : Payload) (x : AIn) : ARes :=
  if p.v < 4 then .ok (outInt p.v p.clp (srcA p x - srcB p x))
  else floatOp p x (fun a b _ => let (r, i) := Num.add (Fmt.of x.fmt).rm a b.neg; (r, .ofInv i))

/-- `mul` (R100, R103): the product. -/
def opMul (p : Payload) (x : AIn) : ARes :=
  if p.v < 4 then .ok (outInt p.v p.clp (srcA p x * srcB p x))
  else floatOp p x (fun a b _ => let (r, i) := Num.mul a b; (r, .ofInv i))

/-- `mulhi` (R100): the high `n` bits of the exact product. -/
def opMulhi (p : Payload) (x : AIn) : ARes := .ok (outInt p.v p.clp (srcA p x * srcB p x / ((2 ^ tyBits p.v : Nat) : Int)))

/-- `mad` (R100): A × B + C. -/
def opMad (p : Payload) (x : AIn) : ARes := .ok (outInt p.v p.clp (srcA p x * srcB p x + srcC p x))

/-- Integer quotient and remainder (R101): truncation toward zero, with the values of R101 for B = 0 and for the least value by −1; they never fault. -/
def divRem (v : Nat) (a b : Int) : Int × Int :=
  if b = 0 then (if tySigned v then -1 else ((2 ^ tyBits v : Nat) : Int) - 1, a)
  else if tySigned v && a == -((2 ^ (tyBits v - 1) : Nat) : Int) && b == -1 then (a, 0)
  else (a.tdiv b, a.tmod b)

/-- `div` (R100, R101, R103). -/
def opDiv (p : Payload) (x : AIn) : ARes :=
  if p.v < 4 then .ok (outInt p.v p.clp (divRem p.v (srcA p x) (srcB p x)).1)
  else floatOp p x (fun a b _ => let (r, i, z) := Num.div a b; (r, { inv := i, dz := z }))

/-- `rem` (R101). -/
def opRem (p : Payload) (x : AIn) : ARes := .ok (outInt p.v p.clp (divRem p.v (srcA p x) (srcB p x)).2)

/-- `min` (R100, R103): the lesser; IEEE minimum for floats. -/
def opMin (p : Payload) (x : AIn) : ARes :=
  if p.v < 4 then .ok (outInt p.v p.clp (min (srcA p x) (srcB p x))) else floatOp p x (fun a b _ => (Num.minmax false a b, {}))

/-- `max` (R100, R103): the greater; IEEE maximum for floats. -/
def opMax (p : Payload) (x : AIn) : ARes :=
  if p.v < 4 then .ok (outInt p.v p.clp (max (srcA p x) (srcB p x))) else floatOp p x (fun a b _ => (Num.minmax true a b, {}))

/-- `add.sat` (R100): the exact sum clamped to the type's range. -/
def opAddSat (p : Payload) (x : AIn) : ARes := .ok (outInt p.v true (srcA p x + srcB p x))

/-- `sub.sat` (R100): the exact difference clamped to the type's range. -/
def opSubSat (p : Payload) (x : AIn) : ARes := .ok (outInt p.v true (srcA p x - srcB p x))

/-- `lea` (R100): A + (ext(B) × 2^sh) mod 2^64; VAR 2 sign-extends B, a signed 32-bit source under NB and AB (R66), VAR 3 zero-extends
it. DESIGN CHOICE, log entry 103. -/
def opLea (p : Payload) (x : AIn) : ARes :=
  let b : Int := if p.v = 2 then toSigned 32 (modInt 32 p.nb p.ab x.b) else ((x.b % 2 ^ 32 : Nat) : Int)
  .ok (outInt p.v p.clp (srcA p x + tyVal p.v (wrapInt 64 (b * 2 ^ (p.c.toNat % 8)))))

/-- One byte of `prmt` (R100): nibble `k` selects byte `k mod 8` of B:A; bit 3 replaces it by eight copies of its bit 7. -/
def prmtByte (ab k : Nat) : Nat :=
  let b := nbits ab (8 * (k % 8)) 8
  if k < 8 then b else if b < 128 then 0 else 255

/-- `prmt` (R100). -/
def opPrmt (_p : Payload) (x : AIn) : ARes :=
  let ab := x.a % 2 ^ 32 + x.b % 2 ^ 32 * 2 ^ 32
  .ok (((List.range 4).map (fun i => prmtByte ab (nbits x.c (4 * i) 4) * 2 ^ (8 * i))).sum)

/-- `sel` (R100): A when C ≠ 0, otherwise B, under the modifiers of the type. -/
def opSel (p : Payload) (x : AIn) : ARes :=
  let t := x.c % 2 ^ 32 != 0
  if p.v < 4 then .ok (outInt p.v p.clp (if t then srcA p x else srcB p x))
  else floatOp p { x with c := 0 } (fun a b _ => (if t then a else b, {}))

/-- `and` (R102). -/
def opAnd (p : Payload) (x : AIn) : ARes := .ok (rawA p x &&& rawB p x)
/-- `or` (R102). -/
def opOr (p : Payload) (x : AIn) : ARes := .ok (rawA p x ||| rawB p x)
/-- `xor` (R102). -/
def opXor (p : Payload) (x : AIn) : ARes := .ok (rawA p x ^^^ rawB p x)
/-- `andn` (R102): A and not B. -/
def opAndn (p : Payload) (x : AIn) : ARes := .ok (rawA p x &&& (2 ^ tyBits p.v - 1 - rawB p x))
/-- `not` (R102). -/
def opNot (p : Payload) (x : AIn) : ARes := .ok (2 ^ tyBits p.v - 1 - rawA p x)

/-- `shl` (R102): A × 2^B mod 2^n, 0 when B ≥ n. -/
def opShl (p : Payload) (x : AIn) : ARes :=
  let n := tyBits p.v; let b := x.b % 2 ^ 32
  .ok (if b ≥ n then 0 else rawA p x * 2 ^ b % 2 ^ n)

/-- `shr` (R102): logical for natural types, arithmetic for signed; B ≥ n gives 0 or copies of the sign bit. -/
def opShr (p : Payload) (x : AIn) : ARes :=
  let n := tyBits p.v; let b := min (x.b % 2 ^ 32) n
  .ok (if tySigned p.v then wrapInt n (toSigned n x.a / ((2 ^ b : Nat) : Int)) else rawA p x / 2 ^ b)

/-- `rot` (R102): A rotated left by B mod n. -/
def opRot (p : Payload) (x : AIn) : ARes :=
  let n := tyBits p.v; let b := x.b % 2 ^ 32 % n; let a := rawA p x
  .ok ((a * 2 ^ b + a / 2 ^ (n - b)) % 2 ^ n)

/-- The position and length of a bit field (R102): pos′ = min(pos, n) and len′ = min(len, n − pos′). -/
def fieldOf (n ctl : Nat) : Nat × Nat :=
  let pos := min (nbits ctl 0 8) n; (pos, min (nbits ctl 8 8) (n - pos))

/-- `bfe` (R102): the field zero-extended, or sign-extended from its top bit; 0 when it is empty. -/
def opBfe (p : Payload) (x : AIn) : ARes :=
  let n := tyBits p.v; let (pos, len) := fieldOf n x.b; let f := nbits (rawA p x) pos len
  .ok (if len = 0 then 0 else if tySigned p.v then wrapInt n (toSigned len f) else f)

/-- `bfi` (R102): A with the field replaced by the low bits of B. -/
def opBfi (p : Payload) (x : AIn) : ARes :=
  let n := tyBits p.v; let (pos, len) := fieldOf n x.c; let a := rawA p x
  .ok (a - nbits a pos len * 2 ^ pos + rawB p x % 2 ^ len * 2 ^ pos)

/-- The number of set bits among the low `n`. -/
def popcount (n x : Nat) : Nat := ((List.range n).filter (fun i => nbit x i)).length

/-- The leading zeros of an `n`-bit number; `n` for 0. -/
def leadingZeros (n x : Nat) : Nat := if x = 0 then n else n - 1 - Nat.log2 x

/-- The trailing zeros of an `n`-bit number; `n` for 0. -/
def trailingZeros (n x : Nat) : Nat := (((List.range n).filter (fun i => nbit x i)).head?).getD n

/-- `popc` (R102). -/
def opPopc (p : Payload) (x : AIn) : ARes := .ok (popcount (tyBits p.v) (rawA p x))
/-- `clz` (R102). -/
def opClz (p : Payload) (x : AIn) : ARes := .ok (leadingZeros (tyBits p.v) (rawA p x))
/-- `ctz` (R102). -/
def opCtz (p : Payload) (x : AIn) : ARes := .ok (trailingZeros (tyBits p.v) (rawA p x))
/-- `brev` (R102): bit i of D is bit n − 1 − i of A. -/
def opBrev (p : Payload) (x : AIn) : ARes :=
  let n := tyBits p.v
  .ok (((List.range n).map (fun i => b2n (nbit (rawA p x) (n - 1 - i)) * 2 ^ i)).sum)

/-- The exact value of A × B + C and whether it is invalid (R103). DESIGN CHOICE, log entry 75. -/
def fmaNum (rm : RMode) (a b c : Num) : Num × Bool :=
  let (m, i) := Num.mul a b; let (r, j) := Num.add rm m c
  (r, if c = .nan then i && Config.fmaNanInvalid else i || j)

/-- `fma` (R103): one rounding. -/
def opFma (p : Payload) (x : AIn) : ARes :=
  floatOp p x (fun a b c => let (r, i) := fmaNum (Fmt.of x.fmt).rm a b c; (r, .ofInv i))

/-- `dot2` (R103): A.lo × B.lo + A.hi × B.hi + C with exact products and one rounding, in FP32; a product of ∞ and 0 signals invalid beside a NaN too. DESIGN CHOICE,
log entry 86. -/
def opDot2 (p : Payload) (x : AIn) : ARes :=
  let fm := Fmt.of x.fmt; let f := tyFmt p.v
  let rd := fun (n a : Bool) (w i : Nat) => f.readZ fm.ftz (modF f n a (nbits w (16 * i) 16))
  let (lo, i0) := Num.mul (rd p.na p.aa x.a 0) (rd p.nb p.ab x.b 0)
  let (hi, i1) := Num.mul (rd p.na p.aa x.a 1) (rd p.nb p.ab x.b 1)
  let c := FFmt.f32.readZ fm.ftz (modF .f32 p.nc p.ac x.c)
  let (r, i2) := Num.sum fm.rm [lo, hi, c]
  trapF fm (outF .f32 p fm r (.ofInv (i0 || i1 || i2)))

/-- `fmin` (R103): minimumNumber. -/
def opFmin (p : Payload) (x : AIn) : ARes := floatOp p x (fun a b _ => (Num.minmaxNum false a b, {}))
/-- `fmax` (R103): maximumNumber. -/
def opFmax (p : Payload) (x : AIn) : ARes := floatOp p x (fun a b _ => (Num.minmaxNum true a b, {}))

/-- The mode of `rnd` (R103). -/
def rndMode (fm : Fmt) (c : Nat) : RMode :=
  match c with | 0 => fm.rm | 1 => .rne | 2 => .rtz | 3 => .rup | 4 => .rdn | _ => .rna

/-- `rnd` (R103): A rounded to an integral value in its own format; inexact is not signalled. -/
def opRnd (p : Payload) (x : AIn) : ARes :=
  floatOp p x (fun a _ _ => (a.toIntegral (rndMode (Fmt.of x.fmt) p.c.toNat), {}))

/-- A − trunc(A), with the sign of A (R103). -/
def fracNum (a : Num) : Num × Bool :=
  match a with
  | .nan => (.nan, false)
  | .inf _ => (.nan, true)
  | .fin s m e =>
    match Num.add .rtz (.fin s m e) ((Num.fin s m e).toIntegral .rtz).neg with
    | (.fin t n g, _) => if n = 0 then (.fin s 0 0, false) else (.fin t n g, false)
    | (y, i) => (y, i)

/-- `frac` (R103). -/
def opFrac (p : Payload) (x : AIn) : ARes := floatOp p x (fun a _ _ => let (r, i) := fracNum a; (r, .ofInv i))

/-- `ldexp` (R103): A × 2^B with one rounding, B a signed 32-bit source under NB and AB (R66). -/
def opLdexp (p : Payload) (x : AIn) : ARes :=
  let k := toSigned 32 (modInt 32 p.nb p.ab x.b)
  floatOp p { x with b := 0 } (fun a _ _ => (a.scale (max (-8000) (min 8000 k)), {}))

/-- `sgn` (R103): −1, +1, or A itself when A is zero. -/
def opSgn (p : Payload) (x : AIn) : ARes :=
  if p.v < 4 then .ok (outInt p.v p.clp (Int.sign (srcA p x)))
  else floatOp p x (fun a _ _ =>
    match a with
    | .nan => (.nan, {}) | .inf s => (.fin s 1 0, {}) | .fin s m e => (if m = 0 then .fin s m e else .fin s 1 0, {}))

/-! ## Approximations (R104) -/

/-- The distance of two finite values is at most `n` times 2^k. -/
def within (x y : Num) (n : Nat) (k : Int) : Bool :=
  match Num.add .rne x y.neg with
  | (.fin _ m e, _) => Num.le (.fin false m e) (.fin false n k)
  | _ => false

/-- A finite nonzero value rounded to the precision of a format, with an unbounded exponent. -/
def roundPrec (f : FFmt) (x : Num) : Num :=
  match x with
  | .fin s m e => let q := ilog m e - f.mb; if q ≤ e then x else .fin s (roundShift .rne s m (q - e).toNat) q
  | y => y

/-- The unit in the last place at a finite nonzero value: 2 to this power. -/
def ulpExp (f : FFmt) (x : Num) : Int :=
  match x with
  | .fin _ m e => max (ilog m e) (1 - (f.bias : Int)) - f.mb
  | _ => 0

/-- The device's result for an exact value `y` that only a bound limits (R104): the free encoding of Config if it lies within the bound,
otherwise `y` rounded to the format's precision; the pick of each format, named by its width and its fraction's, is its own. The bound is `n` times 2^`k`. DESIGN CHOICE, log entry 9. -/
def approx (op : Nat) (f : FFmt) (a : Nat) (y : Num) (n : Nat) (k : Int) : Num :=
  let r := f.read (Config.approxPick op (64 * f.bits + f.mb) a % 2 ^ f.bits)
  if !r.isNan && !r.isInf && within r y n k then r else roundPrec f y

/-- An approximation of one source: `g` gives, for a finite nonzero source, the exact value with the exceptions it signals, whether the
table marks the case exact, and the bound. -/
def approxOp (p : Payload) (x : AIn) (op : Nat) (g : FFmt → Num → Num × Exc × Bool × Nat × Int) : ARes :=
  let fm := Fmt.of x.fmt
  trapF fm (perElem p.v (fun f a _ _ =>
    let raw := modF f p.na p.aa a
    let (y, e, ex, n, k) := g f (f.readZ fm.ftz raw)
    outF f p fm (if ex then y else approx op f raw y n k) e) x.a 0 0)

/-- `rcp` (R104): 1 ulp, exact for powers of two. -/
def opRcp (p : Payload) (x : AIn) : ARes :=
  approxOp p x 0x24 (fun f a =>
    match a with
    | .nan => (.nan, {}, true, 0, 0)
    | .inf s => (.fin s 0 0, {}, true, 0, 0)
    | .fin s m e =>
      if m = 0 then (.inf s, { dz := true }, true, 0, 0)
      else if m = 2 ^ Nat.log2 m then (.fin s 1 (-(ilog m e)), {}, true, 0, 0)
      else let (q, k) := Num.quot 1 m; let y := Num.fin s q (k - e); (y, {}, false, 1, ulpExp f y))

/-- `rsq` (R104): 2 ulp for f32, 1 ulp for the halves. -/
def opRsq (p : Payload) (x : AIn) : ARes :=
  approxOp p x 0x25 (fun f a =>
    match a with
    | .nan => (.nan, {}, true, 0, 0)
    | .inf s => if s then (.nan, { inv := true }, true, 0, 0) else (.fin false 0 0, {}, true, 0, 0)
    | .fin s m e =>
      if m = 0 then (.inf s, { dz := true }, true, 0, 0)
      else if s then (.nan, { inv := true }, true, 0, 0)
      else
        let (q, k) := Num.sqrtPos m e; let (r, g) := Num.quot 1 q; let y := Num.fin false r (g - k)
        (y, {}, false, if p.v = 4 then 2 else 1, ulpExp f y))

/-- `sqrt` (R104): correctly rounded under `fmt.RM`. -/
def opSqrt (p : Payload) (x : AIn) : ARes :=
  floatOp p x (fun a _ _ =>
    match a with
    | .nan => (.nan, {})
    | .inf s => if s then (.nan, .ofInv true) else (.inf false, {})
    | .fin s m e => if m = 0 then (.fin s 0 0, {}) else if s then (.nan, .ofInv true) else let (q, k) := Num.sqrtPos m e; (.fin false q k, {}))

/-- `exp2` (R104): 2 ulp for f32, 1 ulp for the halves; integral inputs exact. -/
def opExp2 (p : Payload) (x : AIn) : ARes :=
  approxOp p x 0x27 (fun f a =>
    match a with
    | .nan => (.nan, {}, true, 0, 0)
    | .inf s => (if s then .fin false 0 0 else .inf false, {}, true, 0, 0)
    | .fin s m e =>
      let y := Fx.exp2Num s m e
      ((y, {}, ((Num.fin s m e).toIntegral .rtz).eq (.fin s m e), if p.v = 4 then 2 else 1, ulpExp f y)))

/-- `log2` (R104): 2 ulp, or an absolute error of 2^−22 when 0.5 ≤ A ≤ 2; powers of two exact. -/
def opLog2 (p : Payload) (x : AIn) : ARes :=
  approxOp p x 0x28 (fun f a =>
    match a with
    | .nan => (.nan, {}, true, 0, 0)
    | .inf s => if s then (.nan, { inv := true }, true, 0, 0) else (.inf false, {}, true, 0, 0)
    | .fin s m e =>
      if m = 0 then (.inf true, { dz := true }, true, 0, 0)
      else if s then (.nan, { inv := true }, true, 0, 0)
      else
        let y := Fx.log2Num m e; let v := Num.fin s m e
        let near := Num.le (.fin false 1 (-1)) v && Num.le v (.fin false 2 0)
        let u := ulpExp f y
        (y, {}, m == 2 ^ Nat.log2 m, if near && u + 1 < -22 then 1 else 2, if near && u + 1 < -22 then -22 else u))

/-- `sin` (R104): absolute error 2^−20, with exact argument reduction. -/
def opSin (p : Payload) (x : AIn) : ARes :=
  approxOp p x 0x29 (fun _ a =>
    match a with
    | .nan => (.nan, {}, true, 0, 0)
    | .inf _ => (.nan, { inv := true }, true, 0, 0)
    | .fin s m e => if m = 0 then (.fin s 0 0, {}, true, 0, 0) else (Fx.toNum (Fx.sin (Fx.ofDyadic s m e)) 0, {}, false, 1, -20))

/-- `cos` (R104): absolute error 2^−20. -/
def opCos (p : Payload) (x : AIn) : ARes :=
  approxOp p x 0x2A (fun _ a =>
    match a with
    | .nan => (.nan, {}, true, 0, 0)
    | .inf _ => (.nan, { inv := true }, true, 0, 0)
    | .fin s m e => if m = 0 then (.fin false 1 0, {}, true, 0, 0) else (Fx.toNum (Fx.cos (Fx.ofDyadic s m e)) 0, {}, false, 1, -20))

/-- `tanh` (R104): relative error 2^−21 for f32, 1 ulp for the halves. -/
def opTanh (p : Payload) (x : AIn) : ARes :=
  approxOp p x 0x2B (fun f a =>
    match a with
    | .nan => (.nan, {}, true, 0, 0)
    | .inf s => (.fin s 1 0, {}, true, 0, 0)
    | .fin s m e =>
      if m = 0 then (.fin s 0 0, {}, true, 0, 0)
      else
        let y := Fx.tanhNum s m e
        match y with
        | .fin t n g => if p.v = 4 then (.fin t n g, {}, false, n, g - 21) else (.fin t n g, {}, false, 1, ulpExp f y)
        | z => (z, {}, true, 0, 0))

end Sys2Proof.Machine
end

