-- ==== Sys2Proof/Machine/Forest.lean ====
section
/-!
DEFINITION. The feature front stage, data-tree descent and link functions (R105, R114 to R120), and the dispatch of every class-A opcode.
-/

namespace Sys2Proof.Machine

/-- Read `n` bytes of the team's scratchpad, or the lane fault of R105: cause 0x06 at an offset that is not aligned, or at the first byte beyond
the allocation. -/
def scrRead (x : AIn) (off align n : Nat) : Except (Nat × Nat) Nat :=
  if off % align != 0 then .error (6, off)
  else if off + n > x.scrSize then .error (6, if off ≥ x.scrSize then off else x.scrSize)
  else .ok (x.scr.nat off n)

/-- The result of a computation that may meet the fault of R105 or of R118. -/
def ofExcept (r : Except (Nat × Nat) ARes) : ARes :=
  match r with
  | .ok v => v
  | .error (c, a) => .fault c a

/-- The modified FP32 source A under FTZ. -/
def srcF32 (p : Payload) (x : AIn) : Num := FFmt.f32.readZ (Fmt.of x.fmt).ftz (modF .f32 p.na p.aa x.a)

/-- Count the entries of a boundary table that are at most `v` (R114). DESIGN CHOICE, log entry 102. -/
def countLe (fm : Fmt) (x : AIn) (v : Num) (base : Nat) : Nat → Nat → Except (Nat × Nat) Nat
  | 0, _ => .ok 0
  | n + 1, i => do
    let t ← scrRead x (base + 4 * i) 4 4
    let r ← countLe fm x v base n (i + 1)
    pure (r + b2n ((FFmt.f32.readZ fm.ftz t).le v))

/-- `fbin` (R114): the number of boundaries at most A; 0xFFFF when A is NaN. DESIGN CHOICE, log entry 101. -/
def opFbin (p : Payload) (x : AIn) : ARes :=
  let v := srcF32 p x; let base := x.b % 2 ^ 32
  ofExcept (do
    let r ← countLe (Fmt.of x.fmt) x v base (p.c.toNat + 1) 0
    pure (.ok (if v.isNan then 0xFFFF else r)))

/-- `fscale` (R115): two rounded steps and the clamp to lo and hi, where hi wins. -/
def opFscale (p : Payload) (x : AIn) : ARes :=
  let fm := Fmt.of x.fmt; let v := srcF32 p x; let base := x.b % 2 ^ 32
  ofExcept (do
    let r ← scrRead x base 16 16
    let fld := fun i => FFmt.f32.readZ fm.ftz (nbits r (32 * i) 32)
    let (d, i0) := Num.add fm.rm v (fld 0).neg
    let (d1, e0) := writeF .f32 fm.rm false fm.ftz d
    let (m, i1) := Num.mul (FFmt.f32.readZ fm.ftz d1) (fld 1)
    let (t1, e1) := writeF .f32 fm.rm false fm.ftz m
    let t := FFmt.f32.readZ fm.ftz t1
    let y := if t.isNan then .nan else Num.minmax false (Num.minmax true t (fld 2)) (fld 3)
    pure (trapF fm (outF .f32 p fm y ((Exc.ofInv (i0 || i1)).or (e0.or e1)))))

/-- `fcross` (R116): (a × nB + b) mod T, or 0xFFFF for a missing bin or T = 0. -/
def opFcross (_p : Payload) (x : AIn) : ARes :=
  let a := x.a % 2 ^ 32; let b := x.b % 2 ^ 32; let nB := nbits x.c 0 16; let t := nbits x.c 16 16
  .ok (if a = 0xFFFF || b = 0xFFFF || t = 0 then 0xFFFF else (a * nB + b) % t)

/-- The fields of a node record (R117) that the descent reads. -/
structure NodeRec where
  right : Nat
  left : Nat
  thr : Nat
  bin : Bool
  leaf : Bool
  defr : Bool
  feat : Nat
  deriving DecidableEq, Repr

/-- Node record `i` of the block at `base` (R117); its reserved bits are read as zero. DESIGN CHOICE, log entry 102. -/
def nodeAt (x : AIn) (base i : Nat) : Except (Nat × Nat) NodeRec := do
  let r ← scrRead x (base + 16 * i) 16 16
  pure ⟨nbits r 76 12, nbits r 64 12, nbits r 32 32, nbit r 18, nbit r 17, nbit r 16, nbits r 0 16⟩

/-- Does the lane go left at a node (R118)? -/
def goLeft (fm : Fmt) (nd : NodeRec) (w : Nat) : Bool :=
  if nd.bin then (if w = 0xFFFF then !nd.defr else w < nd.thr)
  else
    let v := FFmt.f32.readZ fm.ftz w
    if v.isNan then !nd.defr else v.lt (FFmt.f32.readZ fm.ftz nd.thr)

/-- Up to `k` levels of descent from node `i` (R118): the written state. DESIGN CHOICE, log entry 102. -/
def descend (x : AIn) (base feat : Nat) : Nat → Nat → Except (Nat × Nat) Nat
  | 0, i => do
    let nd ← nodeAt x base i
    pure (if nd.leaf then 2 ^ 31 + i else i)
  | k + 1, i => do
    let nd ← nodeAt x base i
    if nd.leaf then pure (2 ^ 31 + i)
    else
      let w ← scrRead x ((feat + 4 * nd.feat) % 2 ^ 32) 4 4
      descend x base feat k (if goLeft (Fmt.of x.fmt) nd w then nd.left else nd.right)

/-- `node` (R118). -/
def opNode (p : Payload) (x : AIn) : ARes :=
  let a := x.a % 2 ^ 32
  if nbit a 31 then .ok a
  else if nbits a 12 19 != 0 then .fault 0x14 0
  else ofExcept (do let r ← descend x (x.b % 2 ^ 32) (x.c % 2 ^ 32) (p.v + 1) (a % 4096); pure (.ok r))

/-- `lacc` (R119): the sum with a leaf's value, or A bit for bit while no leaf is reached. -/
def opLacc (p : Payload) (x : AIn) : ARes :=
  let fm := Fmt.of x.fmt; let c := x.c % 2 ^ 32
  if nbits c 12 19 != 0 then .fault 0x14 0
  else if !nbit c 31 then .ok (x.a % 2 ^ 32)
  else ofExcept (do
    let nd ← nodeAt x (x.b % 2 ^ 32) (c % 4096)
    let (r, i) := Num.add fm.rm (srcF32 p x) (FFmt.f32.readZ fm.ftz nd.thr)
    pure (trapF fm (outF .f32 p fm r (.ofInv i))))

/-- A link function (R120): the exact value and the exceptions it signals. DESIGN CHOICE, log entry 9. -/
def linkNum (fn : Nat) (a : Num) : Num × Exc :=
  match fn, a with
  | 0, v => (v, {})
  | _, .nan => (.nan, {})
  | 1, .inf s => (if s then .fin false 0 0 else .fin false 1 0, {})
  | 2, .inf s => (if s then .fin false 0 0 else .inf false, {})
  | _, .inf s => if s then (.nan, .ofInv true) else (.inf false, {})
  | 1, .fin s m e => (if m = 0 then .fin false 1 (-1) else Fx.logisticNum s m e, {})
  | 2, .fin s m e => (Fx.expNum s m e, {})
  | _, .fin s m e =>
    if m = 0 then (.fin s 0 0, {})
    else
      match Num.cmp (.fin s m e) (.fin true 1 0) with
      | 0 => (.inf true, { dz := true })
      | -1 => (.nan, .ofInv true)
      | _ => (Fx.log1pNum s m e, {})

/-- `link` (R120): identity rounds under R66; the others are correctly rounded to FP32 under RNE. -/
def opLink (p : Payload) (x : AIn) : ARes :=
  let fm := Fmt.of x.fmt; let fn := p.c.toNat
  let (y, e) := linkNum fn (srcF32 p x)
  trapF fm (outF .f32 p (if fn = 0 then fm else { fm with rm := .rne }) y e)

/-- The class-A operation of an opcode (R99): what it writes to D, or the fault its lane takes. -/
def classA (o : Opcode) (p : Payload) (x : AIn) : ARes :=
  match o with
  | .mov => opMov p x | .add => opAdd p x | .sub => opSub p x | .mul => opMul p x | .mulhi => opMulhi p x | .mad => opMad p x
  | .div => opDiv p x | .rem => opRem p x | .min => opMin p x | .max => opMax p x | .addSat => opAddSat p x | .subSat => opSubSat p x
  | .lea => opLea p x | .prmt => opPrmt p x | .sel => opSel p x | .and => opAnd p x | .or => opOr p x | .xor => opXor p x
  | .andn => opAndn p x | .not => opNot p x | .shl => opShl p x | .shr => opShr p x | .rot => opRot p x | .bfe => opBfe p x
  | .bfi => opBfi p x | .popc => opPopc p x | .clz => opClz p x | .ctz => opCtz p x | .brev => opBrev p x | .fma => opFma p x
  | .dot2 => opDot2 p x | .fmin => opFmin p x | .fmax => opFmax p x | .rcp => opRcp p x | .rsq => opRsq p x | .sqrt => opSqrt p x
  | .exp2 => opExp2 p x | .log2 => opLog2 p x | .sin => opSin p x | .cos => opCos p x | .tanh => opTanh p x | .rnd => opRnd p x
  | .frac => opFrac p x | .ldexp => opLdexp p x | .sgn => opSgn p x | .cvt => opCvt p x | .cvtpk => opCvtpk p x
  | .cvtun => opCvtun p x | .cvtmx => opCvtmx p x | .fclass => opFclass p x | .fbin => opFbin p x | .fscale => opFscale p x
  | .fcross => opFcross p x | .node => opNode p x | .lacc => opLacc p x | .link => opLink p x
  | _ => .ok 0

end Sys2Proof.Machine
end

