-- ==== Sys2Proof/Machine/TestOps.lean ====
section
/-!
DEFINITION. The outcome of a test (R61, R62, R80 to R83).
-/

namespace Sys2Proof.Machine

/-- The float format of a test type (R62). -/
def testFmt (t : TType) : FFmt := match t with | .f64 => .f64 | .bf16 => .bf16 | .f16 => .f16 | _ => .f32

/-- The width of an integer test type. -/
def testBits (t : TType) : Nat := if t = .s64 || t = .n64 then 64 else 32

/-- The bits of an immediate B in a test type (R62, R80): sign-extended, and for a float type converted exactly. -/
def testImm (t : Test) : Nat :=
  let i := toSigned 8 t.b.toNat
  if t.isFloat then (writeF (testFmt t.tty) .rne false false (Num.ofInt i)).1 else wrapInt (testBits t.tty) i

/-- The float tests (R81, R82) on raw bits. -/
def floatTest (f : FFmt) (ftz : Bool) (op : TestOp) (a b : Nat) : Bool :=
  let x := f.readZ ftz a; let y := f.readZ ftz b; let un := x.isNan || y.isNan
  match op with
  | .eq => x.eq y | .ne => !x.eq y | .lt => x.lt y | .le => x.le y | .gt => y.lt x | .ge => y.le x
  | .ult => un || x.lt y | .ule => un || x.le y | .ugt => un || y.lt x | .uge => un || y.le x
  | .one => !un && !x.eq y | .ueq => un || x.eq y | .ord => !un | .uno => un
  | .isnan => x.isNan | .isinf => x.isInf | .isfin => !x.isNan && !x.isInf
  | .issub => f.isSub a
  | .isnorm => (match x with | .fin _ m _ => m != 0 && !f.isSub a | _ => false)
  | .iszero => x.isZero
  | .isneg => f.sign a
  | .mlt => x.abs.lt y.abs | .mle => x.abs.le y.abs
  | .sgneq => f.sign a == f.sign b
  | _ => false

/-- The integer tests (R83) on raw bits of width `n`. -/
def intTest (n : Nat) (sg : Bool) (op : TestOp) (a b : Nat) : Bool :=
  let a := a % 2 ^ n; let b := b % 2 ^ n
  let x : Int := if sg then toSigned n a else a
  let y : Int := if sg then toSigned n b else b
  match op with
  | .eq => x == y | .ne => x != y | .lt => decide (x < y) | .le => decide (x ≤ y) | .gt => decide (x > y) | .ge => decide (x ≥ y)
  | .iszero => a == 0 | .isneg => nbit a (n - 1) | .btst => nbit a (b % n)
  | .all => a &&& b == b | .any => a &&& b != 0
  | .inr => decide (0 ≤ x) && decide (x < y) | .inrc => decide (0 ≤ x) && decide (x ≤ y)
  | .sgneq => nbit a (n - 1) == nbit b (n - 1)
  | .pow2 => a != 0 && a == 2 ^ Nat.log2 a
  | _ => false

/-- The outcome of a test after INV (R60, R77): `full` is A's full/empty bit. -/
def testOutcome (t : Test) (fmt : Word) (a b : Nat) (full : Bool) : Bool :=
  let r :=
    match t.op with
    | .full => full
    | .true => true
    | op => if t.isFloat then floatTest (testFmt t.tty) (Fmt.of fmt).ftz op a b
            else intTest (testBits t.tty) (t.tty = .s32 || t.tty = .s64) op a b
  r != t.inv

end Sys2Proof.Machine
end

