-- ==== Sys2Proof/Machine/Lanes.lean ====
section
/-!
DEFINITION. One lane inside a tree (R77): readiness (R22, R23, R34), source reads (R26, R70, R127), the tests, operations and leaf of its path, and what it
asks of memory at the end.
-/

namespace Sys2Proof.Machine

/-- The issuing group and what surrounds it: the team, the wave, the group, whether it is the handler fragment, the issue cycle of its quadrant, the
core, the context of decoding, whether hardware interlocks every dependence (R34), and the literals of the instruction. -/
structure Env where
  loc : Loc
  team : Team
  wave : Wave
  g : Group
  cyc : Nat
  core : Nat
  dc : DecodeCtx
  lock : Bool
  lits : List Word
  deriving DecidableEq, Repr

/-- The context of decoding of a team's code, and of its handler fragment (R19, R31, R111, R211). -/
def Team.decodeCtx (t : Team) (handler : Bool) : DecodeCtx :=
  { alloc := if handler then 32 else t.alloc, bands := t.bandsN, twin := t.twin, wide := t.width == 64, handler := handler, selAlloc := t.alloc }

/-- Does a context run in interlocked mode (R34, R214)? -/
def CtxSt.interlocked (c : CtxSt) : Bool := c.lock || c.cflags.getLsbD 3

/-- A wave as the group at a place reads it: one that issues beside another in the same cycle reads the scalars as they stood then (R26, R228). -/
def Quad.view (q : Quad) (l : Loc) (w : Wave) : Wave :=
  match q.scal with
  | some (t, i, l1) => if q.pair != 0 && q.seconds.head?.map (·.1) == some l && t == l.team && i == l.wave then { w with s := l1 } else w
  | none => w

/-- The surroundings of the group at a place. -/
def State.env? (s : State) (l : Loc) (lits : List Word) : Option Env :=
  match s.team? l.team, s.wave? l.team l.wave, s.group? l with
  | some t, some w, some g =>
    some ⟨l, t, ((s.core (t.coreOf w)).quad w.quad).view l w, g, s.cycOf t w, t.coreOf w, t.decodeCtx l.handler, (s.ctx t.ctx).interlocked, lits⟩
  | _, _, _ => none

namespace Env

/-- The lanes of the issuing group. -/
def lanes (e : Env) : List Nat := if e.loc.handler then [0] else maskLanes e.wave.width e.g.mask

/-- The registers of a lane. -/
def lane (e : Env) (i : Nat) : Lane := if e.loc.handler then (e.wave.handler.map (·.lane)).getD {} else nth {} e.wave.lanes i

/-- The scalar registers that the group reads. -/
def scalars (e : Env) : List Word := if e.loc.handler then (e.wave.handler.map (·.s)).getD [] else e.wave.s

/-- The half that holds the wave. -/
def half (e : Env) : Half := nth { core := 0 } e.team.halves e.wave.half

/-- The scratchpad as the wave sees it. -/
def scr (e : Env) : Mem := e.wave.scrView e.half

/-- The head of the instruction. -/
def head (e : Env) : DWord := e.g.pc

/-- The `lds` results that the group's registers wait for. -/
def pends (e : Env) : List LdsPend := e.team.lds.filter (fun p => p.wave == e.loc.wave && p.fromHandler == e.loc.handler)

end Env

/-! ## Readiness (R22, R23, R34) -/

/-- The registers that a tree reads under policy 0 or writes: main registers must be full (R22, R23). -/
def treeNeeds (x : DecodeCtx) (t : Tree) : List Nat :=
  let src (u : SUse) (s : BitVec 8) (fe : Bool) : List Nat := if fe then [] else Tree.useRegs u s
  t.tests.flatMap (fun q =>
    if q.op = .full then [] else
    (if q.arity = 0 || q.fea then [] else Tree.selRegs q.wide q.a.toNat) ++ (if q.arity = 2 && !q.bi && !q.feb then Tree.selRegs q.wide q.b.toNat else [])) ++
  t.ops.flatMap (fun o =>
    match Opcode.ofByte o.opc.toNat o.p.v with
    | none => []
    | some k =>
      let s := k.shape x o.p
      src s.a o.p.a o.p.fea ++ src s.b o.p.b o.p.feb ++ src s.c o.p.c o.p.fec ++ Tree.Item.dest x (.op o) ++
        (match s.d with | .src w => Tree.selRegs w o.p.d.toNat | _ => [])) ++
  t.leaves.flatMap (fun l => if l.indirect then Tree.selRegs true l.sel else [])

/-- Every register that a tree names, for the interlocks (R34). -/
def treeTouches (x : DecodeCtx) (t : Tree) : List Nat :=
  t.tests.flatMap (fun q => Tree.Item.touch x (.test q)) ++ t.ops.flatMap (fun o => Tree.Item.touch x (.op o)) ++
  t.leaves.flatMap (fun l => Tree.Item.touch x (.leaf l)) ++
  (if t.ops.any (fun o => (Opcode.ofByte o.opc.toNat o.p.v).elim false (fun _ => opClass o.opc.toNat = .A)) then [0xD0, 0xD1] else [])

/-- What keeps an instruction from issuing because of its registers: empty main registers, a scalar that waits for a `wlpop`, or in interlocked mode an
`lds` result (R22, R23, R34, R206). -/
def Env.blocked (e : Env) (t : Tree) : Option Wait :=
  let regs := (treeNeeds e.dc t).filter (fun r => r < 0xC0)
  let open_ := e.lanes.flatMap (fun i => (regs.filter (fun r => ((e.lane i).reg r).empty)).map (fun r => (i, r)))
  if !open_.isEmpty then some (.regs open_)
  else
    let all := treeTouches e.dc t
    if !e.loc.handler && e.wave.scal.any (fun n => all.contains (0xE0 + n)) then some .lock
    else if e.lock && e.pends.any (fun p => all.contains p.dest) then some .lock
    else none

/-! ## Source reads -/

/-- A request of a lane's class-M operation (R77): the operation's place among those of the tree and its sources as read. -/
structure MReq where
  k : Opcode
  idx : Nat
  p : Payload
  a : Nat
  b : Nat
  c : Nat
  d : Nat
  deriving DecidableEq, Repr

/-- The run of one lane (R77): its registers and its view of the scalars as its path leaves them, the registers written, its class-M request, where its
leaf sends it, and the fault that stopped it. -/
structure LRun where
  lane : Nat
  l : Lane
  sc : List Word
  wr : List Nat := []
  req : Option MReq := none
  leaf : Option Leaf := none
  succ : Option DWord := none
  fault : Option LaneFault := none
  deriving DecidableEq, Repr

/-- The value of a 32-bit register that `lds` results have yet to reach: before STALL counts cover the latency the old value or a loaded one, for each
lane and register (R34). DESIGN CHOICE, log entry 23. -/
def Env.hazard (e : Env) (draw lane sel : Nat) (written : Bool) (old : Word) : Word :=
  if written then old
  else
    let l := old :: (e.pends.filter (fun p => p.dest == sel)).filterMap (fun p => (p.vals.find? (fun v => v.1 == lane || sel ≥ 0xE0)).map (·.2))
    if l.length = 1 then old else nth old l (Config.freeValue (draw + 256 * lane + sel) % l.length)

/-- The low or high word of a source selector (R20, R70). -/
def Env.word (e : Env) (draw : Nat) (r : LRun) (sel : Nat) : Word :=
  let h := fun old => e.hazard draw r.lane sel (r.wr.contains sel) old
  if sel < 0xC0 then h (r.l.reg sel).val
  else if sel < 0xD0 then h (nth 0 r.l.o (sel - 0xC0))
  else if sel = 0xD0 then r.l.l0
  else if sel = 0xD1 then r.l.l1
  else if sel = 0xD2 then 0
  else if sel = 0xD3 then BitVec.ofNat 32 r.lane
  else if sel < 0xE0 then nth 0 e.lits (sel - 0xD8)
  else h (nth 0 r.sc (sel - 0xE0))

/-- A source of 32 or 64 bits as raw bits: an empty main register under policy 1 gives cause 0x07, an error mark its cause (R22, R127, R372). -/
def Env.source (e : Env) (draw : Nat) (r : LRun) (wide : Bool) (sel : Nat) (trap : Bool) : Except Nat Nat :=
  let regs := if sel < 0xC0 then Tree.selRegs wide sel else []
  if trap && regs.any (fun i => (r.l.reg i).empty) then .error 0x07
  else
    match regs.find? (fun i => (r.l.reg i).mark != 0) with
    | some i => .error (r.l.reg i).mark.toNat
    | none =>
      let lo := (e.word draw r sel).toNat
      if !wide || sel = 0xD2 || sel = 0xD3 then .ok lo
      else .ok (lo + (e.word draw r (sel + 1)).toNat * 2 ^ 32)

/-- A source field by its use. -/
def Env.field (e : Env) (draw : Nat) (r : LRun) (u : SUse) (sel : BitVec 8) (fe : Bool) : Except Nat Nat :=
  match u with
  | .r32 => e.source draw r false sel.toNat fe
  | .r64 => e.source draw r true sel.toNat fe
  | .none => .ok 0
  | .own => .ok 0

/-- The sources of an operation in the order A, B, C, then a D that it reads (R372). -/
def Env.sources (e : Env) (draw : Nat) (r : LRun) (k : Opcode) (p : Payload) : Except Nat (Nat × Nat × Nat × Nat) := do
  let s := k.shape e.dc p
  let a ← e.field draw r s.a p.a p.fea
  let b ← e.field draw r s.b p.b p.feb
  let c ← e.field draw r s.c p.c p.fec
  let d ← match s.d with
    | .src w => e.source draw r w p.d.toNat false
    | .rmw => e.source draw r false p.d.toNat false
    | _ => .ok 0
  .ok (a, b, c, d)

/-! ## The path (R77) -/

/-- A lane faults: its path stops (R94). -/
def LRun.stop (r : LRun) (e : Env) (cause addr : Nat) : LRun :=
  { r with fault := some { cause := cause, lane := r.lane, head := e.head.toNat, addr := addr } }

/-- The registers of a lane after an operation wrote its D (R20, R25, R26): 32 or 64 bits, then the shift of the last-result file. -/
def LRun.write (r : LRun) (sel : Nat) (wide : Bool) (x : Nat) (shift : Bool) : LRun :=
  let r1 := if sel ≥ 0xE0 then { r with sc := setScalar r.sc (sel - 0xE0) wide x } else { r with l := r.l.write sel wide x }
  let r2 := { r1 with wr := r1.wr ++ Tree.selRegs wide sel }
  if shift then { r2 with l := r2.l.shift (loWord x) } else r2

/-- Is the D of an opcode 64 bits wide? -/
def dWide : DUse → Bool
  | .wr w _ _ _ => w | .mark w => w | .src w => w | .none => false | .own => false | .rmw => false

/-- One operation of a lane's path: a class-A operation is computed, any other is asked for. -/
def Env.runOp (e : Env) (draw : Nat) (r : LRun) (idx : Nat) (o : Op) : LRun :=
  if r.fault.isSome then r
  else
    match Opcode.ofByte o.opc.toNat o.p.v with
    | none => r
    | some k =>
      match e.sources draw r k o.p with
      | .error c => r.stop e c 0
      | .ok (a, b, c, d) =>
        if opClass o.opc.toNat = .A then
          match classA k o.p { a := a, b := b, c := c, d := d, fmt := e.g.fmt, scr := e.scr, scrSize := e.team.scrSize, cbs := e.half.cbs } with
          | .fault cause addr => r.stop e cause addr
          | .ok v => r.write o.p.d.toNat (dWide (k.shape e.dc o.p).d) v true
        else { r with req := some ⟨k, idx, o.p, a, b, c, d⟩ }

/-- The operations of an arc. -/
def Env.runArc (e : Env) (draw : Nat) (t : Tree) (r : LRun) (k : Nat) : LRun :=
  (t.arcOps k).foldl (fun r (i, o) => e.runOp draw r i o) r

/-- The outcome of a test for a lane, or the cause it takes (R77, R80). -/
def Env.runTest (e : Env) (draw : Nat) (r : LRun) (q : Test) : Except Nat Bool := do
  if q.op = .full then .ok (testOutcome q e.g.fmt 0 0 !(r.l.reg q.a.toNat).empty)
  else
    let a ← if q.arity = 0 then .ok 0 else e.source draw r q.wide q.a.toNat q.fea
    let b ← if q.arity = 2 && !q.bi then e.source draw r q.wide q.b.toNat q.feb else .ok (if q.bi then testImm q else 0)
    .ok (testOutcome q e.g.fmt a b false)

/-- The return address of an instruction (R84). -/
def Env.retAddr (e : Env) (t : Tree) : DWord := e.head + BitVec.ofNat 64 (16 * t.words)

/-- The direct target of a leaf (R68, R84). -/
def Env.target (e : Env) (l : Leaf) : DWord := e.head + BitVec.ofNat 64 (ofSigned 64 (16 * toSigned 24 l.off.toNat))

/-- The leaf of a lane's path (R84, R85): its successor and the write of a call. -/
def Env.runLeaf (e : Env) (draw : Nat) (t : Tree) (r : LRun) (l : Leaf) : LRun :=
  if r.fault.isSome then r
  else
    let ret := e.retAddr t
    let go (r : LRun) (x : DWord) : LRun := { r with leaf := some l, succ := some x }
    let call (r : LRun) : LRun := r.write 0xCE true ret.toNat false
    let ind (k : Nat → LRun) : LRun := match e.source draw r true l.sel false with | .error c => r.stop e c 0 | .ok v => k v
    match l.kind with
    | .next => go r ret
    | .branch => go r (e.target l)
    | .branchInd => ind (fun v => go r (BitVec.ofNat 64 v))
    | .call => go (call r) (e.target l)
    | .callInd => ind (fun v => go (call r) (BitVec.ofNat 64 v))
    | .ret => go r (BitVec.ofNat 64 ((e.word draw r 0xCE).toNat + (e.word draw r 0xCF).toNat * 2 ^ 32))
    | .exit => { r with leaf := some l, succ := none }
    | .brk => go r (e.target l)

/-- From a position down to a leaf (R77): a tree has at most three levels of tests. -/
def Env.descend (e : Env) (draw : Nat) (t : Tree) : Nat → Nat → LRun → LRun
  | 0, _, r => r
  | n + 1, p, r =>
    if r.fault.isSome then r
    else
      match t.testAt p with
      | none => (match t.leafAt p with | some l => e.runLeaf draw t r l | none => r)
      | some q =>
        match e.runTest draw r q with
        | .error c => r.stop e c 0
        | .ok o => let c := 2 * p + b2n o; e.descend draw t n c (e.runArc draw t r (c - 1))

/-- The run of a lane through a tree (R77). -/
def Env.run (e : Env) (draw : Nat) (t : Tree) (i : Nat) : LRun :=
  e.descend draw t 4 1 (e.runArc draw t { lane := i, l := e.lane i, sc := e.scalars } 0)

end Sys2Proof.Machine
end

