-- ==== Sys2Proof/Machine/Fetch.lean ====
section
/-!
DEFINITION. Fetch (R54, R98), and the groups whose next instruction has a source that is pending (R220).
-/

namespace Sys2Proof.Machine

/-! ## Fetch (R54, R98) -/

/-- What a fetch finds: pages to be walked, a cause with its detail, address and the head it names, or the parcels of an instruction. -/
inductive Fetched where
  | wait (pages : List Nat)
  | cause (c d a head : Nat)
  | code (ps : List Word)
  deriving DecidableEq, Repr

/-- The page of an instruction word, which must be mapped executable; bit 1 of the DETAIL says fetch (R276). -/
def State.fetchPage (s : State) (core c va : Nat) : Except Fetched Page :=
  match s.laneXlate core c va false with
  | none => .error (.wait [vpn va])
  | some (.bad k d) => .error (.cause k (d + 2) va va)
  | some (.ok p) => if p.x then .ok p else .error (.cause 0x05 2 va va)

/-- Where a core fetches a byte of code from: of translated code, its own die's copy (R290). -/
def State.codePa (s : State) (core pa : Nat) : Nat :=
  match s.codes.findSome? (fun c => (c.at_.find? (fun b => decide (b ≤ pa ∧ pa < b + c.size))).map (fun b => (c, b))) with
  | some (c, b) => nth b c.at_ (core / 24) + (pa - b)
  | none => pa

/-- The four parcels of an instruction word. -/
def State.fetchWord (s : State) (core : Nat) (p : Page) (va : Nat) : Except Fetched (List Word) :=
  match s.homeRead p (s.codePa core (p.phys va)) 16 with
  | .ok (v, _) => .ok ((List.range 4).map (fun i => BitVec.ofNat 32 (nbits v (32 * i) 32)))
  | .error k => .error (.cause k 2 va va)

/-- Fetch every word of the instruction at an address that a leaf of the instruction at `chooser` chose; every cause of the fetch names the instruction's own head but
those of the successor. DESIGN CHOICE, log entry 98. -/
def State.fetchAll (s : State) (core c pc chooser : Nat) : Except Fetched (List Word) :=
  if pc % 16 != 0 then .error (.cause 0x03 0 pc chooser)
  else if pc ≥ 2 ^ 56 then .error (.cause 0x04 2 pc chooser)
  else do
    let p ← s.fetchPage core c pc
    let w0 ← s.fetchWord core p pc
    if !isHead (nth 0 w0 0) then throw (.cause 0x02 0 pc chooser)
    else do
      let vas := (List.range (headWords (nth 0 w0 0))).map (fun i => pc + 16 * i)
      let ps ← (vas.drop 1).mapM (fun va => do let q ← s.fetchPage core c va; pure (va, q))
      let ws ← ps.mapM (fun (va, q) => s.fetchWord core q va)
      pure (w0 ++ ws.flatten)

/-- The outcome of a fetch, whose causes name the head of the instruction. -/
def State.fetch (s : State) (core c pc chooser : Nat) : Fetched :=
  match s.fetchAll core c pc chooser with
  | .ok ps => .code ps
  | .error (.cause k d a h) => .cause k d a (if h = chooser then chooser else pc)
  | .error f => f

/-! ## Pending sources (R22, R34, R206, R220) -/

/-- What keeps the next instruction of the group at a place from issuing because of its registers, as far as that instruction can be fetched now. -/
def State.pendingAt (s : State) (l : Loc) : Option Wait :=
  match s.env? l [] with
  | none => none
  | some e =>
    if e.g.late then none
    else
      match s.fetch e.core e.team.ctx e.g.pc.toNat e.g.chooser.toNat with
      | .code ps => (match decode e.dc ps with | .instr i => i.tree?.bind (fun t => { e with lits := t.lits }.blocked t) | _ => none)
      | _ => none

/-- A group that is READY while a source is pending is STALLED (R220), behind FROZEN and DRAINED too. -/
def State.examine (s : State) (l : Loc) : State :=
  match s.group? l with
  | none => s
  | some g =>
    if g.under != .ready then s
    else match s.pendingAt l with | some w => s.modGroup l (fun g => { g.enter .stalled with wait := w }) | none => s

/-- The places of a team's groups; slot 72 stands for the handler fragment. -/
def Team.locs (t : Team) : List Loc :=
  t.waves.flatMap (fun w => (w.slotsWith (fun _ => true)).map (fun k => { team := t.id, wave := w.idx, slot := k }) ++
    (if w.handler.isSome then [{ team := t.id, wave := w.idx, slot := 72, handler := true }] else []))

/-- Every group of a team whose next source is pending is STALLED (R220). -/
def State.examineTeam (s : State) (t : Nat) : State := ((s.team? t).elim [] Team.locs).foldl State.examine s

end Sys2Proof.Machine
end

