-- ==== Sys2Proof/Machine/Memory.lean ====
section
/-!
DEFINITION. The class-M operations that reach memory (R121 to R150): the checks of a lane in the order of R372, and what their commit does in ascending
lane order (R125).
-/

namespace Sys2Proof.Machine

/-- A lane's access as its checks resolved it: the request, the address, and for device memory the physical address and the page; for a post the
descriptor and the words that it read at issue, and the entry or work that it makes. -/
structure MAcc where
  lane : Nat
  q : MReq
  va : Nat := 0
  pa : Nat := 0
  page : Option Page := none
  raw : Nat := 0
  words : List Nat := []
  ent : Option QSlot := none
  work : Option Work := none
  deriving DecidableEq, Repr

/-- The result of a lane's checks: they pass, they give a cause with DETAIL and address (R94, R276), or the group is not ready (R126, R178). -/
inductive Chk where
  | ok (m : MAcc)
  | fault (cause detail addr : Nat)
  | wait (w : Wait)
  deriving DecidableEq, Repr

/-! ## Addresses (R122, R123) -/

/-- The bytes of an access of a width code (R122). -/
def widthBytes (v : Nat) : Nat := match v with | 0 => 1 | 1 => 1 | 2 => 2 | 3 => 2 | 5 => 8 | _ => 4

/-- Does a load of a width code sign-extend? -/
def widthSigned (v : Nat) : Bool := v == 1 || v == 3

/-- The effective address of a scratchpad or twin access (R123). -/
def eaScratch (q : MReq) : Nat := ofSigned 32 ((q.a : Int) + toSigned 32 q.b + q.p.imm)

/-- The effective address of an access to another space (R123). -/
def eaGlobal (q : MReq) : Nat := ofSigned 64 ((q.a : Int) + toSigned 32 q.b + q.p.imm)

/-- The check of a scratchpad range (R128). -/
def scratchOk (e : Env) (a n : Nat) : Bool := a % n == 0 && a + n ≤ e.team.scrSize

/-- The translation of a lane's access, whose page must satisfy a test (R126, R130, R131, R372). -/
def xlateChk (s : State) (e : Env) (va : Nat) (wr : Bool) (kind : Page → Bool) (k : Page → Chk) : Chk :=
  match s.laneXlate e.core e.team.ctx va wr with
  | none => .wait (.walk [vpn va])
  | some (.bad c d) => .fault c d va
  | some (.ok p) => if kind p then k p else .fault 0x05 (b2n wr) va

/-- Is a page usable as plain device memory (R130)? -/
def plainKind (p : Page) : Bool := p.kind != 3

/-- Is a tile of a page tile-tracked (R295)? -/
def State.tracked? (s : State) (p : Page) (pa : Nat) : Bool := p.kind == 2 && s.trackFmt pa == some p.fmt

/-- What the address translation cache holds of a host page for a function: whether it translates and whether it may be written; none while its translation is
pending (R126, R134). DEDUCED, log entry 30. -/
def State.hostPage (s : State) (fn va : Nat) : Option (Option Bool) := (s.ats.find? (fun t => t.1 == fn && t.2.1 == va / 4096)).map (·.2.2)

/-- The page number by which `PAGE_WALK_COMPLETE` names a page of the host. -/
def hostTag : Nat := 2 ^ 60

/-- A host address translation ends: the cache takes the answer of ATS unless it holds one (R126, R134). DEDUCED, log entry 30. -/
def State.atsFill (s : State) (fn page : Nat) : State :=
  if (s.hostPage fn (4096 * page)).isSome then s else { s with ats := (fn, page, Config.atsAnswer fn page) :: s.ats }

/-- Does the address translation cache hold a translation that admits an access (R134)? DEDUCED, log entry 30. -/
def State.hostOk (s : State) (fn va : Nat) (wr : Bool) : Bool := match s.hostPage fn va with | some (some w) => !wr || w | _ => false

/-- Do `n` bytes from a physical address lie in one stack (R139)? Below 4 KiB of a pool that spans stacks, two neighbouring blocks of 256 bytes lie in
one stack only where a 4 KiB granule ends, so the first four blocks decide. -/
def State.oneStack (s : State) (pa n : Nat) (tile : Bool) : Bool :=
  let blocks := (List.range 4).filter (fun i => 256 * i ≤ pa % 256 + n - 1)
  n == 0 || blocks.all (fun i => s.stackOf (pa / 256 * 256 + 256 * i) tile == s.stackOf pa tile)

/-! ## Checks -/

/-- The checks of a load or store of the scratchpad spaces (R128, R129). -/
def chkScratch (e : Env) (lane : Nat) (q : MReq) : Chk :=
  let a := eaScratch q
  if scratchOk e a (widthBytes q.p.v) then .ok { lane := lane, q := q, va := a, pa := a } else .fault 0x06 0 a

/-- The checks of a device-global or majority access at an address (R123, R126, R130, R131). -/
def chkDevice (s : State) (e : Env) (lane : Nat) (q : MReq) (va n : Nat) (wr : Bool) (kind : Page → Bool) : Chk :=
  if va % n != 0 then .fault 0x05 (b2n wr) va
  else xlateChk s e va wr kind (fun p => .ok { lane := lane, q := q, va := va, pa := p.phys va, page := some p })

/-- The checks of a remote access (R123, R133). -/
def chkRemote (s : State) (e : Env) (lane : Nat) (q : MReq) (va n : Nat) (wr : Bool) : Chk :=
  if va % n != 0 || !s.inDomain e.team.ctx (nbits va 56 8) then .fault 0x05 (b2n wr) va else .ok { lane := lane, q := q, va := va, pa := va }

/-- The checks of a host access (R123, R134). -/
def chkHost (s : State) (e : Env) (lane : Nat) (q : MReq) (va n : Nat) (wr : Bool) : Chk :=
  if va % n != 0 then .fault 0x05 (b2n wr) va
  else
    let fn := (s.ctx e.team.ctx).fn
    match s.hostPage fn va with
    | none => .wait (.ats [(fn, va / 4096)])
    | some _ => if s.hostOk fn va wr then .ok { lane := lane, q := q, va := va, pa := va } else .fault 0x04 (b2n wr) va

/-- The checks of `sred` (R139). DESIGN CHOICE, log entry 105. -/
def chkSred (s : State) (e : Env) (lane : Nat) (q : MReq) : Chk :=
  let n := 4 * q.b
  if q.a % 4 != 0 then .fault 0x05 0 q.a
  else if q.b = 0 then .ok { lane := lane, q := q, va := q.a }
  else xlateChk s e q.a false plainKind (fun p =>
    if q.a + n ≤ p.va + p.size && s.oneStack (p.phys q.a) n (p.kind == 2) then .ok { lane := lane, q := q, va := q.a, pa := p.phys q.a, page := some p }
    else .fault 0x05 0 q.a)

/-- The checks of `tfill`, `tcls` and `tqry` (R147, R148). -/
def chkTile (s : State) (e : Env) (lane : Nat) (q : MReq) : Chk :=
  let fill := q.k = .tfill
  if q.a % 8192 != 0 || (fill && q.p.v == 2 && q.b > 511) then .fault 0x05 (b2n fill) q.a
  else xlateChk s e q.a fill (fun p => s.tracked? p (p.phys q.a) && !(fill && q.p.v == 2 && p.fmt == 9)) (fun p =>
    .ok { lane := lane, q := q, va := q.a, pa := p.phys q.a, page := some p })

/-- The seal slot that a handle names while it is in use (R154, R155). -/
def State.handle? (s : State) (c h : Nat) : Option Tensor :=
  match (s.ctx c).seals[h % 2 ^ 24]? with
  | some x => if nbits h 24 8 = x.gen then x.tensor else none
  | none => none

/-- The fields of an `smv` descriptor (R140). -/
structure SmvDesc where
  ctr : Nat
  bar : Nat
  col0 : Nat
  nrows : Nat
  row0 : Nat
  yh : Nat
  wh : Nat
  deriving DecidableEq, Repr

/-- An `smv` descriptor from its 32 bytes. -/
def SmvDesc.of (n : Nat) : SmvDesc := ⟨nbits n 192 64, nbits n 160 32, nbits n 128 32, nbits n 96 32, nbits n 64 32, nbits n 32 32, nbits n 0 32⟩

/-- Has a barrier object that a post names fields in range (R178)? Its reserved bits are zero and its EXP is not. -/
def barFields (e : Env) (off : Nat) : Bool := let b := Bar.read e.scr off; b.rsv == 0 && b.exp != 0

/-- Is a barrier offset aligned, with its fields in range (R178)? -/
def barOk (e : Env) (off : Nat) : Bool := off % 16 == 0 && barFields e off

/-- Is a tensor one that `smv` admits as W: of the formats 0 to 4 and 8, in device memory, without shared scales (R140)? -/
def smvMatrix (w : Tensor) : Bool := [0, 1, 2, 3, 4, 8].contains w.fmt && !w.mx && w.space == 0

/-- Is a tensor one that `smv` admits as y: one column of FP32 in device memory (R140)? -/
def smvVector (y : Tensor) : Bool := y.fmt == 0 && y.cols == 1 && y.space == 0 && !y.mx

/-- The checks of `smv` in the order of R372 (R140, R150, R178), once its descriptor is uniform and a multiple of 32. -/
def chkSmv (s : State) (e : Env) (lane : Nat) (q : MReq) : Chk :=
  if q.a + 32 > e.team.scrSize then .fault 0x06 0 q.a
  else
    let n := Mem.nat e.scr q.a 32; let d := SmvDesc.of n
    if d.bar != 2 ^ 32 - 1 && d.bar + 16 > e.team.scrSize then .fault 0x06 0 d.bar
    else if d.ctr % 8 != 0 || d.nrows = 0 || (d.bar != 2 ^ 32 - 1 && !barOk e d.bar) then .fault 0x05 0 q.a
    else
      match s.handle? e.team.ctx d.wh, s.handle? e.team.ctx d.yh with
      | some w, some y =>
        if smvMatrix w && smvVector y && d.row0 + d.nrows ≤ w.rows && d.row0 + d.nrows ≤ y.rows then .ok { lane := lane, q := q, va := q.a, raw := n }
        else .fault 0x05 0 q.a
      | _, _ => .fault 0x0A 0 q.a

/-- The checks of a class-M operation that reaches memory. -/
def memCheck (s : State) (e : Env) (lane : Nat) (q : MReq) : Chk :=
  let n := widthBytes q.p.v; let t := typeBytes q.p.v
  match q.k with
  | .lds | .sts | .ldt | .stt => chkScratch e lane q
  | .ldg => chkDevice s e lane q (eaGlobal q) n false plainKind
  | .stg => chkDevice s e lane q (eaGlobal q) n true plainKind
  | .ldm => chkDevice s e lane q (eaGlobal q) n false (fun p => p.kind == 3)
  | .stm => chkDevice s e lane q (eaGlobal q) n true (fun p => p.kind == 3)
  | .ldr => chkRemote s e lane q (eaGlobal q) n false
  | .str => chkRemote s e lane q (eaGlobal q) n true
  | .ldh => chkHost s e lane q (eaGlobal q) n false
  | .sth => chkHost s e lane q (eaGlobal q) n true
  | .atms => if scratchOk e q.a t then .ok { lane := lane, q := q, va := q.a, pa := q.a } else .fault 0x06 0 q.a
  | .atmg => chkDevice s e lane q q.a t true plainKind
  | .atmr => chkRemote s e lane q q.a t true
  | .mcas => chkDevice s e lane q q.a t true (fun p => p.kind == 3)
  | .sred => chkSred s e lane q
  | .smv => chkSmv s e lane q
  | .tfill | .tcls | .tqry => chkTile s e lane q
  | _ => .ok { lane := lane, q := q }

/-! ## Commit -/

/-- An `lds` result of a lane that a later operation on its register has overtaken is not written (R21, R23). -/
def LdsPend.drop (p : LdsPend) (wave : Nat) (handler : Bool) (lane : Nat) (sels : List Nat) : LdsPend :=
  if p.wave == wave && p.fromHandler == handler && sels.contains p.dest then { p with vals := p.vals.filter (fun v => v.1 != lane) } else p

/-- Set a destination of a lane empty (R21); an `lds` to it that has not been written yet is overtaken (R23). -/
def State.markEmpty (s : State) (e : Env) (lane sel : Nat) (wide : Bool) : State :=
  (s.modWave e.loc.team e.loc.wave (fun w => w.modLane e.loc.handler lane (fun l =>
    let l1 := l.setEmpty sel
    if wide then l1.setEmpty (sel + 1) else l1))).modTeam e.loc.team (fun t =>
      { t with lds := t.lds.map (fun p => p.drop e.loc.wave e.loc.handler lane (Tree.selRegs wide sel)) })

/-- A transaction of a lane's access (R127). -/
def MAcc.flight (m : MAcc) (e : Env) (id : Nat) (k : FKind) (sp : Space) (size data : Nat) : Flight :=
  { id := id, team := e.loc.team, wave := e.loc.wave, lane := m.lane, core := e.core, ctx := e.team.ctx, serial := e.team.serial, kind := k, space := sp
    va := m.va, pa := m.pa, size := size, data := data, page := m.page, fromHandler := e.loc.handler, head := e.head.toNat, m := m.q.p.m.toNat, ty := m.q.p.v }

/-- Put a transaction under way. -/
def State.launchFlight (s : State) (f : Flight) : State := { s with flights := s.flights ++ [{ f with id := s.nextId }], nextId := s.nextId + 1 }

/-- The fill of a line that started at most 16 cycles ago and is under way: one more than the clock at its start (R291). DEDUCED, log entry 31. -/
def State.sharedFill (s : State) (core ln : Nat) : Option Nat :=
  (s.flights.find? (fun f => f.kind = .load && f.space = .global && f.core == core && lineOf f.pa == ln && f.fixed.isNone && f.born != 0 &&
    decide (s.clock.toNat + 1 ≤ f.born + 16))).map (·.born)

/-- What the accesses of an instruction to one line of device memory ask for (R291, R292): nothing when all hit, a fill under way, a fill of its own, or for a
memory-side page a request without a fill. -/
inductive LineReq where
  | hit | shared (born : Nat) | own | side
  deriving DecidableEq, Repr

/-- What the accesses among `ms` to the line of one of them ask for. -/
def State.lineReq (s : State) (core : Nat) (ms : List MAcc) (m : MAcc) : LineReq :=
  let ln := lineOf m.pa; let l := (s.core core).line ln
  if (m.page.map (·.kind)) = some 1 then .side
  else if (ms.filter (fun x => lineOf x.pa == ln)).all (fun x => l.hits (x.pa % 128) (widthBytes x.q.p.v)) then .hit
  else match s.sharedFill core ln with | some b => .shared b | none => .own

/-- The first access of each line. -/
def firstOfLine (ms : List MAcc) : List MAcc :=
  ms.foldl (fun l m => if l.any (fun x => lineOf x.pa == lineOf m.pa) then l else l ++ [m]) []

/-- The miss-status entries of a core: 1024 (R6). -/
def missEntries : Nat := 1024

/-- The miss-status entries of a core in use: one for each fill under way (R291). -/
def State.missUse (s : State) (core : Nat) : Nat :=
  ((s.flights.filter (fun f => f.kind = .load && f.space = .global && f.core == core && f.fixed.isNone && f.born != 0)).map (fun f => (lineOf f.pa, f.born))).eraseDups.length

/-- Has a core the miss-status entries that the device-global loads of an issue need (R291)? -/
def State.missRoom (s : State) (core : Nat) (ms : List MAcc) : Bool :=
  let need_ := ((firstOfLine ms).filter (fun m => s.lineReq core ms m == .own)).length
  need_ == 0 || decide (s.missUse core + need_ ≤ missEntries)

/-- The loads of an operation: one request for a line that misses (R291, R292), then a transaction for each lane; a second operation of the instruction shares the request of
the first. -/
def commitLoads (s : State) (e : Env) (sp : Space) (ms : List MAcc) : State :=
  let wide := fun (m : MAcc) => m.q.p.v == 5
  let mk (s : State) (m : MAcc) (born : Nat) : State :=
    (s.markEmpty e m.lane m.q.p.d.toNat (wide m)).launchFlight
      { m.flight e 0 .load sp (widthBytes m.q.p.v) 0 with
        dest := some m.q.p.d.toNat, wide := wide m, sext := widthSigned m.q.p.v, half := if sp = .twin then 1 - e.wave.half else e.wave.half, born := born }
  if sp != .global then ms.foldl (fun a m => mk a m 0) s
  else
    let reqs := (firstOfLine ms).map (fun m => (m, s.lineReq e.core ms m))
    let born (m : MAcc) : Nat :=
      match reqs.find? (fun x => lineOf x.1.pa == lineOf m.pa) with
      | some (_, .shared b) => b
      | some (_, .own) => s.clock.toNat + 1
      | _ => 0
    let s1 := reqs.foldl (fun a x => match x.2 with
      | .own => a.countReq e.core x.1.pa ((x.1.page.map (·.kind)) == some 2)
      | _ => a) s
    ms.foldl (fun a m => mk a m (born m)) s1

/-- Count the lines that accesses touch, once each (R292). -/
def State.countLines (s : State) (e : Env) (ms : List MAcc) : State :=
  (ms.foldl (fun (a, seen) m =>
    let ln := lineOf m.pa
    if seen.contains ln then (a, seen) else (a.countReq e.core m.pa (match m.page with | some p => p.kind == 2 | none => false), seen ++ [ln]))
    (s, ([] : List Nat))).1

/-- Is a team's launch on its replayable course? -/
def State.replaying (s : State) (serial : Nat) : Bool := match s.launch? serial with | some l => l.replaying | none => false

/-- Stage a write of a replayable launch; a staging area that is full makes the launch non-replayable, and the write goes directly (R272, R273). The area
is counted by the bytes staged. DEDUCED, log entry 27. -/
def State.stage (s : State) (serial : Nat) (w : Staged) : State × Bool :=
  match s.launch? serial with
  | none => (s, false)
  | some l =>
    if !l.replaying then (s, false)
    else if !s.recordUp l.ctx || (l.staged.foldl (fun n x => n + x.size) 0) + w.size > s.ctxField l.ctx 704 32 * 4096 then (s.setNonrep serial, false)
    else ({ s with nextId := s.nextId + 1 }.modLaunch serial (fun l => { l with staged := l.staged ++ [{ w with seq := s.nextId }] }), true)

/-- The staged write of a lane's store. -/
def MAcc.staged (m : MAcc) (e : Env) (sp : Space) (n v : Nat) : Staged :=
  { space := sp, addr := m.va, size := n, data := v, team := e.loc.team, wave := e.loc.wave, lane := m.lane, core := e.core, head := e.head.toNat }

/-- One store of a lane (R125): earlier transactions of the wave on its bytes take their place first. -/
def commitStore (s : State) (e : Env) (sp : Space) (m : MAcc) : State :=
  let n := widthBytes m.q.p.v; let v := m.q.c % 2 ^ (8 * n)
  let f := { m.flight e s.nextId .store sp n v with half := 1 - e.wave.half }
  match sp, m.page with
  | .scratch, _ =>
    s.modWave e.loc.team e.loc.wave (fun w => { w with sbuf := w.sbuf ++ [⟨w.half, m.pa, leBytes n v⟩] })
  | .remote, _ => (let (s1, done) := s.stage e.team.serial (m.staged e .remote n v); if done then s1 else s1.launchFlight f)
  | .host, _ => (let (s1, done) := s.stage e.team.serial (m.staged e .host n v); if done then s1 else s1.launchFlight f)
  | .global, some p =>
    if p.kind = 0 then
      let s1 := (((s.settle f).outsideSet e.team.serial m.pa).noteWrote e.team.serial m.pa n).l1Room e.core (lineOf m.pa)
      s1.modCore e.core (fun c =>
        c.putLine { (((c.line (lineOf m.pa)).put (m.pa % 128) n v true).reached e.team.ctx m.va) with ctx := e.team.ctx, serial := e.team.serial, va := m.va })
    else s.launchFlight f
  | _, _ => s.launchFlight f

/-- The scope of an atomic: SCO, or the space's own (R135). -/
def atomScope (q : MReq) : Nat :=
  let sco := q.p.m.toNat / 32 % 8
  if sco = 0 then (match q.k with | .atms => 1 | .atmg => 2 | _ => 3) else sco

/-- Has an atomic release order, acquire order (R135)? -/
def atomRel (q : MReq) : Bool := q.p.m.getLsbD 9
/-- Has an atomic acquire order? -/
def atomAcq (q : MReq) : Bool := q.p.m.getLsbD 8

/-- One atomic of a lane (R135 to R137): with acquire order, and on the scratchpad, it is performed at once. DEDUCED, log entry 20. -/
def commitAtomic (s : State) (e : Env) (sp : Space) (m : MAcc) : State :=
  let n := typeBytes m.q.p.v; let ret := m.q.p.m.getLsbD 4
  let s0 := if sp = .scratch then s.flushScr e.loc.team e.loc.wave else if sp = .remote then s.setNonrep e.team.serial else s
  let id := s0.nextId
  let s1 := if ret then s0.markEmpty e m.lane m.q.p.d.toNat (n == 8) else s0
  let s2 := s1.launchFlight
    { m.flight e id .atomic sp n (m.q.b % 2 ^ (8 * n)) with
      cmp := m.q.c % 2 ^ (8 * n), op := m.q.p.m.toNat % 16, dest := if ret then some m.q.p.d.toNat else none, wide := n == 8, half := e.wave.half }
  if sp = .scratch || (atomAcq m.q && sp != .remote) then s2.perform id {} true else s2

/-- The other memory operations of a lane: `mcas`, `sred` and the tile instructions (R138, R139, R147, R148). -/
def commitOther (s : State) (e : Env) (m : MAcc) : State :=
  let d := m.q.p.d.toNat
  match m.q.k with
  | .mcas =>
    let n := typeBytes m.q.p.v
    (s.markEmpty e m.lane d true).launchFlight
      { m.flight e 0 .mcas .majority n (m.q.c % 2 ^ (8 * n)) with cmp := m.q.b, dest := some d, wide := true }
  | .sred =>
    let s1 := s.markEmpty e m.lane d false
    if m.q.b = 0 then
      s1.launchFlight { m.flight e 0 .sred .global 0 0 with dest := some d, fixed := some (sredOp m.q.p.v m.q.p.c.toNat []) }
    else
      s1.launchFlight { m.flight e 0 .sred .global (4 * m.q.b) 0 with dest := some d, op := m.q.p.c.toNat, cmp := m.q.b }
  | .tfill => s.launchFlight { m.flight e 0 .tfill .global 8192 m.q.b with op := m.q.p.v }
  | .tcls => (s.markEmpty e m.lane d true).launchFlight { m.flight e 0 .tcls .global 8192 0 with dest := some d, wide := true }
  | .tqry => (s.markEmpty e m.lane d true).launchFlight { m.flight e 0 .tqry .global 8192 0 with dest := some d, wide := true }
  | _ => s

/-- A register that an `lds` will write 8 issue cycles after issue (R128); a scalar takes the value of the lowest lane (R26). -/
def commitLds (s : State) (e : Env) (ms : List MAcc) : State :=
  match ms with
  | [] => s
  | m0 :: _ =>
    let d := m0.q.p.d.toNat; let wide := m0.q.p.v == 5
    let val (m : MAcc) : Nat :=
      let n := widthBytes m.q.p.v; let v := Mem.nat e.scr m.pa n
      if widthSigned m.q.p.v then ofSigned 32 (toSigned (8 * n) v) else v
    let l := if d ≥ 0xE0 then [m0] else ms
    let pend (sel : Nat) (f : Nat → Word) : LdsPend :=
      { id := s.nextId, wave := e.loc.wave, dest := sel, vals := l.map (fun m => (m.lane, f (val m))), due := e.cyc + 8, fromHandler := e.loc.handler }
    { s with nextId := s.nextId + 1 }.modTeam e.loc.team (fun t =>
      { t with lds := t.lds ++ pend d loWord :: (if wide then [pend (d + 1) hiWord] else []) })

/-- Every wave of a team performs its writes at device scope (R142, R179). -/
def State.releaseTeam (s : State) (t : Nat) : State :=
  match s.team? t with
  | none => s
  | some x => (List.range x.waves.length).foldl (fun a w => a.releaseWave t w 2) s

/-- Put an entry into a queue of the half that holds a wave, numbered in the order of the team's posts. -/
def State.post (s : State) (e : Env) (w : Work) (f : Half → Entry → Half) : State :=
  let s1 := s.modHalf e.loc.team e.wave.half (fun h => f h { seq := s.seqNo, half := e.wave.half, wave := e.wave.idx, since := s.nextId, work := w })
  { s1 with seqNo := s1.seqNo + 1 }

/-- The `smv` entry of the committing lanes (R140, R141). -/
def commitSmv (s : State) (e : Env) (ms : List MAcc) : State :=
  match ms with
  | [] => s
  | m0 :: _ =>
    let d := SmvDesc.of m0.raw
    match s.handle? e.team.ctx d.wh, s.handle? e.team.ctx d.yh with
    | some w, some y =>
      (s.releaseTeam e.loc.team).post e (.smv w y d.row0 d.nrows d.bar d.ctr (ms.map (fun m => (d.col0 + m.lane, m.q.b))))
        (fun h x => { h with qstack := h.qstack ++ [x] })
    | _, _ => s

/-- The space of a store or atomic. -/
def opSpace (k : Opcode) : Space :=
  match k with
  | .sts | .atms => .scratch
  | .stt => .twin
  | .stm => .majority
  | .str | .atmr => .remote
  | .sth => .host
  | _ => .global

/-- Does an operation act for each lane by itself, in ascending lane order over the whole instruction: stores, atomics, `mcas`, `sred` and the tile instructions (R125)? -/
def Opcode.laneWise (k : Opcode) : Bool :=
  match k with
  | .sts | .stt | .stg | .stm | .str | .sth | .atms | .atmg | .atmr | .mcas | .sred | .tfill | .tcls | .tqry => true
  | _ => false

/-- What comes before the accesses of an instruction by one opcode: the requests of their lines are counted, once for each line (R291, R292), and `sred` follows the team's
stores (R179, R310). -/
def memPre (s : State) (e : Env) (k : Opcode) (ms : List MAcc) : State :=
  match k with
  | .ldg => s.countLines e (ms.filter (fun m => (m.page.map (·.kind)) == some 1))
  | .stg => s.countLines e (ms.filter (fun m => match m.page with | some p => p.kind != 0 | none => false))
  | .atmg => s.countLines e ms
  | .sred => s.releaseTeam e.loc.team
  | _ => s

/-- The access of one lane by such an operation. -/
def memLane (s : State) (e : Env) (m : MAcc) : State :=
  match m.q.k with
  | .sts | .stt | .stg | .stm | .str | .sth => commitStore s e (opSpace m.q.k) m
  | .atms | .atmg | .atmr => commitAtomic s e (opSpace m.q.k) m
  | _ => commitOther s e m

/-- The commit of the other class-M operations that reach memory, for their committing lanes. -/
def memCommit (s : State) (e : Env) (k : Opcode) (ms : List MAcc) : State :=
  match k with
  | .lds => commitLds s e ms
  | .ldt => commitLoads s e .twin ms
  | .ldg => commitLoads s e .global ms
  | .ldm => commitLoads s e .majority ms
  | .ldr => commitLoads s e .remote ms
  | .ldh => commitLoads s e .host ms
  | .smv => commitSmv s e ms
  | _ => s

end Sys2Proof.Machine
end

