-- ==== Sys2Proof/Machine/Posts.lean ====
section
/-!
DEFINITION. The engine posts, barriers, watches and queue control words (R176 to R207): what an issue checks for a lane in the order of R372, and what its commit
enters.
-/

namespace Sys2Proof.Machine

/-! ## Shared checks -/

/-- A check of R372: when it fails, the lane takes a cause with an address. -/
def need (b : Bool) (cause addr : Nat) : Except Chk Unit := if b then .ok () else .error (.fault cause 0 addr)

/-- The outcome of a lane's checks. -/
def Chk.from (r : Except Chk MAcc) : Chk := match r with | .ok m => .ok m | .error c => c

/-- Does a range lie inside the team's allocation (R178)? -/
def inAlloc (e : Env) (off n : Nat) : Bool := decide (off + n ≤ e.team.scrSize)

/-- A barrier that a post names: its range (R372 row 3). -/
def barRange (e : Env) (bar : Option Nat) : Except Chk Unit := match bar with | none => .ok () | some b => need (inAlloc e b 16) 0x06 b

/-- A barrier that a post names: its alignment and fields (R372 row 4). -/
def barField (e : Env) (bar : Option Nat) : Except Chk Unit := match bar with | none => .ok () | some b => need (barOk e b) 0x05 b

/-- The barrier of a 17-bit field: its offset ÷ 16, or none (R193, R197, R201). -/
def barOf (f : Nat) : Option Nat := if f = 0x1FFFF then none else some (16 * f)

/-- The translation of an address as a load's, whose page must satisfy a test (R126, R190). -/
def postXlate (s : State) (e : Env) (va : Nat) (kind : Page → Bool) : Except Chk Page :=
  match s.laneXlate e.core e.team.ctx va false with
  | none => .error (.wait (.walk [vpn va]))
  | some (.bad c d) => .error (.fault c d va)
  | some (.ok p) => if kind p then .ok p else .error (.fault 0x05 0 va)

/-- The handle that a post names (R155, R178). -/
def postHandle (s : State) (e : Env) (h : Nat) : Except Chk Tensor :=
  match s.handle? e.team.ctx h with
  | some t => .ok t
  | none => .error (.fault 0x0A 0 h)

/-- The operands of a post that must be uniform (R140, R177). -/
def MReq.uniform (q : MReq) : List Nat :=
  match q.k with
  | .smv | .cpyE | .idxg | .idxgSt | .idxs | .idxsSt | .bput => [q.a]
  | .cpy1d | .qword => [q.a, q.b, q.c, q.d]
  | .fqplay => [q.b]
  | .bplay | .barInit | .barArr | .barExp | .watchA => [q.a, q.b]
  | .watchC => [q.a, q.b, q.c]
  | _ => []

/-- Is a request of a form that its uniform operand must have: the descriptor of `smv` is a multiple of 32 (R140)? -/
def MReq.formed (q : MReq) : Bool := q.k != .smv || q.a % 32 == 0

/-! ## Tensors (R37, R153) -/

/-- The bytes of a row of a tensor. -/
def Tensor.rowBytes (t : Tensor) : Nat := if codeBits t.fmt = 4 then (t.cols + 1) / 2 else t.cols * ((codeBits t.fmt + 7) / 8)

/-- The address of byte `x` of row `r` of a tensor (R153). -/
def Tensor.byteAddr (t : Tensor) (r x : Nat) : Nat :=
  if t.tiled then t.base + 8192 * (r / 32 * ((t.rowBytes + 255) / 256) + x / 256) + 256 * (r % 32) + x % 256 else t.base + r * t.stride + x

/-- The space code of `cpy` for the SPACE of a record (R153, R176). -/
def Tensor.cpySpace (t : Tensor) : Nat := match t.space with | 0 => 2 | 1 => 0 | _ => 1

/-- Byte ranges of the rows of the 32-row, 256-byte tile at a coordinate that lie inside a tensor (R193): row within the tile, address, length. -/
def Tensor.tileRows (t : Tensor) (crd : Nat) : List (Nat × Nat × Nat) :=
  let tr := crd % 65536; let x := 256 * (crd / 65536 % 65536)
  (List.range 32).filterMap (fun i =>
    let r := 32 * tr + i
    if r < t.rows && x < t.rowBytes then some (i, t.byteAddr r x, min 256 (t.rowBytes - x)) else none)

/-! ## Copy entries (R192, R193) -/

/-- The fields of a copy entry (R193). -/
structure Copy where
  prog : Nat
  held : Bool
  ctrp : Nat
  bar : Option Nat
  form : Nat
  ssp : Nat
  dsp : Nat
  dstr : Nat
  sstr : Nat
  len : Nat
  dst : Nat
  src : Nat
  deriving DecidableEq, Repr

/-- A copy entry from its 32 bytes. -/
def Copy.of (n : Nat) : Copy :=
  { prog := nbits n 234 22, held := nbit n 233, ctrp := nbits n 217 16, bar := barOf (nbits n 200 17), form := nbits n 198 2, ssp := nbits n 195 3
    dsp := nbits n 192 3, dstr := 16 * nbits n 176 16, sstr := 16 * nbits n 160 16, len := nbits n 128 32, dst := nbits n 64 64, src := nbits n 0 64 }

/-- The total byte count of a copy (R193). -/
def Copy.total (c : Copy) : Nat := match c.form with | 0 => c.len | 1 => c.len / 65536 * (c.len % 65536) | _ => 8192

/-- The bytes from the first to the last that a side of a copy spans, by its stride. -/
def Copy.span (c : Copy) (stride : Nat) : Nat := if c.form = 0 then c.len else (c.len / 65536 - 1) * stride + c.len % 65536

/-- Do the fields of a copy entry hold values that R193 admits? Spaces 6 and 7 and form 3 are none, and twin needs a twin team (R129, R176). -/
def Copy.fieldsOk (c : Copy) (n : Nat) (twin : Bool) : Bool :=
  c.prog == 0 && !c.held && c.form != 3 && decide (c.ssp ≤ 5) && decide (c.dsp ≤ 5) && (twin || (c.ssp != 1 && c.dsp != 1)) &&
  (c.form == 1 || nbits n 160 32 == 0) &&
  (match c.form with
   | 0 => c.len != 0
   | 1 => c.len / 65536 != 0 && c.len % 65536 != 0
   | _ => c.len == 0 && c.ssp == 0 && c.dsp == 0) &&
  decide (c.total ≤ 0x1FFFFF80)

/-- A scratchpad or twin side lies in the allocation (R192). -/
def sideRange (e : Env) (sp a n : Nat) : Except Chk Unit := if sp ≤ 1 then need (inAlloc e a n) 0x06 a else .ok ()

/-- A remote side names a module of the domain set (R133, R192). -/
def sideId (s : State) (e : Env) (sp a : Nat) : Except Chk Unit := if sp = 4 then need (s.inDomain e.team.ctx (nbits a 56 8)) 0x05 a else .ok ()

/-- The address bits that a global or majority side must hold zero (R130, R192). -/
def sideBits (sp a : Nat) (wr : Bool) : Except Chk Unit :=
  if (sp = 2 || sp = 3) && a ≥ 2 ^ 56 then .error (.fault 0x04 (4 + b2n wr) a) else .ok ()

/-- A scratchpad side of a tile copy, whose handle names a record, lies in the allocation (R192, R372 row 3). -/
def tileRange (e : Env) (t : Option Tensor) (crd off : Nat) : Except Chk Unit :=
  match t with
  | some t => need (t.space == 0 || (t.tileRows crd).all (fun (_, a, l) => inAlloc e (a % 2 ^ 32) l)) 0x06 off
  | none => .ok ()

/-- The checks of a copy entry in the order of R372; `off` is the offset of the image, and `bar` its barrier. DEDUCED, log entry 13. -/
def copyChecks (s : State) (e : Env) (lane : Nat) (q : MReq) (n : Nat) (bar : Option Nat) (off : Nat) (aligned : Bool) : Except Chk MAcc := do
  let c := Copy.of n
  if c.form ≤ 1 then
    sideRange e c.ssp c.src (c.span c.sstr)
    sideRange e c.dsp c.dst (c.span c.dstr)
  if c.form = 2 then
    tileRange e (s.handle? e.team.ctx (c.src % 2 ^ 32)) (c.src / 2 ^ 32) off
    tileRange e (s.handle? e.team.ctx (c.dst % 2 ^ 32)) (c.dst / 2 ^ 32) off
  barRange e bar
  if c.ctrp != 0xFFFF then need (inAlloc e (32 * c.ctrp) 8) 0x06 (32 * c.ctrp)
  need (aligned && c.fieldsOk n e.team.twin) 0x05 off
  barField e bar
  let ctr := if c.ctrp = 0xFFFF then none else some (Mem.nat e.scr (32 * c.ctrp) 8)
  need (ctr.elim true (fun a => a % 8 == 0)) 0x05 (ctr.getD 0)
  if c.form ≤ 1 then
    sideId s e c.ssp c.src
    sideId s e c.dsp c.dst
  need e.half.ring.isSome 0x05 off
  let (ts, td) ← if c.form = 2 then do
      let a ← postHandle s e (c.src % 2 ^ 32)
      let b ← postHandle s e (c.dst % 2 ^ 32)
      pure (a, b)
    else pure (({} : Tensor), ({} : Tensor))
  if c.form = 2 then
    need (e.team.twin || (ts.space != 2 && td.space != 2)) 0x05 off
  if c.form ≤ 1 then
    sideBits c.ssp c.src false
    sideBits c.dsp c.dst true
  pure { lane := lane, q := q, va := off, raw := n, ent := some { seq := 0, val := n, ctr := ctr, src := ts, dst := td } }

/-- The image that `cpy.1d` builds from its operands (R192): A destination, B source, C length, D barrier, the spaces in P[7:5] and P[10:8]. -/
def copy1d (q : MReq) (bar : Option Nat) : Nat :=
  q.b + q.a * 2 ^ 64 + q.c * 2 ^ 128 + (q.p.m.toNat % 8) * 2 ^ 192 + (q.p.m.toNat / 8 % 8) * 2 ^ 195 +
    (bar.elim 0x1FFFF (fun b => b / 16 % 2 ^ 17)) * 2 ^ 200 + 0xFFFF * 2 ^ 217

/-- The checks of `cpy` (R192). DEDUCED, log entry 37. -/
def chkCopy (s : State) (e : Env) (lane : Nat) (q : MReq) : Chk :=
  Chk.from (
    if q.k = .cpy1d then
      let bar := if q.p.d.toNat = 0xD2 then none else some q.d
      copyChecks s e lane q (copy1d q bar) bar q.c true
    else do
      need (inAlloc e q.a 32) 0x06 q.a
      let n := Mem.nat e.scr q.a 32
      copyChecks s e lane q n (Copy.of n).bar q.a (q.a % 32 == 0))

/-! ## Index entries (R197, R198) -/

/-- The fields of an index descriptor. -/
structure IdxDesc where
  rsv : Nat
  fm : Bool
  ew : Nat
  bar : Nat
  soff : Nat
  fill : Nat
  bound : Nat
  base : Nat
  deriving DecidableEq, Repr

/-- An index descriptor from its 32 bytes. -/
def IdxDesc.of (n : Nat) : IdxDesc :=
  ⟨nbits n 188 68, nbit n 187, nbits n 177 10, nbits n 160 17, nbits n 128 32, nbits n 96 32, nbits n 64 32, nbits n 0 64⟩

/-- The status of a lane's index (R198). -/
def idxStatus (d : IdxDesc) (x : Nat) : Nat := if x = 2 ^ 32 - 1 then 2 else if x ≥ d.bound then 1 else 0

/-- The checks of `idxg` and `idxs` in the order of R372 (R197, R198). DEDUCED, log entry 13. -/
def chkIndex (e : Env) (lane : Nat) (q : MReq) : Chk :=
  Chk.from (do
    need (inAlloc e q.a 32) 0x06 q.a
    let n := Mem.nat e.scr q.a 32
    let d := IdxDesc.of n
    need (inAlloc e d.soff (4 * (d.ew + 1) * e.wave.width)) 0x06 d.soff
    barRange e (barOf d.bar)
    need (q.a % 32 == 0 && d.rsv == 0 && d.soff % 4 == 0 && d.base % 4 == 0) 0x05 q.a
    barField e (barOf d.bar)
    need (!(d.fm && decide (d.bound ≤ q.b) && q.b != 2 ^ 32 - 1)) 0x14 (ofSigned 64 (d.base + 4 * (d.ew + 1) * q.b))
    pure { lane := lane, q := q, va := q.a, raw := n })

/-! ## Bins (R201 to R203) -/

/-- The fields of a bin-set descriptor that are checked; the reserved bits are in `rsv`. -/
structure BinDesc where
  rsv : Nat
  bar : Nat
  sreg : Nat
  cap : Nat
  bins : Nat
  rsl : Nat
  op : Nat
  th : Nat
  deriving DecidableEq, Repr

/-- A bin-set descriptor from its 32 bytes. -/
def BinDesc.of (n : Nat) : BinDesc :=
  ⟨nbits n 201 55 + nbits n 39 25, nbits n 184 17, nbits n 160 24, nbits n 128 32, nbits n 64 64, nbits n 34 5, nbits n 32 2, nbits n 0 32⟩

/-- The number of elements of a bin-set's target (R201). -/
def BinSet.count (d : BinSet) : Nat := d.th.rows * d.th.cols

/-- The number of regions. -/
def BinSet.regions (d : BinSet) : Nat := (d.count + 2 ^ d.rsl - 1) / 2 ^ d.rsl

/-- The checks of `bput` and `bplay` in the order of R372 (R178, R201 to R203). DEDUCED, log entry 13. -/
def chkBin (s : State) (e : Env) (lane : Nat) (q : MReq) : Chk :=
  Chk.from (do
    need (inAlloc e q.a 32) 0x06 q.a
    let n := Mem.nat e.scr q.a 32
    let d := BinDesc.of n
    need (inAlloc e d.sreg (4 * 2 ^ d.rsl)) 0x06 d.sreg
    barRange e (barOf d.bar)
    need (q.a % 32 == 0 && d.rsv == 0 && d.op != 3 && decide (10 ≤ d.rsl ∧ d.rsl ≤ 18) && d.cap != 0 && d.bins % 64 == 0 && d.sreg % 128 == 0) 0x05 q.a
    barField e (barOf d.bar)
    need (q.k == .bplay || e.half.bins.isSome) 0x05 q.a
    let t ← postHandle s e d.th
    need (t.space == 0 && !t.tiled && !t.mx && (match d.op with | 0 => t.fmt == 0 | 1 => t.fmt == 0xA | _ => t.fmt == 0 || t.fmt == 0xA)) 0x05 q.a
    let b : BinSet := { th := t, op := d.op, rsl := d.rsl, bins := d.bins, cap := d.cap, sreg := d.sreg, bar := d.bar }
    need (q.k != .bplay || decide (q.b < b.regions)) 0x05 q.a
    need (q.k != .bput || q.b == 2 ^ 32 - 1 || decide (q.b < b.count)) 0x14 q.b
    pure { lane := lane, q := q, va := q.a, raw := n, work := some (if q.k = .bplay then .bplay b q.b else .bput b []) })

/-! ## Work-lists (R204 to R207) -/

/-- The front of a post (R176): P[6:5]. -/
def MReq.front (q : MReq) : Nat := q.p.m.toNat % 4

/-- The active front of an index. -/
def Half.front (h : Half) (i : Nat) : Option Ring := nth none h.fronts i

/-- The checks of `wlpush`, `wlins`, `wlpop` and `wlstat` (R182, R205). -/
def chkList (e : Env) (lane : Nat) (q : MReq) : Chk :=
  Chk.from (do
    match e.half.front q.front with
    | none => throw (.fault 0x05 0 0)
    | some r =>
      let nb := nbits r.hdr 384 32; let lo := nbits r.hdr 352 32
      need (q.k != .wlins || q.b == 2 ^ 32 - 1 || nb == 0 || decide (lo ≤ q.b ∧ q.b < lo + nb)) 0x14 q.b
      pure { lane := lane, q := q })

/-! ## Barriers, watches, control words (R182, R185 to R187, R190) -/

/-- The checks of `bar.init` (R185), `bar.arr` and `bar.exp` (R178). -/
def chkBar (e : Env) (lane : Nat) (q : MReq) : Chk :=
  Chk.from (do
    need (inAlloc e q.a 16) 0x06 q.a
    if q.k = .barInit then need (q.a % 16 == 0 && decide (1 ≤ q.b ∧ q.b ≤ 65535)) 0x05 q.a else need (barOk e q.a) 0x05 q.a
    pure { lane := lane, q := q, va := q.a })

/-- Has the team room for a watch on a barrier: fewer than four on others (R190)? -/
def watchRoom (e : Env) (off : Nat) : Bool := decide ((e.team.watches.filter (fun w => !(w.half == e.wave.half && w.bar == off))).length < 4)

/-- The translations of the armed words of a watch (R190): of several failures an absent page comes before a page that does not serve (R372 rows 7 and 8). -/
def watchXlate (s : State) (e : Env) (l : List Nat) : Except Chk (List Nat) :=
  let rs := l.map (fun a => (postXlate s e a (fun _ => true)).map (fun p => p.phys a))
  let failed (p : Chk → Bool) : Option Chk := rs.findSome? (fun r => match r with | .error c => if p c then some c else none | .ok _ => none)
  let late (c : Chk) : Bool := match c with | .fault 0x05 _ _ => false | _ => true
  match ((failed (fun c => match c with | .wait _ => true | _ => false)).orElse (fun _ => failed late)).orElse (fun _ => failed (fun _ => true)) with
  | some c => .error c
  | none => rs.mapM id

/-- The checks of `watch.a` (R190). -/
def chkWatchA (s : State) (e : Env) (lane : Nat) (q : MReq) : Chk :=
  let n := q.p.m.toNat % 4 + 1
  Chk.from (do
    need (inAlloc e q.a 16) 0x06 q.a
    need (inAlloc e q.b (8 * n)) 0x06 q.b
    need (barOk e q.a) 0x05 q.a
    need (q.b % 32 == 0) 0x05 q.b
    need (watchRoom e q.a) 0x05 q.a
    let l := (List.range n).map (fun i => Mem.nat e.scr (q.b + 8 * i) 8)
    l.forM (fun a => need (a % 8 == 0) 0x05 a)
    let ps ← watchXlate s e l
    pure { lane := lane, q := q, va := q.a, raw := Mem.nat e.scr q.b (8 * n), words := ps })

/-- The checks of `watch.c` (R190, R191). -/
def chkWatchC (s : State) (e : Env) (lane : Nat) (q : MReq) : Chk :=
  Chk.from (do
    need (inAlloc e q.a 16) 0x06 q.a
    need (barOk e q.a) 0x05 q.a
    need (q.b % 8 == 0) 0x05 q.b
    need (watchRoom e q.a) 0x05 q.a
    let p ← postXlate s e q.b (fun _ => true)
    pure { lane := lane, q := q, va := q.a, words := [p.phys q.b], page := some p })

/-- The ESZ of a kind of queue (R181). -/
def queueEsz (k : Nat) : Nat := match k with | 0 => 5 | 1 => 2 | 2 => 4 | _ => 3

/-- The active queue of a kind and index. -/
def Half.queue (h : Half) (k i : Nat) : Option Ring := match k with | 0 => h.ring | 1 => h.front i | 2 => h.faultQ | _ => h.bins

/-- Set the active queue of a kind and index. -/
def Half.setQueue (h : Half) (k i : Nat) (r : Ring) : Half :=
  match k with
  | 0 => { h with ring := some r }
  | 1 => { h with fronts := h.fronts.set i (some r) }
  | 2 => { h with faultQ := some r }
  | _ => { h with bins := some r }

/-- Is a number a power of two from 2 to 65,536 (R182)? -/
def depthOk (n : Nat) : Bool := (List.range 16).any (fun i => n == 2 ^ (i + 1))

/-- The checks of `qword` (R182); the header of a work-list is read as the wave's earlier stores leave it (R125, R248). DEDUCED, log entry 36. -/
def chkQword (s : State) (e : Env) (lane : Nat) (q : MReq) : Chk :=
  let k := q.p.v; let i := q.front
  Chk.from (do
    need (inAlloc e q.a 16) 0x06 q.a
    need (inAlloc e q.b (q.c * 2 ^ queueEsz k)) 0x06 q.b
    need (q.a % 16 == 0) 0x05 q.a
    need (q.b % 32 == 0 && depthOk q.c) 0x05 q.b
    need ((e.half.queue k i).elim true (fun r => r.head == r.tail)) 0x05 q.a
    if k = 1 then do
      need (q.d % 64 == 0) 0x05 q.d
      let p ← postXlate s e q.d plainKind
      match (s.releaseWave e.loc.team e.loc.wave 2).engRead e.team.ctx q.d 64 with
      | .ok (hdr, _) => pure { lane := lane, q := q, va := q.d, pa := p.phys q.d, raw := hdr }
      | .error (c, _) => throw (.fault c 0 q.d)
    else pure { lane := lane, q := q })

/-- The checks of a post. -/
def postCheck (s : State) (e : Env) (lane : Nat) (q : MReq) : Chk :=
  match q.k with
  | .cpy1d | .cpyE => chkCopy s e lane q
  | .idxg | .idxgSt | .idxs | .idxsSt => chkIndex e lane q
  | .fqplay => if e.half.faultQ.isSome then .ok { lane := lane, q := q } else .fault 0x05 0 0
  | .bput | .bplay => chkBin s e lane q
  | .wlpush | .wlins | .wlpop | .wlstat => chkList e lane q
  | .barInit | .barArr | .barExp => chkBar e lane q
  | .watchA => chkWatchA s e lane q
  | .watchC => chkWatchC s e lane q
  | .qword => chkQword s e lane q
  | _ => memCheck s e lane q

/-! ## Room (R178) -/

/-- The entries that a queue still takes. -/
def Ring.room (r : Ring) : Nat := r.depth - (r.tail + 2 ^ 32 - r.head) % 2 ^ 32

/-- The pairs that the committing lanes of a `bput` append (R202). -/
def putPairs (ms : List MAcc) : List (Nat × Nat) := (ms.filter (fun m => m.q.b != 2 ^ 32 - 1)).map (fun m => (m.q.b, m.q.c))

/-- Have the copy ring and the bin staging area room for all posts of an instruction (R178, R192, R202)? Each list is one operation's committing
lanes. -/
def postRoom (e : Env) (ops : List (List MAcc)) : Bool :=
  let copies := (ops.filter (fun ms => ms.any (fun m => m.q.k == .cpy1d || m.q.k == .cpyE))).length
  let pairs := (ops.map (fun ms => (putPairs (ms.filter (fun m => m.q.k == .bput))).length)).foldl (· + ·) 0
  (copies == 0 || decide (copies ≤ e.half.ring.elim 0 Ring.room)) && (pairs == 0 || decide (pairs ≤ e.half.bins.elim 0 Ring.room))

/-! ## Commit -/

/-- Write HEAD and TAIL of an active queue into its control word (R181). -/
def State.syncRing (s : State) (t h : Nat) (r : Ring) : State := s.scrWrite t h (r.ctl + 8) (leBytes 4 r.head ++ leBytes 4 r.tail)

/-- Append an entry to an active queue: its storage slot, TAIL and the control word (R181). -/
def State.ringPut (s : State) (t h k i : Nat) (x : QSlot) : State :=
  match (s.half? t h).bind (fun y => y.queue k i) with
  | none => s
  | some r =>
    let n := 2 ^ queueEsz k
    let r1 := { r with tail := (r.tail + 1) % 2 ^ 32, ents := r.ents ++ [x] }
    ((s.scrWrite t h (r.base + n * (r.tail % r.depth)) (leBytes n x.val)).modHalf t h (fun y => y.setQueue k i r1)).syncRing t h r1

/-- Take the oldest entry from an active queue: HEAD and the control word. -/
def State.ringPop (s : State) (t h k i : Nat) : State :=
  match (s.half? t h).bind (fun y => y.queue k i) with
  | none => s
  | some r =>
    let r1 := { r with head := (r.head + 1) % 2 ^ 32, ents := r.ents.drop 1 }
    (s.modHalf t h (fun y => y.setQueue k i r1)).syncRing t h r1

/-- Arm a watch in place of any on its barrier (R190). -/
def State.arm (s : State) (t : Nat) (w : Watch) : State :=
  s.modTeam t (fun x => { x with watches := x.watches.filter (fun y => !(y.half == w.half && y.bar == w.bar)) ++ [w] })

/-- `bar.init` (R185). DEDUCED, log entry 16. -/
def State.initBar (s : State) (t h off n : Nat) : State :=
  let s1 := s.modTeam t (fun x => { x with watches := x.watches.filter (fun y => !(y.half == h && y.bar == off)) })
  (s1.modHalf t h (fun x => { x with bars := if x.bars.contains off then x.bars else x.bars ++ [off] })).modBar t h off
    (fun b => { b with exp := n, parr := n, pbytes := 0, phase := 0, wf := 0, ovr := false })

/-- Write a control word and make it the active queue of its kind and index (R182). -/
def State.setQword (s : State) (t h k i ctl base depth list hdr : Nat) : State :=
  let w := base + depth * 2 ^ 24 + queueEsz k * 2 ^ 56 + i * 2 ^ 60 + k * 2 ^ 62
  (s.scrWrite t h ctl (leBytes 16 w)).modHalf t h (fun y => y.setQueue k i { ctl := ctl, base := base, depth := depth, list := list, hdr := hdr })

/-- Enter a posted entry into a queue after the issuing wave's writes have been performed at device scope (R179). -/
def State.postAfter (s : State) (e : Env) (w : Work) (f : Half → Entry → Half) : State := (s.releaseWave e.loc.team e.loc.wave 2).post e w f

/-- The status that a committing access of `idxg.st` or `idxs.st` writes to D (R198). -/
def MAcc.status (m : MAcc) : Option Nat := if m.q.k == .idxgSt || m.q.k == .idxsSt then some (idxStatus (IdxDesc.of m.raw) m.q.b) else none

/-- The run of a lane with the status that its index post writes: it is a write of the lane at commit, to a main, operand or scalar register (R26, R198). -/
def LRun.withStatus (r : LRun) (ops : List (List MAcc)) : LRun :=
  match ops.flatten.find? (fun m => m.lane == r.lane && m.status.isSome) with
  | some m => r.write m.q.p.d.toNat false ((m.status).getD 0) false
  | none => r

/-- The commit of an index post (R198). -/
def commitIndex (s : State) (e : Env) (k : Opcode) (ms : List MAcc) : State :=
  match ms with
  | [] => s
  | m0 :: _ =>
    let d := IdxDesc.of m0.raw
    s.postAfter e (.index (k == .idxs || k == .idxsSt) d.ew d.bar d.soff d.fill d.bound d.base (ms.map (fun m => (m.lane, m.q.b))))
      (fun h x => { h with qidx := h.qidx ++ [x] })

/-- The commit of a copy post: the entry in its ring (R192, R193). -/
def commitCopy (s : State) (e : Env) (m : MAcc) : State :=
  match m.ent with
  | none => s
  | some x =>
    let s1 := s.releaseWave e.loc.team e.loc.wave 2
    { s1.ringPut e.loc.team e.wave.half 0 0 { x with seq := s1.seqNo, wave := e.wave.idx, since := s1.nextId } with seqNo := s1.seqNo + 1 }

/-- The commit of `bput`: the pairs enter the staging area with their entry (R202). -/
def commitBput (s : State) (e : Env) (ms : List MAcc) : State :=
  match ms with
  | { work := some (.bput d _), .. } :: _ =>
    let ps := putPairs ms
    let s1 := s.postAfter e (.bput d ps) (fun h x => { h with qbin := h.qbin ++ [x] })
    ps.foldl (fun a (i, v) => a.ringPut e.loc.team e.wave.half 3 0 { seq := s.seqNo, val := i + v * 2 ^ 32 }) s1
  | _ => s

/-- The commit of a work-list post (R205 to R207). -/
def commitList (s : State) (e : Env) (k : Opcode) (ms : List MAcc) : State :=
  match ms with
  | [] => s
  | m0 :: _ =>
    let i := m0.q.front; let d := m0.q.p.d.toNat; let w := e.loc.wave; let lanes := ms.map (·.lane)
    let add : Half → Entry → Half := fun h x => { h with qwl := h.qwl ++ [x] }
    match k with
    | .wlpop =>
      let n := m0.q.p.c.toNat
      let s1 := ms.foldl (fun a m => a.markEmpty e m.lane d false) s
      (s1.modWave e.loc.team w (fun y => { y with scal := y.scal ++ [n] })).postAfter e (.wlpop i n d w lanes) add
    | .wlstat => (ms.foldl (fun a m => a.markEmpty e m.lane d true) s).postAfter e (.wlstat i d w lanes) add
    | _ => s.postAfter e (.wlpush (k == .wlins) i ((ms.map (fun m => m.q.b)).filter (fun c => c != 2 ^ 32 - 1))) add

/-- The commit of a load, a post or a barrier operation for its committing lanes (R125, R177). -/
def postCommit (s0 : State) (e : Env) (k : Opcode) (ms : List MAcc) : State :=
  let t := e.loc.team; let h := e.wave.half
  let s := if k == .qword then s0.releaseWave t e.loc.wave 2 else if k == .barInit || k == .barExp || k == .watchC then s0.flushScr t e.loc.wave else s0
  match ms with
  | [] => s
  | m0 :: _ =>
    let q := m0.q
    match k with
    | .cpy1d | .cpyE => commitCopy s e m0
    | .idxg | .idxgSt | .idxs | .idxsSt => commitIndex s e k ms
    | .fqplay => s.postAfter e (.fqplay q.b) (fun h x => { h with qidx := h.qidx ++ [x] })
    | .bput => commitBput s e ms
    | .bplay => (match m0.work with | some w => s.postAfter e w (fun h x => { h with qbin := h.qbin ++ [x] }) | none => s)
    | .wlpush | .wlins | .wlpop | .wlstat => commitList s e k ms
    | .barInit => s.initBar t h q.a q.b
    | .barArr => (s.releaseWave t e.loc.wave 1).modBar t h q.a (fun b => b.arrive ms.length q.b)
    | .barExp => s.modBar t h q.a (fun b => b.expect q.b)
    | .watchA => s.arm t { half := h, bar := q.a, words := m0.words, vas := (List.range m0.words.length).map (fun i => nbits m0.raw (64 * i) 64), counter := false, target := 0 }
    | .watchC =>
      let w : Watch := { half := h, bar := q.a, words := m0.words, vas := [q.b], counter := true, target := q.c, mset := (m0.page.filter (fun p => p.kind == 3)).map (·.mset) }
      let s1 := s.arm t w
      if s1.word8 w.mset ((m0.words.head?).getD 0) ≥ q.c then s1.fire t w 12 else s1
    | .qword => s.setQword t h q.p.v q.front q.a q.b q.c q.d m0.raw
    | _ => memCommit s e k ms

end Sys2Proof.Machine
end

