-- ==== Sys2Proof/Machine/Commit.lean ====
section
/-!
DEFINITION. The commit of an issue (R75, R77, R78, R91, R94, R218, R227, R228): lane and scalar writes, class-M operations, the division of the lanes into groups,
and their placement.
-/

namespace Sys2Proof.Machine

/-! ## The issue slot -/

/-- The cycles that an issue takes: two for a 64-lane wave (R223). -/
def Env.cycles (e : Env) : Nat := if !e.loc.handler && e.wave.width = 64 then 2 else 1

/-- The surroundings of a group whose instruction completes after its issue: STALL counts from the last issue cycle of the quadrant (R56). DEDUCED, log entry 67. -/
def Env.completing (e : Env) : Env := { e with cyc := e.cyc - e.cycles }

/-- The quadrant after an issue: its cycles pass, or a pairing opens or closes (R228), and the run of step 3 is counted (R224). DESIGN CHOICE, log entry 72. -/
def Quad.issued (q : Quad) (n : Nat) : Quad :=
  let q1 := { q with run3 := if q.at3 then q.run3 + 1 else 0, at3 := false }
  if q.pair = 0 && !q.seconds.isEmpty then { q1 with pair := n } else { q1 with cyc := q.cyc + max n q.pair, pair := 0, seconds := [], scal := none }

/-- An issue has taken its slot: the quadrant moves on, and an agreement after a disagreement is counted and logged (R224, R227, R321). -/
def State.issued (s : State) (e : Env) : State :=
  let s1 := s.modQuad e.core e.wave.quad (fun q => q.issued e.cycles)
  let s2 := if e.g.retried then (s1.modCore e.core (fun c => { c with mism := (s.ns :: c.mism).take 16 })).logError ⟨s.ns, 0, e.team.serial % 2 ^ 32, e.core, 4, 0, 1, 0, 0⟩ else s1
  s2.modWave e.loc.team e.loc.wave (fun w => { w with lastIssue := e.cyc })

/-- The group that issues is not ready after all: it takes no slot and waits (R22, R126, R178, R219); a disagreement
of its datapaths that it has met stays with it until it issues (R227). -/
def State.stallOn (s : State) (l : Loc) (st : GState) (w : Wait) : State := s.modGroup l (fun g => g.waitFor st w)

/-- The issue cycle before which what descends from an issue does not issue again: STALL cycles after it, in interlocked mode none but the next (R34, R56). -/
def Env.stallTill (e : Env) (s : State) (stall : Nat) : Nat := e.cyc + max 1 (if (s.ctx e.team.ctx).interlocked then 0 else stall)

/-- A cause of the whole group at issue (R54, R75, R94): it takes the slot, and its STALL count holds for the group when it comes back (R56, R96). -/
def State.groupCause (s : State) (e : Env) (stall cause detail addr : Nat) : State :=
  ((s.issued e).modGroup e.loc (fun g => { g with ready := e.stallTill s stall })).takeCause e.loc cause detail addr e.head.toNat

/-- Walk results that are not pages, and host translations that failed, are used once. -/
def State.dropWalks (s : State) (core ctx : Nat) : State :=
  { s.modCore core (fun c => { c with tlb := c.tlb.filter (fun x => x.ctx != ctx || (match x.res with | .page _ => true | _ => false)) }) with
    ats := s.ats.filter (fun t => t.1 != (s.ctx ctx).fn || t.2.2.isSome) }

/-! ## Writes of lanes and scalars (R26, R77) -/

/-- The lanes of a wave, or the handler fragment's, take their registers. -/
def Wave.takeLanes (w : Wave) (h : Bool) (ok : List LRun) : Wave := ok.foldl (fun w r => w.modLane h r.lane (fun _ => r.l)) w

/-- The `lds` results of a team, without the values that a write has overtaken. -/
def ldsLeft (e : Env) (ok : List LRun) (l : List LdsPend) : List LdsPend :=
  l.map (fun p =>
    if p.wave == e.loc.wave && p.fromHandler == e.loc.handler then
      { p with vals := p.vals.filter (fun v => !(ok.any (fun r => r.wr.contains p.dest && (r.lane == v.1 || p.dest ≥ 0xE0)))) }
    else p)

/-- The lanes of a commit take their registers; an `lds` result that a write overtakes is dropped. -/
def State.commitLanes (s : State) (e : Env) (ok : List LRun) : State :=
  (s.modWave e.loc.team e.loc.wave (fun w => w.takeLanes e.loc.handler ok)).modTeam e.loc.team (fun t => { t with lds := ldsLeft e ok t.lds })

/-- Scalar registers after a commit: each that is written takes the value of the lowest lane that wrote it (R26). `lds` are the scalars that an `lds` of the
same instruction will write, each with its lowest lane: such a lane comes before a higher one. -/
def scalarsAfter (ok : List LRun) (lds : List (Nat × Nat)) (l : List Word) : List Word :=
  (List.range 32).foldl (fun l i =>
    match ok.find? (fun r => r.wr.contains (0xE0 + i)) with
    | some r => if lds.any (fun x => x.1 == 0xE0 + i && decide (x.2 < r.lane)) then l else l.set i (nth 0 r.sc i)
    | none => l) l

/-- The wave, or its handler fragment, takes the scalars written. -/
def Wave.takeScalars (w : Wave) (h : Bool) (ok : List LRun) (lds : List (Nat × Nat)) : Wave :=
  if h then { w with handler := w.handler.map (fun x => { x with s := scalarsAfter ok lds x.s }) } else { w with s := scalarsAfter ok lds w.s }

/-- Each scalar written takes the value of the lowest lane that wrote it (R26). DESIGN CHOICE, log entry 97. -/
def State.commitScalars (s : State) (e : Env) (ok : List LRun) (lds : List (Nat × Nat)) : State :=
  s.modWave e.loc.team e.loc.wave (fun w => w.takeScalars e.loc.handler ok lds)

/-- The scalars that the `lds` operations of an instruction write, each with a lane. -/
def ldsScalars (ops : List (List MAcc)) : List (Nat × Nat) :=
  (ops.flatten.filter (fun m => m.q.k == .lds && m.q.p.d.toNat ≥ 0xE0)).flatMap (fun m => (Tree.selRegs (m.q.p.v == 5) m.q.p.d.toNat).map (fun r => (r, m.lane)))

/-- Among the `lds` results made since a number, a scalar keeps that of the lowest lane of the instruction that wrote it, whose `lds` is the last
write of its path (R26, R72, R124). -/
def State.trimLds (s : State) (e : Env) (ok : List LRun) (lds : List (Nat × Nat)) (since : Nat) : State :=
  if lds.isEmpty then s
  else s.modTeam e.loc.team (fun t => { t with lds := t.lds.map (fun p =>
    if p.id ≥ since && p.dest ≥ 0xE0 then
      { p with vals := p.vals.filter (fun v => lds.all (fun x => x.1 != p.dest || decide (v.1 ≤ x.2)) && ok.all (fun r => !r.wr.contains p.dest || decide (v.1 ≤ r.lane))) }
    else p) })

/-! ## Groups after a commit (R78, R87, R88, R91, R218) -/

/-- Where a lane goes: its successor and pointer; none when it exits. -/
abbrev Dest := Option (DWord × Option Nat)

/-- The destination of a lane's leaf with a pointer (R78, R84, R88). -/
def LRun.dest (r : LRun) (w : Wave) (ptr : Option Nat) : Dest :=
  match r.leaf, r.succ with
  | some l, some x => some (x, if l.kind = .brk then w.afterBreak l.pop.toNat ptr else ptr)
  | _, _ => none

/-- The lanes of each destination, in the order of their lowest lanes. -/
def byDest (l : List (Nat × Dest)) : List (Dest × DWord) :=
  l.foldl (fun acc (i, d) =>
    if acc.any (fun x => x.1 = d) then acc.map (fun x => if x.1 = d then (x.1, x.2 ||| (1#64 <<< i)) else x) else acc ++ [(d, 1#64 <<< i)]) []

/-- The state of a new group of a fragment: held when the fragment is (R220, R235). -/
def Group.hold (g : Group) : GState := match g.st with | .frozen => .frozen | .drained => .drained | _ => .ready

/-- A group that an issue makes: it may issue again STALL cycles after the issue (R56), and a `yield` that excludes its lanes goes on (R215). Out of a meeting it
comes READY (R220). -/
def Env.child (e : Env) (s : State) (stall : Nat) (fmt : Word) (mask : DWord) (pc : DWord) (ptr : Option Nat) : Group :=
  let go : Group → Nat → Group := if e.g.under = .meeting then Group.goOn else Group.resume
  go ({ mask := mask, fmt := fmt, pc := pc, rcd := ptr, chooser := e.head, yieldTill := e.g.yieldTill, ready := e.stallTill s stall, st := e.g.hold } : Group) (e.cyc + e.cycles)

/-- Do the lanes of an issue divide (R78): two destinations, an exit counting as one, or a destination and lanes that fault or wait on in a meeting (`keep`)? DEDUCED, log
entry 81. -/
def splits (ptr : Option Nat) (ok : List LRun) (bad : List LaneFault) (keep : DWord) (w : Wave) : Bool :=
  decide ((byDest (ok.map (fun r => (r.lane, r.dest w ptr)))).length + (if bad.isEmpty && keep = 0 then 0 else 1) ≥ 2)

/-- The wave after a push, of a fragment whose `fmt` has become `fmt`. -/
def Wave.pushed (w : Wave) (e : Env) (fmt : Word) (x : Option (Nat × Nat)) : Wave :=
  match x with | some (i, a) => w.push i e.g.mask fmt (BitVec.ofNat 64 a) e.g.rcd | none => w

/-- The pointer of the groups after a push. -/
def Env.ptrAfter (e : Env) (x : Option (Nat × Nat)) : Option Nat := match x with | some (i, _) => some i | none => e.g.rcd

/-- The record that an issue could push (R91): its number and landing address, at a site whose group has not pushed one, while a record is free. -/
def State.pushSite (s : State) (e : Env) (w : Wave) : Option (Nat × Nat) :=
  if e.g.pushed then none else match s.landAt e.team.serial e.head.toNat, w.freeRec with | some a, some i => some (i, a) | _, _ => none

/-- The record that an issue pushes (R91): that of its site when the lanes divide, with their pointers as the push leaves them (R78). -/
def State.pushAt (s : State) (e : Env) (fmt : Word) (ok : List LRun) (bad : List LaneFault) (keep : DWord) (w : Wave) : Option (Nat × Nat) :=
  let x := s.pushSite e w
  if splits (e.ptrAfter x) ok bad keep (w.pushed e fmt x) then x else none

/-- The group of the lanes that fault, which stay at the head with their records (R94, R95): STALL and a `yield` hold for them too (R56, R215). -/
def Env.parked (e : Env) (s : State) (stall : Nat) (fmt : Word) (x : Option (Nat × Nat)) (bad : List LaneFault) : Option Group :=
  if bad.isEmpty then none
  else some { mask := lanesMask (bad.map (·.lane)), fmt := fmt, pc := e.head, rcd := e.ptrAfter x, st := e.g.hold, pushed := x.isSome || e.g.pushed,
              chooser := e.g.chooser, recs := bad, yieldTill := e.g.yieldTill, ready := e.stallTill s stall }

/-- The group of the lanes that wait on in a meeting whose other lanes go on (R111): it is placed as any group (R217, R218). -/
def Env.waiting (e : Env) (x : Option (Nat × Nat)) (keep : DWord) : Group := { e.g with mask := keep, rcd := e.ptrAfter x, pushed := x.isSome || e.g.pushed }

/-- A group among groups in the order of their lowest lanes. -/
def insertLow (g : Group) (l : List Group) : List Group := l.takeWhile (fun x => decide (x.low < g.low)) ++ g :: l.dropWhile (fun x => decide (x.low < g.low))

/-- The lanes whose leaf is a break, each with the number of records that it leaves (R88). -/
def breaks (ok : List LRun) : List (Nat × Nat) :=
  ok.filterMap (fun r => match r.leaf with | some l => if l.kind = .brk then some (l.pop.toNat, r.lane) else none | none => none)

/-- The groups of an issue in a wave: the push, the placement, the records that lanes leave, and the arrivals (R78, R87, R88, R91, R92, R218). `fmt` is what the
fragment's `fmt` has become; `bad` are the records of the lanes that fault, `keep` the lanes that wait on in a meeting. The slot of the group that stays at the head, for
either cause, is returned. -/
def State.regroupWave (s : State) (e : Env) (stall : Nat) (fmt : Word) (ok : List LRun) (bad : List LaneFault) (keep : DWord) (w : Wave) : Wave × Option Nat :=
  let x := s.pushAt e fmt ok bad keep w
  let w1 := w.pushed e fmt x
  let ptr := e.ptrAfter x
  let dests := byDest (ok.map (fun r => (r.lane, r.dest w1 ptr)))
  let groups := dests.filterMap (fun d => d.1.map (fun y => e.child s stall fmt d.2 y.1 y.2))
  let pl := w1.place e.loc.slot (if keep = 0 then groups else insertLow (e.waiting x keep) groups) (e.parked s stall fmt x bad)
  let w3 := (breaks ok).foldl (fun a b => a.leave (e.cyc + e.cycles) (1#64 <<< b.2) (w1.chain b.1 ptr)) pl.1
  let out := lanesMask ((ok.filter (fun r => r.succ.isNone)).map (·.lane))
  let w4 := if out = 0 then w3 else w3.exit (e.cyc + e.cycles) out
  (pl.2.1.foldl (fun a k => a.arrive (e.cyc + e.cycles) k) w4, if keep = 0 then pl.2.2 else pl.2.1.find? (fun k => (pl.1.group k).mask = keep))

/-- The handler fragment's lane has run an instruction: it goes on, ends with its trapped lanes resumed at the head (R213), or fails the launch (R211). -/
def State.handlerNext (s : State) (e : Env) (stall : Nat) (fmt : Word) (r : LRun) : State :=
  match r.fault with
  | some f => s.takeCause e.loc f.cause f.detail f.addr f.head
  | none =>
    match r.succ with
    | none => s.eretOp e.loc.team e.loc.wave (BitVec.allOnes 64) none e.head
    | some x => s.modGroup e.loc (fun _ => e.child s stall fmt 1 x none)

/-- Arrivals of lanes whose group has moved to another slot. -/
def Wave.moveMeets (w : Wave) (keep : DWord) (k : Nat) : Wave := { w with meets := w.meets.map (fun a => if keep.getLsbD a.lane then { a with slot := k } else a) }

/-- Every lane of a group has finished, but for those in `keep`, which wait on in a meeting: its groups are made, its faulting lanes deliver their records, and a wave without
lanes leaves (R77, R78, R94, R95, R87). -/
def State.regroupAt (s0 : State) (e : Env) (stall : Nat) (fmt : Word) (runs : List LRun) (keep : DWord) : State :=
  if e.loc.handler then (match runs with | r :: _ => s0.handlerNext e stall fmt r | [] => s0)
  else
    match s0.wave? e.loc.team e.loc.wave with
    | none => s0
    | some w =>
      let ok := runs.filter (fun r => r.fault.isNone)
      let bad := runs.filterMap (fun r => r.fault)
      let (w1, pk) := s0.regroupWave e stall fmt ok bad keep w
      let s1 := s0.modWave e.loc.team e.loc.wave (fun _ => w1)
      let s2 := match pk with
        | some k => if keep != 0 then s1.modWave e.loc.team e.loc.wave (fun y => y.moveMeets keep k) else s1.parkGroup e.loc.team e.loc.wave k
        | none => s1
      if ok.any (fun r => r.succ.isNone) then s2.afterExit e.loc.team e.loc.wave else s2

/-- The issue of a group ends: it has taken its slot, and its lanes are divided. -/
def State.regroup (s : State) (e : Env) (stall : Nat) (fmt : Word) (runs : List LRun) : State := (s.issued e).regroupAt e stall fmt runs 0

/-! ## The class-M operations of a tree -/

/-- A lane's run with the outcome of its class-M checks: a failed check, which comes before anything later on its path, gives its cause (R94, R372). -/
def LRun.checked (r : LRun) (e : Env) (c : Chk) : LRun :=
  match c with
  | .fault k d a =>
    let host := match r.req with | some q => q.k == .ldh || q.k == .sth | none => false
    { r with fault := some { cause := k, detail := d, lane := r.lane, head := e.head.toNat, addr := a, host := host }, req := none }
  | _ => r

/-- The checks of the lanes that ask for one operation: first that its uniform operands agree (cause 0x08 in every such lane), then each lane's own (R177,
R372). -/
def checkOp (s : State) (e : Env) (rs : List LRun) : List (LRun × Chk) :=
  let live := rs.filter (fun r => r.fault.isNone)
  let us := live.filterMap (fun r => r.req.map (·.uniform))
  let same := us.all (fun u => some u == us.head?) && live.all (fun r => r.req.elim true MReq.formed)
  rs.filterMap (fun r => r.req.map (fun q =>
    (r, if !same && r.fault.isNone then .fault 0x08 0 0 else postCheck s e r.lane q)))

/-- Every check of the lanes of an issue. -/
def checkAll (s : State) (e : Env) (n : Nat) (runs : List LRun) : List (LRun × Chk) :=
  (List.range n).flatMap (fun k => checkOp s e (runs.filter (fun r => (r.req.map (·.idx)) == some k)))

/-- The pages whose walks a check waits for (R126). -/
def Chk.pages : Chk → List Nat
  | .wait (.walk p) => p
  | _ => []

/-- The host pages whose translations a check waits for (R126). -/
def Chk.hostPages : Chk → List (Nat × Nat)
  | .wait (.ats p) => p
  | _ => []

/-- What a check waits for. -/
def Chk.waits : Chk → Option Wait
  | .wait w => some w
  | _ => none

/-- What a group waits for when some checks of its lanes cannot be made yet: all of their walks, then all of their host translations. -/
def waitsOf (l : List (LRun × Chk)) : Option Wait :=
  let pages := l.flatMap (fun x => x.2.pages); let hosts := (l.flatMap (fun x => x.2.hostPages)).eraseDups
  if !pages.isEmpty then some (.walk pages) else if !hosts.isEmpty then some (.ats hosts) else l.findSome? (fun x => x.2.waits)

/-- The accesses of one operation that commit, in ascending lane order. -/
def accesses (l : List (LRun × Chk)) (k : Nat) : List MAcc :=
  l.filterMap (fun (r, c) =>
    match c, r.req with
    | .ok m, some q => if q.idx = k && r.fault.isNone then some m else none
    | _, _ => none)

/-- After an atomic with acquire order the core's L1 drops what is not dirty, and with release order the writes of other modules must have been answered (R135,
R143). -/
def atomicOrders (s : State) (e : Env) (ops : List (List MAcc)) : State :=
  let acq := ops.any (fun ms => ms.any (fun m => (m.q.k == .atms || m.q.k == .atmg) && atomAcq m.q && (decide (atomScope m.q ≥ 2) || e.team.twin)))
  if acq then s.acquireL1 e.core else s

/-- Is a request an atomic? -/
def MReq.isAtomic (q : MReq) : Bool := q.k == .atms || q.k == .atmg || q.k == .atmr

/-- The widest scope of the release-ordered atomics of an issue; none without one (R135). -/
def relScope (ops : List (List MAcc)) : Option Nat :=
  let l := ops.flatMap (fun ms => (ms.filter (fun m => m.q.isAtomic && atomRel m.q)).map (fun m => atomScope m.q))
  if l.isEmpty then none else some (l.foldl max 0)

/-- Acquire-ordered atomics on other modules that the wave has under way: its later loads and acquires wait for them (R135, R137, R143, R249, R306, R313, R314). DEDUCED, log entry 20. -/
def State.acqOpen (s : State) (e : Env) : List Nat :=
  (s.flights.filter (fun f => f.ofWave e.loc.team e.loc.wave && f.kind = .atomic && f.space = .remote && nbit f.m 8 && f.fixed.isNone)).map (·.id)

/-- Is an operation a load? The loads of an instruction come before its stores: they return the bytes held before the instruction (R125). -/
def Opcode.reads (k : Opcode) : Bool :=
  match k with | .lds => true | .ldt => true | .ldg => true | .ldm => true | .ldr => true | .ldh => true | _ => false

/-- The runs of the lanes of the issuing group (R77). -/
def Env.runs (e : Env) (draw : Nat) (t : Tree) : List LRun := e.lanes.map (fun i => e.run draw t i)

/-- The free values that reads before the latency of an `lds` took are used up (R34). DESIGN CHOICE, log entry 2. -/
def State.drawn (s : State) (e : Env) : State := if e.pends.isEmpty then s else { s with draw := s.draw + 16384 }

/-- The checks of the lanes of an issue (R177, R372). -/
def State.checks (s : State) (e : Env) (t : Tree) : List (LRun × Chk) := checkAll (s.drawn e) e t.ops.length (e.runs s.draw t)

/-- The accesses of each operation of a tree. -/
def opAccesses (t : Tree) (chks : List (LRun × Chk)) : List (List MAcc) := (List.range t.ops.length).map (fun k => accesses chks k)

/-- Before an issue with a release-ordered atomic: the wave's earlier writes are performed (R135, R143), those staged among them when an atomic on another module is to set
NONREP (R272). DEDUCED, log entry 19. -/
def State.released (s : State) (e : Env) (ops : List (List MAcc)) : State :=
  match relScope ops with
  | some c => (if ops.any (fun ms => ms.any (fun m => m.q.k == .atmr)) then s.setNonrep e.team.serial else s).releaseWave e.loc.team e.loc.wave c
  | none => s

/-- The writes that another module must answer before such an issue. -/
def State.relOpen (s : State) (e : Env) (ops : List (List MAcc)) : List Nat :=
  match relScope ops with | some c => s.unanswered e.loc.team e.loc.wave c | none => []

/-- The operation at a place of a tree. -/
def treeOp (t : Tree) (k : Nat) : Option Opcode := (t.ops[k]?).bind (fun o => Opcode.ofByte o.opc.toNat o.p.v)

/-- Does an opcode read memory as a later load of its wave, `sred` included, or with its payload acquire (R137, R139, R249)? -/
def Opcode.afterAcq (k : Opcode) (p : Payload) : Bool :=
  match k with
  | .lds | .ldt | .ldg | .ldm | .ldr | .ldh | .sred => true
  | .atms | .atmg | .atmr => p.m.getLsbD 8
  | _ => false

/-- Does a tree hold a load, or an atomic with acquire order? -/
def treeLoads (t : Tree) : Bool := t.ops.any (fun o => (Opcode.ofByte o.opc.toNat o.p.v).elim false (fun k => Opcode.afterAcq k o.p))

/-- The operations of a tree that satisfy a test, with their accesses, in encoded order. -/
def pickOps (t : Tree) (ops : List (List MAcc)) (p : Opcode → Bool) : List (Opcode × List MAcc) :=
  ops.zipIdx.filterMap (fun x => (treeOp t x.2).bind (fun k => if p k then some (k, x.1) else none))

/-- Accesses in ascending lane order. DEDUCED, log entry 18. -/
def byLane (ms : List MAcc) : List MAcc := (List.range 64).flatMap (fun i => ms.filter (fun m => m.lane == i))

/-- A disagreement in checked issue (R227): the first leaves the group as it was, to be reissued; the second is a machine check, logged, and marks the core. -/
def State.mismatch (s0 : State) (e : Env) : State :=
  let s := { s0 with disagree := false }
  let e0 := { e with g := { e.g with retried := false } }
  if e.g.retried then
    ((((s.issued e0).modGroup e.loc (fun g => { g with retried := false })).modCore e.core (fun c => { c with marked := true })).logError
      ⟨s.ns, 0, e.team.serial % 2 ^ 32, e.core, 5, 4, 1, 0, 0x0D⟩).takeCause e.loc 0x0D 0 0 e.head.toNat
  else (s.issued e0).modGroup e.loc (fun g => { g with retried := true })

/-- The class-M operations of an instruction act: its loads first, then what each lane stores or changes in ascending lane order over the whole instruction, then its posts
and barrier operations in encoded order (R125, R177, R242). DEDUCED, log entry 18. -/
def State.commitOps (s : State) (e : Env) (t : Tree) (ops : List (List MAcc)) : State :=
  let lane := pickOps t ops Opcode.laneWise
  let pre (l : List (Opcode × List MAcc)) (a : State) (k : Opcode) : State :=
    let ms := (l.filter (fun x => x.1 == k)).flatMap (·.2); if ms.isEmpty then a else memPre a e k ms
  let loads := pickOps t ops Opcode.reads
  let s1 := loads.foldl (fun a x => postCommit a e x.1 x.2) (pre loads s .ldg)
  let s2 := [.stg, .atmg, .sred].foldl (pre lane) s1
  let s3 := (byLane (lane.flatMap (·.2))).foldl (fun a m => memLane a e m) s2
  (pickOps t ops (fun k => !Opcode.reads k && !Opcode.laneWise k)).foldl (fun a x => postCommit a e x.1 x.2) s3

/-- The commit of an issue (R77): lane and scalar writes, class-M operations, the division of the lanes. -/
def State.commitTree (s : State) (e : Env) (t : Tree) (ops : List (List MAcc)) (runs : List LRun) : State :=
  let ok := (runs.filter (fun r => r.fault.isNone)).map (fun r => r.withStatus ops)
  let lds := ldsScalars ops
  let s1 := atomicOrders ((((s.commitLanes e ok).commitScalars e ok lds).commitOps e t ops).trimLds e ok lds s.nextId) e ops
  (s1.dropWalks e.core e.team.ctx).regroup e t.stall.toNat e.g.fmt runs

/-- What an issue whose checks pass must still wait for: queue room (R178), miss-status entries (R291), writes that other modules must answer before a release (R143). `s1` is the
state in which the wave's earlier writes have been performed as far as its release asks. -/
def State.issueWait (s s1 : State) (e : Env) (t : Tree) (ops : List (List MAcc)) : Option (State × Wait) :=
  if !postRoom e ops then some (s, .room)
  else if !s.missRoom e.core ((pickOps t ops (fun k => k == .ldg)).flatMap (·.2)) then some (s, .miss)
  else if !(s1.relOpen e ops).isEmpty then some (s1, .flights (s1.relOpen e ops))
  else none

/-- The issue of a tree of class-A and class-M operations, tests and leaves (R77). -/
def State.issueIn (s : State) (t : Tree) (e : Env) : State :=
  match e.blocked t with
  | some w => s.stallOn e.loc .stalled w
  | none =>
    if treeLoads t && !(s.acqOpen e).isEmpty then s.stallOn e.loc .stalled (.flights (s.acqOpen e))
    else
      let chks := s.checks e t
      match waitsOf chks with
      | some w => s.stallOn e.loc .stalled w
      | none =>
        let ops := opAccesses t chks
        let s1 := (s.drawn e).released e ops
        match s.issueWait s1 e t ops with
        | some (s2, w) => s2.stallOn e.loc .stalled w
        | none =>
          if s.disagree then (s.drawn e).mismatch e
          else s1.commitTree e t ops ((e.runs s.draw t).map (fun r => match chks.find? (fun x => x.1.lane == r.lane) with | some x => r.checked e x.2 | none => r))

/-- The group that the state names as issuing, when it is ready. -/
def State.issuing (s : State) (t : Tree) : Option Env :=
  match s.cur with
  | none => none
  | some l => (s.env? l t.lits).bind (fun e => if e.g.st = .ready then some e else none)

/-- THE ISSUE OF A TREE by the group that is issuing (R77); with none, nothing happens. -/
def issueTree (t : Tree) (s : State) : State :=
  match s.issuing t with
  | none => s
  | some e => s.issueIn t e

/-! ## Class-H operations (R73, R85) -/

/-- The result of a class-H operation: it has its effect and the leaf follows; the whole group takes a cause with nothing committed; or it waits,
in the state as it was or in one that its wait has changed. A cause may leave a changed state too. -/
inductive HRes where
  | commit (s : State) (fmt : Word)
  | cause (c d a : Nat)
  | wait (st : GState) (w : Wait)
  | hold (s : State) (st : GState) (w : Wait)
  | causeIn (s : State) (c d a : Nat)
  | done (s : State)
  deriving DecidableEq, Repr

/-- The run of a lane after a class-H operation: its registers as they stand, with the write of a call leaf (R84, R85). -/
def LRun.afterH (r : LRun) (s : State) (e : Env) (ret : DWord) : LRun :=
  let l := match s.wave? e.loc.team e.loc.wave with
    | some w => if e.loc.handler then (w.handler.map (·.lane)).getD {} else nth {} w.lanes r.lane
    | none => r.l
  let r1 := { r with l := l, sc := [], wr := [], req := none }
  match r.leaf with
  | some x => if x.kind = .call || x.kind = .callInd then r1.write 0xCE true ret.toNat false else r1
  | none => r1

/-- The group takes its leaves after a class-H operation. -/
def State.leaves (s : State) (e : Env) (t : Tree) (fmt : Word) (runs : List LRun) : State :=
  let rs := runs.map (fun r => r.afterH s e (e.retAddr t))
  let calls := rs.filter (fun r => !r.wr.isEmpty)
  (s.commitLanes e calls).regroup e t.stall.toNat fmt rs

/-- Every lane of the group faults because some lane's source or leaf read faulted: each of those takes its own cause, the others that of the lowest (R85). -/
def State.allFault (s : State) (e : Env) (t : Tree) (runs : List LRun) : State :=
  match runs.findSome? (fun r => r.fault) with
  | none => s
  | some f =>
    s.regroup e t.stall.toNat e.g.fmt (runs.map (fun r => match r.fault with | some _ => r | none => { r with fault := some { f with lane := r.lane } }))

/-- The issue of a class-H instruction other than a lane exchange (R73, R85): its sources and its leaf's pair are read and checked, then the operation acts once for
the group. `f` is the operation: it is given the requests of the lanes. -/
def issueH (t : Tree) (s : State) (f : State → Env → List LRun → List MReq → HRes) : State :=
  match s.issuing t with
  | none => s
  | some e =>
    match e.blocked t with
    | some w => s.stallOn e.loc .stalled w
    | none =>
      let runs := e.runs s.draw t
      let s0 := s.drawn e
      if runs.any (fun r => r.fault.isSome) then (if s.disagree then s0.mismatch e else s0.allFault e t runs)
      else
        match f s0 e runs (runs.filterMap (·.req)) with
        | .commit s1 fmt => if s.disagree then s0.mismatch e else (s1.dropWalks e.core e.team.ctx).leaves e t fmt runs
        | .cause c d a => if s.disagree then s0.mismatch e else (s0.dropWalks e.core e.team.ctx).groupCause e t.stall.toNat c d a
        | .causeIn s1 c d a => if s.disagree then s0.mismatch e else (s1.dropWalks e.core e.team.ctx).groupCause e t.stall.toNat c d a
        | .wait st w => s0.stallOn e.loc st w
        | .hold s1 st w => s1.stallOn e.loc st w
        | .done s1 => if s.disagree then s0.mismatch e else s1

/-- Do all requests agree in an operand (R151, R188)? -/
def agree (l : List MReq) (f : MReq → Nat) : Bool := l.all (fun q => some (f q) == (l.head?).map f)

end Sys2Proof.Machine
end

