-- ==== Sys2Proof/Machine/AtomicOps.lean ====
section
/-!
DEFINITION. The meanings of atomics, compare-tag-and-swap, reductions and tile instructions (R135 to R149).
-/

namespace Sys2Proof.Machine

/-- ATMS (R135). Performs an atomic on the scratchpad. -/
def execAtms (h : Head) (p : Payload) (s : State) : Host.Outcome State Fault Refusal :=
  .next (issueTree (Tree.one .atms h p) s)

/-- ATMG (R135). Performs an atomic on device global memory at the home slice or the stack engine. -/
def execAtmg (h : Head) (p : Payload) (s : State) : Host.Outcome State Fault Refusal :=
  .next (issueTree (Tree.one .atmg h p) s)

/-- ATMR (R135). Performs an atomic on a remote module. -/
def execAtmr (h : Head) (p : Payload) (s : State) : Host.Outcome State Fault Refusal :=
  .next (issueTree (Tree.one .atmr h p) s)

/-- MCAS (R138). Changes a majority line only when its seq equals the expected value. -/
def execMcas (h : Head) (p : Payload) (s : State) : Host.Outcome State Fault Refusal :=
  .next (issueTree (Tree.one .mcas h p) s)

/-- SRED (R139). Reduces a range at the stack that holds it. -/
def execSred (h : Head) (p : Payload) (s : State) : Host.Outcome State Fault Refusal :=
  .next (issueTree (Tree.one .sred h p) s)

/-- SMV (R140). Posts y += W·x to a stack engine. -/
def execSmv (h : Head) (p : Payload) (s : State) : Host.Outcome State Fault Refusal :=
  .next (issueTree (Tree.one .smv h p) s)

/-- TFILL (R147). Fills a tile with zero, a constant or an identity and sets its directory entry. -/
def execTfill (h : Head) (p : Payload) (s : State) : Host.Outcome State Fault Refusal :=
  .next (issueTree (Tree.one .tfill h p) s)

/-- TCLS (R148). Scans a tile, sets its directory class and returns the entry. -/
def execTcls (h : Head) (p : Payload) (s : State) : Host.Outcome State Fault Refusal :=
  .next (issueTree (Tree.one .tcls h p) s)

/-- TQRY (R148). Returns a tile's current directory entry. -/
def execTqry (h : Head) (p : Payload) (s : State) : Host.Outcome State Fault Refusal :=
  .next (issueTree (Tree.one .tqry h p) s)

end Sys2Proof.Machine
end

