-- ==== Sys2Proof/Machine/Exchange.lean ====
section
/-!
DEFINITION. Lane exchanges and `bar.arr.m` (R111 to R113, R186): the arrivals of lanes, the failures that raise cause 0x08, and the operation in one step once every
participant has arrived.
-/

namespace Sys2Proof.Machine

/-! ## Results (R113) -/

/-- The source lane of `shfl` for lane `i`: by index, up, down, exclusive or. -/
def shflSource (v w b i : Nat) : Int :=
  match v with | 0 => ((b % w : Nat) : Int) | 1 => (i : Int) - (b : Int) | 2 => (i : Int) + (b : Int) | _ => ((i ^^^ b : Nat) : Int)

/-- `vote` (R113) over the participants' lanes and values. -/
def voteValue (v : Nat) (l : List (Nat × Nat)) : Nat :=
  match v with
  | 0 => b2n (l.all (fun x => x.2 % 2 ^ 32 != 0))
  | 1 => b2n (l.any (fun x => x.2 % 2 ^ 32 != 0))
  | 2 => l.foldl (fun n x => if x.2 % 2 ^ 32 != 0 then n + 2 ^ x.1 else n) 0
  | _ => b2n (l.all (fun x => some (x.2 % 2 ^ 32) == (l.head?).map (fun y => y.2 % 2 ^ 32)))

/-- `redux` (R113) on the participants' values under one `fmt`: what every D receives, or cause 0x16. -/
def reduxValue (p : Payload) (fmt : Word) (xs : List Nat) : ARes :=
  let op := p.b.toNat
  if p.v ≥ 4 then
    let fm := Fmt.of fmt; let f := tyFmt p.v
    let ys := xs.map (fun x => f.readZ fm.ftz (modF f false p.aa x))
    let (r, i) := match op, ys with
      | 0, _ => Num.sum fm.rm ys
      | 1, y :: t => (t.foldl (Num.minmaxNum false) y, false)
      | _, y :: t => (t.foldl (Num.minmaxNum true) y, false)
      | _, [] => (.nan, false)
    trapF fm (outF f p fm r (.ofInv i))
  else
    let n := tyBits p.v; let vs := xs.map (tyVal p.v); let bits := xs.map (fun x => x % 2 ^ n)
    .ok (match op, vs, bits with
      | 0, _, _ => wrapInt n (vs.foldl (· + ·) 0)
      | 1, v :: t, _ => wrapInt n (t.foldl min v)
      | 2, v :: t, _ => wrapInt n (t.foldl max v)
      | 3, _, b :: t => t.foldl (· &&& ·) b
      | 4, _, _ => bits.foldl (· ||| ·) 0
      | _, _, _ => bits.foldl (· ^^^ ·) 0)

/-- The operation of one mask over its participants' arrivals: the value of each lane, or the cause that every participant takes (R112, R113). DESIGN CHOICE, log entry 100. -/
def meetValue (w : Wave) (as : List Arrival) : Except Nat (List (Nat × Nat)) :=
  match as with
  | [] => .ok []
  | a0 :: _ =>
    let vals := as.map (fun a => (a.lane, a.a.toNat))
    let of (j : Nat) : Option Nat := (vals.find? (fun x => x.1 == j)).map (·.2)
    match a0.op with
    | .shfl => .ok (as.map (fun a =>
        let j := shflSource a0.p.v w.width (a.b.toNat % 2 ^ 32) a.lane
        (a.lane, if 0 ≤ j ∧ j < w.width then (of j.toNat).getD a.a.toNat else a.a.toNat)))
    | .vote => .ok (as.map (fun a => (a.lane, voteValue a0.p.v vals)))
    | .redux =>
      let low := as.foldl (fun (b : Arrival) a => if a.lane < b.lane then a else b) a0
      (match reduxValue a0.p (w.group low.slot).fmt (vals.map (·.2)) with
       | .ok v => .ok (as.map (fun a => (a.lane, v)))
       | .fault c _ => .error c)
    | .bcast =>
      (match of (a0.b.toNat % 2 ^ 32) with
       | some v => .ok (as.map (fun a => (a.lane, v)))
       | none => .error 0x08)
    | _ => .ok []

/-! ## Completion -/

/-- Is the operation of an arrival's mask complete: has every participant arrived at the same head with the same mask (R111)? DEDUCED, log entry 43. -/
def Wave.meetReady (w : Wave) (a : Arrival) : Bool :=
  (maskLanes w.width a.mask).all (fun i => (w.meetOf i).elim false (fun b => b.head == a.head && b.mask == a.mask))

/-- The run of a participant: its D is written, then its leaf is taken as its arrival read it (R84, R85, R111). -/
def Arrival.run (a : Arrival) (e : Env) (v : Option Nat) : LRun :=
  let r : LRun := { lane := a.lane, l := e.lane a.lane, sc := e.wave.s, leaf := some a.h.leaf, succ := if a.h.leaf.kind = .exit then none else some a.succ }
  let r1 := match v with
    | some x => r.write a.p.d.toNat (dWide (a.op.shape e.dc a.p).d) x false
    | none => r
  if a.h.leaf.kind = .call || a.h.leaf.kind = .callInd then r1.write 0xCE true (e.retAddr (Tree.one a.op a.h a.p)).toNat false else r1

/-- The participants in a slot go on with their values, in the group they came in; lanes of it whose own operation is not complete wait on (R111). DEDUCED, log entry 43. -/
def State.meetGo (s : State) (t w slot : Nat) (as : List Arrival) (vals : List (Nat × Nat)) : State :=
  match as.head?, s.env? { team := t, wave := w, slot := slot } ((as.head?).elim [] (fun a => a.h.lits)) with
  | some a0, some e0 =>
    let e := e0.completing
    let runs := as.map (fun a => a.run e ((vals.find? (fun x => x.1 == a.lane)).map (·.2)))
    ((s.commitLanes e runs).commitScalars e runs []).regroupAt e a0.h.stall.toNat e.g.fmt runs (e.g.mask &&& ~~~lanesMask (as.map (·.lane)))
  | _, _ => s

/-- The arrival of a `bar.arr.m` mask: one update of its barrier, with release order (R186, R189). -/
def State.meetArrive (s : State) (t w : Nat) (as : List Arrival) : State :=
  match as, s.wave? t w with
  | a0 :: _, some y => (s.releaseWave t w 1).modBar t y.half (a0.a.toNat % 2 ^ 32) (fun b => b.arrive as.length (a0.b.toNat % 2 ^ 32))
  | _, _ => s

/-- The operations that are complete, each in one step: lanes of a failing mask take its cause, the others go on (R111 to R113, R186). -/
def State.meetComplete (s : State) (t w : Nat) (as : List Arrival) : State :=
  match s.wave? t w with
  | none => s
  | some y =>
    let outs := ((as.map (·.mask)).eraseDups).map (fun m => let l := as.filter (fun a => a.mask = m); (l, meetValue y l))
    let fails := outs.flatMap (fun (l, r) => match r with | .error c => l.map (fun a => (a, c)) | .ok _ => [])
    let vals := outs.flatMap (fun (_, r) => match r with | .ok v => v | .error _ => [])
    let slots := (as.map (·.slot)).eraseDups
    let s1 := s.modWave t w (fun y => { y with meets := y.meets.filter (fun a => !as.any (fun b => b.lane == a.lane)) })
    let s2 := (outs.filter (fun (l, _) => l.any (fun a => a.op == .barArrM))).foldl (fun a (l, _) => a.meetArrive t w l) s1
    let s3 := slots.foldl (fun a k => a.splitPark t w k
      ((fails.filter (fun (x, _) => x.slot = k)).map (fun (x, c) => ({ cause := c, lane := x.lane, head := x.head.toNat } : LaneFault)))) s2
    slots.foldl (fun a k =>
      let mine := as.filter (fun x => x.slot = k && !(fails.any (fun f => f.1.lane == x.lane)))
      if mine.isEmpty then a else a.meetGo t w k mine vals) s3

/-- After arrivals of lanes of a wave: failures, then the operations that are complete are performed (R87, R111). -/
def State.meetCheck (s : State) (t w : Nat) (lanes : List Nat) : State :=
  let s1 := s.meetFailures t w lanes
  match s1.wave? t w with
  | none => s1
  | some y => let as := y.meets.filter y.meetReady; if as.isEmpty then s1 else s1.meetComplete t w as

/-! ## The issue of a lane exchange (R111) -/

/-- The own check of a lane at `bar.arr.m`: its barrier (R178, R186). -/
def ownCheck (e : Env) (k : Opcode) (q : MReq) : Option (Nat × Nat) :=
  if k = .barArrM then
    (if !inAlloc e q.a 16 then some (0x06, q.a) else if !barOk e q.a then some (0x05, q.a) else none)
  else none

/-- Do the lanes of the group with a lane's mask agree with it, so that its own check decides before the meeting does (R372)? -/
def sameMeet (qs : List MReq) (q : MReq) : Bool := qs.all (fun r => !(q.c == r.c) || (q.a == r.a && q.b == r.b))

/-- THE ISSUE OF A LANE EXCHANGE or `bar.arr.m` (R111, R186): lanes with a cause of their own are parked alone, the others arrive. -/
def issueMeet (t : Tree) (k : Opcode) (h : Head) (p : Payload) (s : State) : State :=
  match s.issuing t with
  | none => s
  | some e =>
    match e.blocked t with
    | some w => s.stallOn e.loc .stalled w
    | none =>
      let runs := e.runs s.draw t
      let s0 := s.drawn e
      let good := runs.filter (fun r => r.fault.isNone)
      let qs := good.filterMap (·.req)
      let runs1 := runs.map (fun r => match r.fault, r.req with
        | none, some q => (match if sameMeet qs q then ownCheck e k q else none with
            | some (c, a) => r.checked e (.fault c 0 a)
            | none => r)
        | _, _ => r)
      let bad := runs1.filterMap (fun r => r.fault)
      let here := runs1.filter (fun r => r.fault.isNone)
      if s.disagree then s0.mismatch e
      else if here.isEmpty then s0.regroup e t.stall.toNat e.g.fmt runs1
      else
        let as : List Arrival := here.filterMap (fun r => r.req.map (fun q =>
          { lane := r.lane, slot := e.loc.slot, head := e.head, op := k, h := h, p := p, mask := BitVec.ofNat 64 q.c, a := BitVec.ofNat 64 q.a
            b := BitVec.ofNat 64 q.b, succ := r.succ.getD 0 }))
        let s1 := (((s0.issued e).modGroup e.loc (fun g => { g with ready := e.stallTill s0 t.stall.toNat })).splitPark e.loc.team e.loc.wave e.loc.slot bad).modWave e.loc.team e.loc.wave (fun w =>
          { (w.modGroup e.loc.slot (fun g => { g.waitFor .meeting .meet with retried := false })) with
            meets := w.meets.filter (fun a => !(as.any (fun b => b.lane == a.lane))) ++ as })
        s1.meetCheck e.loc.team e.loc.wave (as.map (·.lane))

end Sys2Proof.Machine
end

