-- ==== Sys2Proof/Machine/Matrix.lean ====
section
/-!
DEFINITION. The matrix instructions at issue (R151 to R160, R168 to R174): seals, gangs and the latch, and the entries that they put into `qmat`.
-/

namespace Sys2Proof.Machine

/-! ## Class-H instructions that commit later -/

/-- What a waiting class-H instruction keeps of its issue. -/
def mkPend (e : Env) (k : Opcode) (h : Head) (p : Payload) (runs : List LRun) (id : Nat) (vals : List Nat) : HPend :=
  { slot := e.loc.slot, op := k, h := h, p := p, head := e.head, succ := runs.map (fun r => (r.lane, r.succ)), id := id, vals := vals }

/-- The run of a lane of a waiting instruction as it commits: its D takes a value, if there is one, and its leaf is taken as it was read (R84, R85). -/
def HPend.run (x : HPend) (e : Env) (v : Option Nat) (lane : Nat) : LRun :=
  let r : LRun := { lane := lane, l := e.lane lane, sc := e.wave.s, leaf := some x.h.leaf, succ := ((x.succ.find? (fun y => y.1 == lane)).map (·.2)).getD none }
  let r1 := match v with | some v => r.write x.p.d.toNat (dWide (x.op.shape e.dc x.p).d) v false | none => r
  if x.h.leaf.kind = .call || x.h.leaf.kind = .callInd then r1.write 0xCE true (e.retAddr (Tree.one x.op x.h x.p)).toNat false else r1

/-- A waiting class-H instruction commits: the group takes its leaf. -/
def State.pendGo (s : State) (t w : Nat) (x : HPend) (v : Option Nat) : State :=
  match s.env? { team := t, wave := w, slot := x.slot } x.h.lits with
  | none => s
  | some e0 =>
    let e := e0.completing
    let runs := e.lanes.map (fun i => x.run e v i)
    ((s.commitLanes e runs).commitScalars e runs []).regroupAt e x.h.stall.toNat e.g.fmt runs 0

/-- A waiting class-H instruction is no longer kept. -/
def State.dropPend (s : State) (t w id : Nat) : State := s.modWave t w (fun y => { y with hold := y.hold.filter (fun x => x.id != id) })

/-- A waiting class-H instruction ends in a cause of every lane, with nothing committed. -/
def State.pendCause (s : State) (t w : Nat) (x : HPend) (cause detail addr : Nat) : State :=
  s.takeCause { team := t, wave := w, slot := x.slot } cause detail addr x.head.toNat

/-- The wave and record of a waiting instruction by its number. -/
def State.pend? (s : State) (id : Nat) : Option (Nat × Nat × HPend) :=
  s.teams.findSome? (fun t => t.waves.findSome? (fun w => (w.hold.find? (fun x => x.id == id)).map (fun x => (t.id, w.idx, x))))

/-- The group waits for its own completion. -/
def State.pendOn (s : State) (e : Env) (x : HPend) (wt : Wait) : State :=
  ((s.issued e).modWave e.loc.team e.loc.wave (fun w => { w with hold := w.hold ++ [x] })).modGroup e.loc (fun g => { g.waitFor .stalled wt with retried := false })

/-! ## Seals (R153 to R155) -/

/-- The tensor of a record's 64 bytes (R153). -/
def Tensor.of (n : Nat) : Tensor :=
  { base := nbits n 0 64, scale := nbits n 64 64, rows := nbits n 128 32, cols := nbits n 160 32, stride := nbits n 192 32, fmt := nbits n 224 4
    mx := nbit n 228, trk := nbit n 229, tiled := nbit n 230, space := nbits n 231 2, cb := nbits n 233 3 }

/-- The bytes from its base that a tensor reaches. -/
def Tensor.extent (t : Tensor) : Nat :=
  if t.tiled then 8192 * ((t.rows + 31) / 32) * ((t.rowBytes + 255) / 256) else (t.rows - 1) * t.stride + t.rowBytes

/-- The status of a record (R154): the first failing row, or 0. DEDUCED, log entry 37. -/
def sealStatus (n scrSize : Nat) (twin : Bool) : Nat :=
  let t := Tensor.of n
  if nbits n 236 276 != 0 || t.fmt ≥ 0xC || t.space == 3 then 1
  else if t.mx && !(decide (3 ≤ t.fmt ∧ t.fmt ≤ 7) || t.fmt == 9) then 2
  else if t.base % 256 != 0 || (t.mx && t.scale % 16 != 0) || (if t.tiled then t.stride != 0 else t.stride % 16 != 0 || decide (t.stride < t.rowBytes)) then 3
  else if t.rows == 0 || t.cols == 0 || ((t.space == 1 || t.space == 2 && twin) && decide (t.base % 2 ^ 32 + t.extent > scrSize)) then 4
  else if t.trk && (t.space != 0 || !t.tiled) then 5
  else if t.space == 2 && !twin then 6
  else 0

/-- Have all entries of a context that were posted before a number completed (R155)? -/
def State.postedDone (s : State) (c n : Nat) : Bool :=
  (s.teams.filter (fun t => t.ctx == c)).all (fun t => t.halves.all (fun h =>
    (h.qidx ++ h.qbin ++ h.qwl ++ h.qstack ++ h.qmat).all (fun e => decide (e.seq ≥ n)) && h.ring.elim true (fun r => r.ents.all (fun e => decide (e.seq ≥ n)))))

/-- A free slot of a seal table takes a record (R155): one never used, else the one released first whose entries have completed. The handle, or none when the table is
full. DESIGN CHOICE, log entry 7. -/
def State.takeSeal (s : State) (c : Nat) (t : Tensor) : Option (Nat × State) :=
  let x := s.ctx c
  if x.seals.length < 65536 then
    some (2 ^ 24 + x.seals.length, s.modCtx c (fun x => { x with seals := x.seals ++ [{ gen := 1, tensor := some t }] }))
  else
    match x.released.find? (fun r => s.postedDone c r.2) with
    | none => none
    | some (i, n) =>
      some ((nth {} x.seals i).gen * 2 ^ 24 + i, s.modCtx c (fun x =>
        { x with seals := modNth x.seals i (fun y => { y with tensor := some t }), released := x.released.erase (i, n) }))

/-- `seal` at issue (R151, R154): the checks of its record's address, the absent page of the two before the malformed one (R372), then
its read is under way, after the wave's stores (R154, R179). -/
def sealIssue (k : Opcode) (h : Head) (p : Payload) (s : State) (e : Env) (runs : List LRun) (qs : List MReq) : HRes :=
  let a := (qs.head?).elim 0 (·.a)
  if !agree qs (·.a) then .cause 0x08 0 0
  else if p.v = 1 then
    if a % 16 != 0 || !inAlloc e a 64 then .cause 0x06 0 a
    else .done (({ s with nextId := s.nextId + 1 }.flushScr e.loc.team e.loc.wave).pendOn e (mkPend e k h p runs s.nextId [a]) (.sealRead s.nextId))
  else if a % 16 != 0 then .cause 0x05 0 a
  else
    match s.laneXlate e.core e.team.ctx a false, s.laneXlate e.core e.team.ctx (a + 63) false with
    | none, _ => .wait .stalled (.walk [vpn a, vpn (a + 63)])
    | _, none => .wait .stalled (.walk [vpn a, vpn (a + 63)])
    | some (.bad c1 d1), some (.bad c2 d2) => if c1 == 0x05 && c2 != 0x05 then .cause c2 d2 (a + 63) else .cause c1 d1 a
    | some (.bad c d), some (.ok _) => .cause c d a
    | some (.ok _), some (.bad c d) => .cause c d (a + 63)
    | some (.ok p1), some (.ok p2) =>
      if !plainKind p1 || !plainKind p2 then .cause 0x05 0 a
      else
        let s1 := { s with nextId := s.nextId + 1 }.releaseWave e.loc.team e.loc.wave 2
        .done (s1.pendOn e (mkPend e k h p runs s.nextId [a]) (.sealRead s.nextId))

/-- `hdrop` (R155). -/
def hdropIssue (s : State) (e : Env) (_ : List LRun) (qs : List MReq) : HRes :=
  let a := (qs.head?).elim 0 (·.a); let c := e.team.ctx
  if !agree qs (·.a) then .cause 0x08 0 0
  else
    match s.handle? c a with
    | none => .cause 0x0A 0 a
    | some _ =>
      .commit (s.modCtx c (fun x =>
        { x with seals := modNth x.seals (a % 2 ^ 24) (fun y => { gen := y.gen % 255 + 1, tensor := none }), released := x.released ++ [(a % 2 ^ 24, s.seqNo)] })) e.g.fmt

/-! ## `fmt` (R174) and `gang` (R158) -/

/-- `fmt` and `fmt.m` (R28, R174): a value that R28 does not admit raises cause 0x01 with reason 6. DEDUCED, log entry 34. -/
def fmtIssue (p : Payload) (s : State) (e : Env) (_ : List LRun) (qs : List MReq) : HRes :=
  let a : Word := BitVec.ofNat 32 ((qs.head?).elim 0 (·.a)); let b : Word := BitVec.ofNat 32 ((qs.head?).elim 0 (·.b))
  if !agree qs (·.a) || (p.v = 1 && !agree qs (·.b)) then .cause 0x08 0 0
  else
    let x := if p.v = 1 then (e.g.fmt &&& ~~~b) ||| (a &&& b) else a
    if fmtOk x then .commit s x else .cause 0x01 6 0

/-- The gang bits [41:0] of a payload: P[46:5] (R158). -/
def gangBits (p : Payload) : Nat := p.m.toNat + p.c.toNat * 2 ^ 10 + p.b.toNat * 2 ^ 18 + p.a.toNat * 2 ^ 26 + p.d.toNat * 2 ^ 34

/-- Is a wave number one of the team's waves on the core of a half, which has not left (R158)? -/
def Team.onHalf (t : Team) (h w : Nat) : Bool := match t.waves[w]? with | some x => x.half == h && !x.left | none => false

/-- `gang` (R158). -/
def gangIssue (p : Payload) (s : State) (e : Env) (_ : List LRun) (_ : List MReq) : HRes :=
  let n := p.v; let bits := gangBits p
  let l := (List.range n).map (fun i => nbits bits (7 * i) 7)
  if e.wave.latch.isSome then .cause 0x09 0 0
  else if n = 0 then .commit (s.modWave e.loc.team e.loc.wave (fun w => { w with gang := 0 })) e.g.fmt
  else
    match l.idxOf? e.wave.idx with
    | none => .cause 0x09 0 0
    | some pos =>
      if l.all (fun w => e.team.onHalf e.wave.half w) then
        .commit (s.modWave e.loc.team e.loc.wave (fun w => { w with gang := BitVec.ofNat 64 (bits + n * 2 ^ 42 + pos * 2 ^ 45) })) e.g.fmt
      else .cause 0x09 0 0

/-! ## The latch (R156, R157, R159) -/

/-- K of an operand pair (R156): columns that one entry consumes. -/
def kOf (mmx : Bool) (code : Nat) : Nat := if mmx then 128 else match code with | 1 => 128 | 2 => 128 | 9 => 128 | 7 => 512 | _ => 256

/-- The chunk of R49: the MACs per cell per cycle of R156. -/
def chunkOf (mmx : Bool) (code : Nat) : Nat := match kOf mmx code with | 128 => 4 | 256 => 8 | _ => 32

/-- Does a tensor serve as an operand at a coordinate (R157): its format is the code named, and its first row and column lie inside? -/
def operandFits (t : Tensor) (code rows k c : Nat) : Bool :=
  t.fmt == code && decide (rows * (c % 65536) < t.rows) && decide (k * (c / 65536 % 65536) < t.cols)

/-- All members of a list agree and their bands differ (R159). -/
def latchAgrees (ws : List (Wave × LatchArr)) : Bool :=
  match ws with
  | [] => false
  | (w0, a0) :: _ =>
    ws.all (fun (w, a) =>
      w.gang.toNat % 2 ^ 45 == w0.gang.toNat % 2 ^ 45 && a.pd.op == a0.pd.op && a.pd.p.v == a0.pd.p.v && a.pd.p.c == a0.pd.p.c && a.hb == a0.hb && a.cb == a0.cb) &&
    (ws.map (fun (_, a) => a.pd.p.band)).eraseDups.length == ws.length

/-- The latch examines the list of the wave that arrived (R159). -/
def State.latchExamine (s : State) (t w : Nat) : State :=
  match s.team? t, s.wave? t w with
  | some x, some y =>
    let l := gangList y.gang
    let pending := l.filterMap (fun i => (x.waves[i]?).bind (fun z => z.latch.map (fun a => (z, a))))
    if l.isEmpty || l.any (fun i => !x.onHalf y.half i) then s.latchFail t (if l.contains w then l else l ++ [w])
    else if pending.length < l.length then s
    else if latchAgrees pending then
      match pending with
      | [] => s
      | (_, a0) :: _ =>
        let ms : List Member := pending.map (fun (z, a) => { wave := z.idx, band := a.pd.p.band, ta := a.ta, ca := a.ca })
        let s1 := s.releaseTeam t
        let ent : Entry := { seq := s1.seqNo, half := y.half, wave := w, since := s1.nextId, work := .joint (a0.pd.op == .mmx) a0.pd.p.v a0.pd.p.c.toNat a0.tb a0.cb ms }
        let s2 := { s1.modHalf t y.half (fun h => { h with qmat := h.qmat ++ [ent] }) with seqNo := s1.seqNo + 1 }
        pending.foldl (fun a (z, m) => (a.modWave t z.idx (fun q => { q with latch := none })).pendGo t z.idx m.pd none) s2
    else s.latchFail t l
  | _, _ => s

/-- `mma` and `mmx` (R156, R157, R159): the checks of R155 and R157, then the arrival at the latch. -/
def mmaIssue (k : Opcode) (h : Head) (p : Payload) (s : State) (e : Env) (runs : List LRun) (qs : List MReq) : HRes :=
  match qs with
  | [] => .cause 0x09 0 0
  | q :: _ =>
    let ha := q.a % 2 ^ 32; let hb := q.a / 2 ^ 32 % 2 ^ 32; let ca := q.b % 2 ^ 32; let cb := q.b / 2 ^ 32 % 2 ^ 32
    let fa := p.c.toNat / 16; let fb := p.c.toNat % 16; let n := kOf (k == .mmx) fa
    match s.handle? e.team.ctx ha, s.handle? e.team.ctx hb with
    | some ta, some tb =>
      if !operandFits ta fa 32 n ca then .cause 0x0A 0 ha
      else if !operandFits tb fb 128 n cb then .cause 0x0A 0 hb
      else if e.wave.latch.isSome then .cause 0x09 0 0
      else
        let arr : LatchArr := { pd := mkPend e k h p runs 0 [], ha := ha, ta := ta, ca := ca, hb := hb, tb := tb, cb := cb }
        let s1 := ((s.issued e).modWave e.loc.team e.loc.wave (fun w => { w with latch := some arr })).modGroup e.loc (fun g => { g.waitFor .meeting .latch with retried := false })
        .done (s1.latchExamine e.loc.team e.loc.wave)
    | none, _ => .cause 0x0A 0 ha
    | _, none => .cause 0x0A 0 hb

/-! ## Band entries (R168 to R173) -/

/-- The numbers of the entries of a queue of a half, by the bit of R145. -/
def Half.seqs (h : Half) (q : Nat) : List Nat :=
  match q with
  | 0 => h.ring.elim [] (fun r => r.ents.map (·.seq))
  | 1 => h.qidx.map (·.seq)
  | 2 => h.qbin.map (·.seq)
  | 3 => h.qstack.map (·.seq)
  | 4 => h.qmat.map (·.seq)
  | _ => h.qwl.map (·.seq)

/-- May an entry of a queue begin (R145): no fence before it still waits for an entry of a queue that it names? -/
def Team.mayStart (t : Team) (q seq : Nat) : Bool :=
  t.fences.all (fun (m, set) => !(decide (m < seq) && nbit set q) ||
    (List.range 6).all (fun k => !nbit set k || t.halves.all (fun h => (h.seqs k).all (fun n => decide (n ≥ m)))))

/-- Change a band of a half. -/
def State.modBand (s : State) (t h b : Nat) (f : Band → Band) : State := s.modHalf t h (fun y => { y with bands := modNth y.bands b f })

/-- The value of `mmstat` (R171). -/
def Band.stat (b : Band) : Nat :=
  b2n b.nv + b2n b.of * 2 + b2n b.uf * 4 + b2n b.sus * 8 + b2n b.poi * 128 + b.elq * 2 ^ 32

/-- `mmz` and `mmstat` entries at the head of a `qmat` are performed as soon as they stand there (R152, R168, R171). -/
def State.matDrainN (t h : Nat) : Nat → State → State
  | 0, s => s
  | n + 1, s =>
    match s.team? t, s.half? t h with
    | some x, some y =>
      (match y.qmat with
       | [] => s
       | e :: l =>
         let pop (a : State) : State := State.matDrainN t h n (a.modHalf t h (fun y => { y with qmat := l }))
         if !x.mayStart 4 e.seq then s
         else
           match e.work with
           | .mmz b => pop (s.modBand t h b (fun _ => {}))
           | .mmstat b dest wave lanes => pop (lanes.foldl (fun a i => a.deliver t wave i false dest true (nth {} y.bands b).stat 0) s)
           | _ => s)
    | _, _ => s

/-- Perform the entries at the head of a `qmat` that need no fetch. DEDUCED, log entry 47. -/
def State.matDrain (s : State) (t h : Nat) : State := State.matDrainN t h ((s.half? t h).elim 0 (fun y => y.qmat.length)) s

/-- Put an entry into `qmat` (R152) after the team's writes are performed at device scope (R160). -/
def State.postMat (s : State) (e : Env) (w : Work) : State := (s.releaseTeam e.loc.team).post e w (fun h x => { h with qmat := h.qmat ++ [x] })

/-- Mark D empty in every lane of the group (R21). -/
def State.emptyD (s : State) (e : Env) (d : Nat) (wide : Bool) : State := e.lanes.foldl (fun a i => a.markEmpty e i d wide) s

/-- The bytes of an element of `mmld` and `mmst`. -/
def bandBytes (code : Nat) : Nat := codeBits code / 8

/-- The stride of `mmld` and `mmst` (R169): B, or 128 elements for the zero selector. -/
def rowStride (p : Payload) (q : MReq) : Nat := if p.b.toNat = 0xD2 then 128 * bandBytes (p.c.toNat % 16) else q.b

/-- The checks of `mmld` and `mmst` at issue (R151, R169): the cause of every lane, if there is one. -/
def rowsCheck (e : Env) (p : Payload) (qs : List MReq) : Option (Nat × Nat) :=
  match qs with
  | [] => none
  | q :: _ =>
    let st := rowStride p q; let n := 128 * bandBytes (p.c.toNat % 16)
    if !agree qs (·.a) || !agree qs (fun q => rowStride p q) then some (0x08, 0)
    else if p.v = 1 then (if q.a % 16 != 0 || st % 16 != 0 || !inAlloc e q.a (31 * st + n) then some (0x06, q.a) else none)
    else if q.a % 16 != 0 || st % 16 != 0 then some (0x05, q.a)
    else none

/-- `mmld` (R169). -/
def mmldIssue (p : Payload) (s : State) (e : Env) (_ : List LRun) (qs : List MReq) : HRes :=
  match rowsCheck e p qs, qs with
  | some (c, a), _ => .cause c 0 a
  | none, q :: _ =>
    .commit ((s.postMat e (.mmld p.band (p.c.toNat % 16) q.a (rowStride p q) p.d.toNat e.loc.wave (p.v == 1) e.lanes)).emptyD e p.d.toNat false) e.g.fmt
  | none, [] => .commit s e.g.fmt

/-- Is the suspect-trap enable of a context set (R214)? -/
def CtxSt.susTrap (c : CtxSt) : Bool := c.cflags.getLsbD 0

/-- `mmst` (R170, R172): it waits for earlier entries while suspect traps are enabled, and a pending trap of its band raises cause 0x0E and is cleared. -/
def mmstIssue (p : Payload) (s : State) (e : Env) (_ : List LRun) (qs : List MReq) : HRes :=
  match rowsCheck e p qs, qs with
  | some (c, a), _ => .cause c 0 a
  | none, [] => .commit s e.g.fmt
  | none, q :: _ =>
    if (s.ctx e.team.ctx).susTrap && !e.half.qmat.isEmpty then .wait .stalled .matrix
    else if (nth {} e.half.bands p.band).trap then
      .causeIn (s.modHalf e.loc.team e.wave.half (fun h => { h with bands := modNth h.bands p.band (fun b => { b with trap := false }) })) 0x0E 0 0
    else .commit (s.postMat e (.mmst p.band (p.c.toNat % 16) q.a (rowStride p q) e.loc.wave (p.v == 1) e.g.fmt)) e.g.fmt

/-- `mmz` (R168). -/
def mmzIssue (p : Payload) (s : State) (e : Env) (_ : List LRun) (_ : List MReq) : HRes := .commit ((s.postMat e (.mmz p.band)).matDrain e.loc.team e.wave.half) e.g.fmt

/-- `mmstat` (R171). -/
def mmstatIssue (p : Payload) (s : State) (e : Env) (_ : List LRun) (_ : List MReq) : HRes :=
  .commit (((s.postMat e (.mmstat p.band p.d.toNat e.loc.wave e.lanes)).emptyD e p.d.toNat true).matDrain e.loc.team e.wave.half) e.g.fmt

/-- `cbld` (R173): its checks are those of a load; its group waits for the entry. -/
def cbldIssue (k : Opcode) (h : Head) (p : Payload) (s : State) (e : Env) (runs : List LRun) (qs : List MReq) : HRes :=
  let a := (qs.head?).elim 0 (·.a); let scr := p.v == 1
  let go : HRes :=
    let s1 := { s with nextId := s.nextId + 1 }.postMat e (.cbld (p.c.toNat % 8) a e.loc.wave s.nextId scr)
    .done (s1.pendOn e (mkPend e k h p runs s.nextId []) (.cbld s.nextId))
  if !agree qs (·.a) then .cause 0x08 0 0
  else if scr then (if a % 32 != 0 || !inAlloc e a 32 then .cause 0x06 0 a else go)
  else if a % 32 != 0 then .cause 0x05 0 a
  else
    match s.laneXlate e.core e.team.ctx a false with
    | none => .wait .stalled (.walk [vpn a])
    | some (.bad c d) => .cause c d a
    | some (.ok pg) => if plainKind pg then go else .cause 0x05 0 a

end Sys2Proof.Machine
end

