-- ==== Sys2Proof/Machine/System.lean ====
section
/-!
DEFINITION. The barrier wait, the order instructions and the system instructions (R143 to R145, R188, R208 to R215).
-/

namespace Sys2Proof.Machine

/-- The value of an operand of the first lane. -/
def first (l : List MReq) (f : MReq → Nat) : Nat := (l.head?).elim 0 f

/-- Write D in every lane of the group, or a scalar once (R26). -/
def State.setD (s : State) (e : Env) (sel : Nat) (wide : Bool) (v : Nat) : State :=
  let runs := e.lanes.map (fun i => ({ lane := i, l := e.lane i, sc := e.scalars } : LRun).write sel wide v false)
  (s.commitLanes e runs).commitScalars e runs []

/-! ## `bar.wait` (R188, R189) -/

/-- `bar.wait` (R188): its checks, then the test; a return is an acquire at team scope (R189), and comes after
the wave's earlier acquires (R249). -/
def barWaitIssue (p : Payload) (s0 : State) (e : Env) (_ : List LRun) (qs : List MReq) : HRes :=
  let a := first qs (·.a); let ph : Word := BitVec.ofNat 32 (first qs (·.b)); let h := e.wave.half
  if !agree qs (·.a) || !agree qs (·.b) then .cause 0x08 0 0
  else if !inAlloc e a 16 then .cause 0x06 0 a
  else if !barOk e a then .cause 0x05 0 a
  else if !(s0.acqOpen e).isEmpty then .wait .stalled (.flights (s0.acqOpen e))
  else
    let s := s0.flushScr e.loc.team e.loc.wave
    match s.half? e.loc.team h with
    | none => .commit s e.g.fmt
    | some x =>
      let b := Bar.read x.scr a
      if b.ovr then .cause 0x0B 0 0
      else if b.awake ph then
        let s1 := if e.team.twin then s.acquireL1 e.core else s
        .commit (if p.v = 1 then s1.setD e p.d.toNat false b.phase else s1) e.g.fmt
      else .done (s.stallOn e.loc .asleep (.sleep h a ph))

/-! ## Orders (R143 to R145, R244) -/

/-- `phase.rel` (R143): the group is not ready until its earlier stores and atomics are performed at the scope, and the acquires before it
(R249). -/
def phaseRelIssue (p : Payload) (s : State) (e : Env) (_ : List LRun) (_ : List MReq) : HRes :=
  let s1 := s.releaseWave e.loc.team e.loc.wave p.v
  let l := s1.unanswered e.loc.team e.loc.wave p.v ++ s1.acqOpen e
  if l.isEmpty then .commit s1 e.g.fmt else .hold s1 .stalled (.flights l)

/-- An `lds` result reaches its register (R26, R128). -/
def State.ldsDone (s : State) (t : Nat) (p : LdsPend) : State :=
  let s1 := s.modTeam t (fun x => { x with lds := x.lds.filter (fun q => q.id != p.id || q.dest != p.dest) })
  let lk : State → State := fun a => a.wakeTeam t (fun w => w == .lock)
  lk (s1.modWave t p.wave (fun w =>
    if p.dest ≥ 0xE0 then
      (match p.vals with
       | (_, v) :: _ =>
         if p.fromHandler then { w with handler := w.handler.map (fun h => { h with s := setScalar h.s (p.dest - 0xE0) false v.toNat }) }
         else { w with s := setScalar w.s (p.dest - 0xE0) false v.toNat }
       | [] => w)
    else p.vals.foldl (fun w (i, v) => w.modLane p.fromHandler i (fun l => l.write p.dest false v.toNat)) w))

/-- `phase.acq` (R143, R244): the loads of the wave complete, then what may be older leaves the core's L1. -/
def phaseAcqIssue (p : Payload) (s : State) (e : Env) (_ : List LRun) (_ : List MReq) : HRes :=
  let t := e.loc.team; let w := e.loc.wave
  let s1 := s.completeLoads t w true
  let s2 := (e.team.lds.filter (fun p => p.wave == w && !p.fromHandler)).foldl (fun a p => a.ldsDone t p) s1
  let l := s2.openLoads t w ++ s2.acqOpen e
  if !l.isEmpty then .hold s2 .stalled (.flights l)
  else .commit (if p.v ≥ 2 || (p.v = 1 && e.team.twin) then s2.acquireL1 e.core else s2) e.g.fmt

/-- `publish` (R144, R311): the team's writes to the host are performed, and those of its entries that were released from staging; the read buffer gives up the lines that the launch has written, and one FetchAdd is sent, or
staged in a replayable launch. DEDUCED, log entry 42. -/
def publishIssue (k : Opcode) (h : Head) (p : Payload) (s : State) (e : Env) (runs : List LRun) (qs : List MReq) : HRes :=
  let a := first qs (·.a)
  if !agree qs (·.a) then .cause 0x08 0 0
  else if a % 8 != 0 then .cause 0x05 0 a
  else if !s.atomEn.contains (s.ctx e.team.ctx).fn then .cause 0x05 1 a
  else
    let s1 := s.releaseTeam e.loc.team
    let (s2, done) := s1.stage e.team.serial { space := .host, addr := a, size := 8, data := 0, count := true, team := e.loc.team, wave := e.loc.wave, core := e.core, head := e.head.toNat }
    if done then .commit s2 e.g.fmt
    else if !(s2.unpublished e.loc.team).isEmpty then .hold s2 .stalled (.flights (s2.unpublished e.loc.team))
    else
      let wrote := (s2.launch? e.team.serial).elim [] (·.wrote)
      let s3 := { s2 with readBuf := s2.readBuf.filter (fun b => !wrote.contains b.line), hostAdds := s2.hostAdds ++ [(s2.nextId, a)], nextId := s2.nextId + 1 }
      .done (s3.pendOn e (mkPend e k h p runs s2.nextId [a]) (.fetchAdd s2.nextId))

/-- `qfence` (R145). -/
def qfenceIssue (p : Payload) (s : State) (e : Env) (_ : List LRun) (_ : List MReq) : HRes :=
  .commit ({ s with seqNo := s.seqNo + 1 }.modTeam e.loc.team (fun t => { t with fences := t.fences ++ [(s.seqNo, p.c.toNat % 64)] })) e.g.fmt

/-! ## Traps and regions (R208, R209) -/

/-- `trap n` (R208). -/
def trapIssue (p : Payload) (_ : State) (_ : Env) (_ : List LRun) (_ : List MReq) : HRes := .cause 0x10 p.c.toNat 0

/-- `bkpt n` (R208, R235): with a debugger attached the team stops, and the breaking group is FROZEN at the head. -/
def bkptIssue (p : Payload) (s : State) (e : Env) (_ : List LRun) (_ : List MReq) : HRes :=
  if (s.ctx e.team.ctx).dbg then
    .done ((((s.issued e).modGroup e.loc (fun g => { g with breaking := true, retried := false }))).freezeTeam e.loc.team)
  else .cause 0x0F p.c.toNat 0

/-- `nopre` (R209). -/
def nopreIssue (s : State) (e : Env) (_ : List LRun) (_ : List MReq) : HRes :=
  if e.wave.depth ≥ 15 then .cause 0x05 0 0
  else .commit (s.modWave e.loc.team e.loc.wave (fun w => { w with depth := w.depth + 1, regionAt := if w.depth = 0 then s.ns else w.regionAt })) e.g.fmt

/-- `pre` (R209). -/
def preIssue (s : State) (e : Env) (_ : List LRun) (_ : List MReq) : HRes :=
  .commit (s.modWave e.loc.team e.loc.wave (fun w => { w with depth := w.depth - 1 })) e.g.fmt

/-! ## Special registers (R32, R210, R214) -/

/-- The capability class (R210). -/
def capClass : Nat := 0x00040001

/-- `capq` (R210): capability class, stepping, instance. -/
def capqIssue (p : Payload) (s : State) (e : Env) (_ : List LRun) (_ : List MReq) : HRes :=
  .commit (s.setD e p.d.toNat true (capClass + Config.stepping.toNat * 2 ^ 32 + Config.instanceId.toNat * 2 ^ 48)) e.g.fmt

/-- Is a register of the table 64 bits wide (R32, R214)? -/
def sregWide (c : Nat) : Bool := [0x0D, 0x0E, 0x0F, 0x11, 0x12, 0x13, 0x19, 0x1A].contains c

/-- The wave's trapped group (R211). -/
def Wave.trapped (w : Wave) : Group := (w.trapQ.head?).elim {} w.group

/-- The value of a special register (R32, R214). -/
def State.sreg (s : State) (e : Env) (c : Nat) : Nat :=
  let t := e.team; let core := s.core e.core; let tr := e.wave.trapped
  match c with
  | 0x00 => if e.loc.handler then 0 else e.g.low
  | 0x01 => e.wave.idx
  | 0x02 => t.xyz.1
  | 0x03 => t.xyz.2.1
  | 0x04 => t.xyz.2.2
  | 0x05 => t.grid.1
  | 0x06 => t.grid.2.1
  | 0x07 => t.grid.2.2
  | 0x08 => t.teamsz
  | 0x09 => e.core
  | 0x0A => e.core / 24
  | 0x0B => t.serial % 2 ^ 32
  | 0x0C => t.ctx
  | 0x0D => s.clock.toNat
  | 0x0E => core.lreq.toNat
  | 0x0F => core.rreq.toNat
  | 0x10 => e.g.fmt.toNat
  | 0x11 => e.wave.gang.toNat
  | 0x12 => s.ctxField t.ctx 384 64
  | 0x13 => s.ctxField t.ctx 448 64
  | 0x18 => tr.firstCause.1
  | 0x19 => tr.mask.toNat
  | 0x1A => tr.pc.toNat
  | 0x1B => tr.firstCause.2
  | _ => (s.ctx t.ctx).cflags.toNat

/-- May the registers of the handler be reached (R214)? -/
def trapReg (c : Nat) : Bool := decide (0x18 ≤ c ∧ c ≤ 0x1B)

/-- `sread` (R214). -/
def sreadIssue (p : Payload) (s : State) (e : Env) (_ : List LRun) (_ : List MReq) : HRes :=
  let c := p.c.toNat
  if trapReg c && !e.loc.handler then .cause 0x05 0 0 else .commit (s.setD e p.d.toNat (sregWide c) (s.sreg e c)) e.g.fmt

/-- `swrite` (R214). DEDUCED, log entry 34. -/
def swriteIssue (p : Payload) (s : State) (e : Env) (_ : List LRun) (qs : List MReq) : HRes :=
  let v := first qs (·.a); let c := e.team.ctx
  if !agree qs (·.a) then .cause 0x08 0 0
  else
    match p.c.toNat with
    | 0x12 => .commit (s.setCtxField c 384 64 v) e.g.fmt
    | 0x13 => .commit (s.setCtxField c 448 64 v) e.g.fmt
    | _ =>
      if !e.loc.handler || s.ctxField c 864 8 % 2 = 0 then .cause 0x05 0 0
      else .commit (s.modCtx c (fun x => { x with cflags := BitVec.ofNat 32 (v % 16) })) e.g.fmt

/-! ## The handler's instructions (R212, R213) -/

/-- The mask of an `eret` (R213): a pair in 64-lane waves. -/
def eretMask (e : Env) (v : Nat) : DWord := BitVec.ofNat 64 (if e.wave.width = 64 then v else v % 2 ^ 32)

/-- `eret` (R213). -/
def eretIssue (p : Payload) (s : State) (e : Env) (_ : List LRun) (qs : List MReq) : HRes :=
  if !e.loc.handler then .cause 0x05 0 0
  else
    let m := eretMask e (first qs (·.a))
    let target := if p.b.toNat = 0xD2 then none else some (BitVec.ofNat 64 (first qs (·.b)))
    let s1 := s.eretOp e.loc.team e.loc.wave m target e.head
    if e.wave.trapped.mask &&& ~~~m = 0 then .done (s1.issued e) else .commit s1 e.g.fmt

/-- `eret.exit` (R87, R213). -/
def eretExitIssue (s : State) (e : Env) (_ : List LRun) (qs : List MReq) : HRes :=
  if !e.loc.handler then .cause 0x05 0 0
  else
    let m := eretMask e (first qs (·.a))
    let s1 := s.eretExitOp e.loc.team e.loc.wave m
    if e.wave.trapped.mask &&& ~~~m = 0 then .done ((s1.issued e).afterExit e.loc.team e.loc.wave)
    else .commit (s1.afterExit e.loc.team e.loc.wave) e.g.fmt

/-- A lane of the wave as `lget` and `lset` see it. -/
def Env.laneRun (e : Env) (i : Nat) : LRun := { lane := i, l := nth {} e.wave.lanes i, sc := e.wave.s }

/-- The surroundings of the wave itself, from its handler fragment. -/
def Env.outer (e : Env) : Env := { e with loc := { e.loc with handler := false } }

/-- Word `i` of a lane's fault record (R95, R212, R276): it stands with the group that holds the lane, trapped, queued behind the trapped group or parked. -/
def Env.recWord (e : Env) (lane i : Nat) : Nat :=
  match e.wave.slots.findSome? (fun g => if g.st = .free then none else g.recs.find? (fun r => r.lane == lane)) with
  | none => 0
  | some r =>
    match ({ recs := [r] } : Group).frecs e.core e.wave.idx e.team.serial 0 0 id with
    | x :: _ => leNat (((x.bytes 0).drop (4 * i)).take 4)
    | [] => 0

/-- `lget` (R212). DEDUCED, log entry 35. -/
def lgetIssue (p : Payload) (s : State) (e : Env) (_ : List LRun) (qs : List MReq) : HRes :=
  let lane := first qs (·.a); let sel := p.c.toNat; let o := e.outer
  if !e.loc.handler then .cause 0x05 0 0
  else if lane ≥ e.wave.width && !(decide (p.v < 3) && decide (sel ≥ 0xE0)) then .cause 0x05 0 0
  else
    let r := e.laneRun lane
    let reg := r.l.reg sel
    let v := match p.v with
      | 0 => (o.word s.draw r sel).toNat
      | 1 => (o.word s.draw r sel).toNat + (if sel = 0xD2 || sel = 0xD3 then 0 else (o.word s.draw r (sel + 1)).toNat * 2 ^ 32)
      | 2 => if sel < 0xC0 then b2n (!reg.empty) + reg.mark.toNat * 2 ^ 8 else 1
      | _ => e.recWord lane sel
    .commit (s.setD e p.d.toNat (p.v == 1) v) e.g.fmt

/-- `lset` (R212): a write to an empty register waits (R23). DEDUCED, log entry 35. -/
def lsetIssue (p : Payload) (s : State) (e : Env) (_ : List LRun) (qs : List MReq) : HRes :=
  let lane := first qs (·.b); let sel := p.c.toNat; let wide := p.v == 1; let o := e.outer
  if !e.loc.handler then .cause 0x05 0 0
  else if lane ≥ e.wave.width && sel < 0xE0 then .cause 0x05 0 0
  else
    let r := e.laneRun lane
    let open_ := (Tree.selRegs wide sel).filter (fun i => i < 0xC0 && (r.l.reg i).empty)
    if !open_.isEmpty then .wait .stalled (.laneRegs (open_.map (fun i => (lane, i))))
    else
      let r1 := r.write sel wide (first qs (·.a)) false
      .commit ((s.commitLanes o [r1]).commitScalars o [r1] []) e.g.fmt

/-- `yield` (R215): the groups of the issuing lanes are not chosen for 64 issue cycles while others are ready. -/
def yieldIssue (t : Tree) (s : State) (e : Env) (runs : List LRun) (_ : List MReq) : HRes :=
  let till := e.cyc + e.cycles + 64
  let mark (g : Group) : Group := if g.st != .free && g.mask &&& e.g.mask != 0 then { g with yieldTill := till } else g
  let s1 := s.leaves e t e.g.fmt runs
  .done (if e.loc.handler then s1.modGroup e.loc (fun g => { g with yieldTill := till })
    else s1.modWave e.loc.team e.loc.wave (fun w => { w with slots := w.slots.map mark }))

end Sys2Proof.Machine
end

