-- ==== Sys2Proof/Machine/BarrierOps.lean ====
section
/-!
DEFINITION. The meanings of barriers and watches (R184 to R190).
-/

namespace Sys2Proof.Machine

/-- BAR_INIT (R185). Initialises a barrier and disarms its watch. -/
def execBarInit (h : Head) (p : Payload) (s : State) : Host.Outcome State Fault Refusal :=
  .next (issueTree (Tree.one .barInit h p) s)

/-- BAR_ARR (R186). Makes one arrival for the committing lanes and declares bytes. -/
def execBarArr (h : Head) (p : Payload) (s : State) : Host.Outcome State Fault Refusal :=
  .next (issueTree (Tree.one .barArr h p) s)

/-- BAR_ARR_M (R186). Makes one wave-scope arrival once every participant named by the mask has arrived. -/
def execBarArrM (h : Head) (p : Payload) (s : State) : Host.Outcome State Fault Refusal :=
  .next (issueMeet (Tree.one .barArrM h p) .barArrM h p s)

/-- BAR_EXP (R187). Adds expected bytes to a barrier without arriving. -/
def execBarExp (h : Head) (p : Payload) (s : State) : Host.Outcome State Fault Refusal :=
  .next (issueTree (Tree.one .barExp h p) s)

/-- WATCH_A (R190). Arms a barrier watch on up to four device addresses. -/
def execWatchA (h : Head) (p : Payload) (s : State) : Host.Outcome State Fault Refusal :=
  .next (issueTree (Tree.one .watchA h p) s)

/-- WATCH_C (R190). Arms a barrier watch on a counter reaching a target. -/
def execWatchC (h : Head) (p : Payload) (s : State) : Host.Outcome State Fault Refusal :=
  .next (issueTree (Tree.one .watchC h p) s)

/-- BAR_WAIT (R188). Returns when the barrier phase is past ph, traps on OVR, or sleeps. -/
def execBarWait (h : Head) (p : Payload) (s : State) : Host.Outcome State Fault Refusal :=
  .next (issueH (Tree.one .barWait h p) s (barWaitIssue p))

end Sys2Proof.Machine
end

