-- ==== Sys2Proof/Machine/Engines.lean ====
section
/-!
DEFINITION. The copy, index, binning and work-list engines of a core and the stack engines (R139 to R142, R176 to R207, R250 to R260, R373): what each does at one turn.
-/

namespace Sys2Proof.Machine

/-- A failure that an engine meets: its cause, DETAIL and address (R276). -/
abbrev EErr := Nat × Nat × Nat

/-! ## Reads and writes of an engine -/

/-- A range cut at the boundaries of lines: address and length. -/
def pieces (a n : Nat) : List (Nat × Nat) :=
  if n = 0 then []
  else (List.range (lineOf (a + n - 1) - lineOf a + 1)).map (fun i =>
    let l := lineOf a + i
    (max a (128 * l), min (a + n) (128 * l + 128) - max a (128 * l)))

/-- The page of an engine's access, which holds a majority mapping or not as its space asks (R130, R131). -/
def State.engPage (s : State) (c va : Nat) (wr maj : Bool) : Except EErr Page :=
  match s.xlate c va wr with
  | .bad k d => .error (k, d, va)
  | .ok p => if (p.kind == 3) == maj then .ok p else .error (0x05, b2n wr + 4, va)

/-- Read `n` bytes at a virtual address. -/
def State.engGet (s : State) (c va n : Nat) (maj : Bool) : Except EErr (Nat × State) :=
  (pieces va n).foldl (fun r (a, k) => do
    let (v, s1) ← r
    let p ← s1.engPage c a false maj
    match s1.homeRead p (p.phys a) k with
    | .ok (x, s2) => pure (v + x * 256 ^ (a - va), s2)
    | .error e => throw (e, 0, a)) (.ok (0, s))

/-- Write bytes at a virtual address, once every page of the range has been checked; `poi` leaves the lines poisoned. -/
def State.engPut (s : State) (c serial writer va : Nat) (bs : List Byte) (maj poi : Bool) : Except EErr State := do
  let l := pieces va bs.length
  l.forM (fun (a, _) => do let _ ← s.engPage c a true maj)
  l.foldl (fun r (a, k) => do
    let s1 ← r
    let p ← s1.engPage c a true maj
    let d := (bs.drop (a - va)).take k
    if poi && !maj && s1.up p (p.phys a) && !s1.partPoison (p.phys a) k then pure (s1.devWrite serial (p.phys a) d true)
    else
      match s1.homeWrite serial writer p (p.phys a) d with
      | (s2, 0) => pure s2
      | (_, e) => throw (e, 0, a)) (.ok s)

/-- The writer id of a core's copy engine, and of its other engines (R179, R299). -/
def copyWriter (core : Nat) : Nat := 0x800 + core
/-- The writer id of a core's other engines. -/
def engWriter (core : Nat) : Nat := 0x900 + core

/-! ## Accesses on behalf of a team (R170, R179, R243, R246, R247) -/

/-- Who made an engine entry: the wave, and the number of the next transaction at its issue (R246). -/
structure Poster where
  wave : Nat
  since : Nat
  deriving DecidableEq, Repr

/-- Who made an entry. -/
def Entry.poster (e : Entry) : Poster := ⟨e.wave, e.since⟩
/-- Who made an entry of an active queue. -/
def QSlot.poster (x : QSlot) : Poster := ⟨x.wave, x.since⟩

/-- Drop the lines of a range from the L1 of a team's cores: what their waves load afterwards comes from the home (R243, R247). -/
def State.teamEvict (s : State) (t : Team) (pa n : Nat) : State := t.halves.foldl (fun a h => a.evictRange h.core pa n) s

/-- Read `n` bytes at a virtual address for a team's entry: what its waves have stored is read too (R179). -/
def State.teamGet (s : State) (t : Team) (va n : Nat) (maj : Bool) : Except EErr (Nat × State) :=
  (if maj then s else (pieces va n).foldl (fun a (x, k) => match a.engPage t.ctx x false false with
    | .ok p => a.teamEvict t (p.phys x) k
    | .error _ => a) s).engGet t.ctx va n maj

/-- Write bytes at a virtual address for a team's entry: after the loads that its wave made before it (R246), as a store of the team (R170, R247). -/
def State.teamPut (s : State) (t : Team) (m : Poster) (writer va : Nat) (bs : List Byte) (maj poi : Bool) : Except EErr State :=
  ((pieces va bs.length).foldl (fun a (x, k) => match a.engPage t.ctx x true maj with
    | .ok p => (a.settleLoads t.id m.wave m.since (if maj then .majority else .global) 0 (p.phys x) k).teamEvict t (p.phys x) k
    | .error _ => a) s).engPut t.ctx t.serial writer va bs maj poi

/-- Write bytes of a half's scratchpad for a team's entry: after the loads of them that its wave made before it (R246). -/
def State.teamScr (s : State) (t : Team) (m : Poster) (h off : Nat) (bs : List Byte) : State :=
  (s.settleLoads t.id m.wave m.since .twin h off bs.length).scrWrite t.id h off bs

/-- Add 1 to a counter (R179, R191): an atomic add on its 8 bytes. -/
def State.counterAdd (s : State) (t : Team) (m : Poster) (writer va : Nat) : Except EErr State := do
  let (v, s1) ← s.teamGet t va 8 false
  s1.teamPut t m writer va (leBytes 8 (v + 1)) false false

/-! ## Fault records of engines (R127, R276) -/

/-- The record of an engine entry: SRC 1, with the index of its queue. -/
def engRec (t : Team) (h wave que : Nat) (e : EErr) : FRec :=
  { cause := e.1, detail := e.2.1, lane := 0, src := 1, addr := e.2.2, head := 0, core := (nth { core := 0 } t.halves h).core, wave := wave, que := que, serial := t.serial }

/-- Write the record of a failure, with the count of R127 and `lost` more; none while the fault queue has no room. DEDUCED, log entry 39. -/
def State.engReport (s : State) (t : Team) (h wave que lost : Nat) (e : EErr) : Option State :=
  if s.fqRoom t.ctx then some ((s.writeRec t.ctx (engRec t h wave que e)).addAerr t.ctx (1 + lost)) else none

/-- Write the record of a failure that is not a translation fault; none while the fault queue has no room. Poison in a replayable launch leads to rollback instead (R274); a
majority loss is logged (R321). DEDUCED, log entry 39. -/
def State.engFail (s0 : State) (t : Team) (h wave que lost : Nat) (e : EErr) : Option State :=
  let s := if e.1 = 0x12 then s0.logLoss 0 t.serial (nth { core := 0 } t.halves h).core 0x12 else s0
  if e.1 = 0x0C && s.replaying t.serial then some (s.meetFatal t.serial 0x0C 0) else s.engReport t h wave que lost e

/-- Can the end of a failed entry be recorded now, or does its launch roll back (R274, R276)? -/
def State.canFail (s : State) (t : Team) (e : EErr) : Bool := (e.1 == 0x0C && s.replaying t.serial) || s.fqRoom t.ctx

/-- Write the record of a translation fault that holds an entry (R195); none while the fault queue has no room. -/
def State.engHold (s : State) (t : Team) (h wave que : Nat) (e : EErr) : Option State :=
  if s.fqRoom t.ctx then some (s.writeRec t.ctx (engRec t h wave que e)) else none

/-! ## Turns (R145, R250) -/

/-- The team that an engine of a core serves next (R250): round-robin in admission order among the teams whose half on the core satisfies a test. -/
def State.nextTeam (s : State) (core k : Nat) (p : Team → Half → Bool) : Option (Team × Nat) :=
  let last := nth 0 (s.core core).rr k
  let l := s.teams.flatMap (fun t =>
    match t.place with
    | .saved _ => []
    | _ => (t.halves.zipIdx.filter (fun (h, _) => h.core == core && p t h)).map (fun (_, i) => (t, i)))
  let best (l : List (Team × Nat)) : Option (Team × Nat) :=
    l.foldl (fun b x => match b with | none => some x | some y => if x.1.admitted < y.1.admitted then some x else b) none
  (best (l.filter (fun x => x.1.admitted > last))).orElse (fun _ => best l)

/-- The engine has served a team. -/
def State.served! (s : State) (core k : Nat) (t : Team) : State := s.modCore core (fun c => { c with rr := c.rr.set k t.admitted })

/-- After a queue has moved: matrix entries that need no fetch are performed, the groups that wait for room or for entries are looked at again, and a team that
is done leaves (R87, R145, R178, R220). -/
def State.moved (s : State) (t : Nat) : State :=
  (((List.range ((s.team? t).elim 0 (fun x => x.halves.length))).foldl (fun a h => a.matDrain t h) s).wakeTeam t (fun w => w == .room || w == .matrix)).teamLeave t

/-! ## The copy engine (R192 to R196, R250 to R253) -/

/-- One side of a line of a copy: its space code, address and length. -/
structure Side where
  sp : Nat
  addr : Nat
  len : Nat
  deriving DecidableEq, Repr

/-- The part of a source line of number `p` in a run of `n` bytes from `a`: offset and length; none beyond the run (R194). -/
def linePart (a n p : Nat) : Option (Nat × Nat) :=
  let l := lineOf a + p; let lo := max a (128 * l); let hi := min (a + n) (128 * l + 128)
  if lo < hi then some (lo - a, hi - lo) else none

/-- The row of a 2-D copy that holds line `p`, and the line within the row (R194). -/
def Copy.rowOf (c : Copy) : Nat → Nat → Nat → Option (Nat × Nat)
  | 0, _, _ => none
  | n + 1, r, p =>
    let a := c.src + r * c.sstr; let k := lineOf (a + c.len % 65536 - 1) - lineOf a + 1
    if p < k then some (r, p) else c.rowOf n (r + 1) (p - k)

/-- Half a row of a tensor's tile at a coordinate (R153, R193): none outside the tensor. -/
def Tensor.tileLine (t : Tensor) (crd p : Nat) : Option Side :=
  let r := 32 * (crd % 65536) + p / 2; let x := 256 * (crd / 65536 % 65536) + 128 * (p % 2)
  if r < t.rows && x < t.rowBytes then
    some ⟨t.cpySpace, if t.space = 0 then t.byteAddr r x else t.byteAddr r x % 2 ^ 32, min 128 (t.rowBytes - x)⟩
  else none

/-- Line `p` of an entry (R194): its source, its destination, and the bytes that it credits; none beyond the last. -/
def copyLine (x : QSlot) (p : Nat) : Option (Option Side × Option Side × Nat) :=
  let c := Copy.of x.val
  match c.form with
  | 0 => (linePart c.src c.len p).map (fun (o, n) => (some ⟨c.ssp, (c.src + o) % 2 ^ 64, n⟩, some ⟨c.dsp, (c.dst + o) % 2 ^ 64, n⟩, n))
  | 1 =>
    (c.rowOf (c.len / 65536) 0 p).bind (fun (r, q) =>
      let a := c.src + r * c.sstr; let b := c.dst + r * c.dstr
      (linePart a (c.len % 65536) q).map (fun (o, n) => (some ⟨c.ssp, (a + o) % 2 ^ 64, n⟩, some ⟨c.dsp, (b + o) % 2 ^ 64, n⟩, n)))
  | _ => if p < 64 then some (x.src.tileLine (c.src / 2 ^ 32) p, x.dst.tileLine (c.dst / 2 ^ 32) p, 128) else none

/-- The outcome of one side's access: a value and state, a failure, or a wait for another module. -/
inductive Side.Res where
  | ok (v : Nat) (s : State)
  | fail (e : EErr)
  | waits (s : State)
  deriving DecidableEq, Repr

/-- The transaction that a team's copy engine has under way with another module. -/
def State.engFlight (s : State) (t h : Nat) (k : FKind) : Option Flight := s.flights.find? (fun f => f.eng && f.team == t && f.half == h && f.kind == k)

/-- Send a transaction of a copy engine to another module. -/
def State.engSend (s : State) (t : Team) (h : Nat) (m : Poster) (k : FKind) (x : Side) (data : Nat) : State :=
  let f : Flight := { id := s.nextId, team := t.id, wave := m.wave, lane := 0, core := (nth { core := 0 } t.halves h).core, ctx := t.ctx, serial := t.serial, kind := k
                      space := .remote, va := x.addr, pa := x.addr, size := x.len, data := data, half := h, eng := true }
  { s with flights := s.flights ++ [f], nextId := s.nextId + 1 }.sendFlight f

/-- Read the source of a line. -/
def State.sideRead (s : State) (t : Team) (h : Nat) (m : Poster) (x : Option Side) : Side.Res :=
  match x with
  | none => .ok 0 s
  | some x =>
    let hold (i : Nat) : Side.Res := .ok (((nth { core := 0 } t.halves i).scr).nat x.addr x.len) s
    match x.sp with
    | 0 => hold h
    | 1 => hold (1 - h)
    | 2 | 3 => (match s.teamGet t x.addr x.len (x.sp == 3) with | .ok (v, s1) => .ok v s1 | .error e => .fail e)
    | 4 =>
      (match s.engFlight t.id h .load with
       | none => .waits (s.engSend t h m .load x 0)
       | some f =>
         match f.fixed with
         | none => .waits s
         | some v => if f.mark != 0 then .fail (f.mark, 0, x.addr) else .ok (s.overlay t.serial .remote x.addr x.len (overStaged f.newer .remote x.addr x.len v) s.nextId) s)
    | _ =>
      let s1 := s.atsFill (s.ctx t.ctx).fn (x.addr / 4096)
      if s1.hostOk (s.ctx t.ctx).fn x.addr false then .ok (s1.overlay t.serial .host x.addr x.len (s1.hostRead x.addr x.len) s1.nextId) s1
      else .fail (0x04, 4, x.addr)

/-- The staged write of a copy's line (R272). -/
def Side.staged (x : Side) (t : Team) (h : Nat) (m : Poster) (sp : Space) (v : Nat) : Staged :=
  { space := sp, addr := x.addr, size := x.len, data := v % 256 ^ x.len, team := t.id, wave := m.wave, core := (nth { core := 0 } t.halves h).core, eng := true }

/-- Write the destination of a line. -/
def State.sideWrite (s0 : State) (t : Team) (h : Nat) (m : Poster) (x : Option Side) (v : Nat) : Side.Res :=
  match x with
  | none => .ok 0 s0
  | some x =>
    let bs := leBytes x.len v
    match x.sp with
    | 0 => .ok 0 (s0.teamScr t m h x.addr bs)
    | 1 => .ok 0 (s0.teamScr t m (1 - h) x.addr bs)
    | 2 | 3 =>
      (match s0.teamPut t m (copyWriter (nth { core := 0 } t.halves h).core) x.addr bs (x.sp == 3) false with | .ok s1 => .ok 0 s1 | .error e => .fail e)
    | 4 =>
      let s := s0.settleLoads t.id m.wave m.since .remote 0 x.addr x.len
      (match s.stage t.serial (x.staged t h m .remote v) with
       | (s1, true) => .ok 0 s1
       | (s1, false) => .waits (s1.engSend t h m .store x (v % 256 ^ x.len)))
    | _ =>
      let s := (s0.settleLoads t.id m.wave m.since .host 0 x.addr x.len).atsFill (s0.ctx t.ctx).fn (x.addr / 4096)
      if s.hostOk (s.ctx t.ctx).fn x.addr true then
        (match s.stage t.serial (x.staged t h m .host v) with
         | (s1, true) => .ok 0 s1
         | (s1, false) => .ok 0 (s1.hostWrite x.addr bs))
      else .fail (0x04, 5, x.addr)

/-- Drop the transactions that a team's copy engine had with other modules. -/
def State.engDrop (s : State) (t h : Nat) : State := { s with flights := s.flights.filter (fun f => !(f.eng && f.team == t && f.half == h)) }

/-- Write PROG and HELD into the slot of the entry at the head of a ring (R193, R251); the other bits of the slot are the program's (R240). -/
def State.writeProg (s : State) (t h : Nat) (r : Ring) (prog : Nat) (held : Bool) : State :=
  let a := r.base + 32 * (r.head % r.depth) + 28
  let low := (s.half? t h).elim 0 (fun y => y.scr.nat a 4 % 2 ^ 9)
  (s.scrWrite t h a (leBytes 4 (low + b2n held * 2 ^ 9 + prog % 2 ^ 22 * 2 ^ 10))).modHalf t h (fun y => { y with shown := held })

/-- The entry at the head of a ring completes (R180, R251): HEAD moves on, and its slot keeps its final PROG with HELD clear. -/
def State.copyDone (s : State) (t h : Nat) (r : Ring) (prog : Nat) : State :=
  let s1 := s.engDrop t h
  let s2 := if (s1.half? t h).elim false (·.shown) then s1.writeProg t h r prog false else s1
  ((s2.ringPop t h 0 0).modHalf t h (fun y => { y with prog := 0, cred := 0, held := none, ended := false })).moved t

/-- The copy at the head of a ring is held on a page, with its record (R195, R252): a transaction that failed is dropped, so that the line is tried again; while the
fault queue has no room, the turn does nothing else. -/
def State.copyHold (s0 : State) (t : Team) (h : Nat) (r : Ring) (x : QSlot) (prog : Nat) (e : EErr) : State :=
  let s := s0.engDrop t.id h
  match s.engHold t h x.wave 0 e with
  | none => s
  | some s1 => (s1.modHalf t.id h (fun y => { y with held := some (faultPage e.2.2) })).writeProg t.id h r prog true

/-- The last step of a copy: the counter add, then completion (R194, R195). -/
def State.copyEnd (s : State) (t : Team) (h : Nat) (r : Ring) (x : QSlot) (prog : Nat) : State :=
  match x.ctr with
  | none => s.copyDone t.id h r prog
  | some a =>
    match s.counterAdd t x.poster (copyWriter (nth { core := 0 } t.halves h).core) a with
    | .ok s1 => s1.copyDone t.id h r prog
    | .error e =>
      let s1 := s.modHalf t.id h (fun y => { y with ended := true })
      if e.1 = 4 then s1.copyHold t h r x prog e
      else (match s1.engFail t h x.wave 0 0 e with
        | some s2 => if (s2.team? t.id).isNone then s2 else s2.copyDone t.id h r prog
        | none => s1)

/-- The copy at the head of a ring fails on a line (R195, R252): what is left is credited, the counter add is made, and it completes. With `rec` a fault record is
written first. DEDUCED, log entry 48. -/
def State.copyFail (s : State) (t : Team) (h : Nat) (r : Ring) (x : QSlot) (prog : Nat) (e : EErr) (rec_ : Bool) : State :=
  match if rec_ then s.engFail t h x.wave 0 0 e else some (s.addAerr t.ctx 1) with
  | none => s
  | some s1 =>
    if (s1.team? t.id).isNone then s1
    else
      let c := Copy.of x.val; let y := nth { core := 0 } t.halves h
      let s2 := (s1.credit t.id h c.bar (c.total - y.cred)).modHalf t.id h (fun y => { y with held := none, ended := true, cred := c.total })
      match s2.team? t.id with
      | some t1 => s2.copyEnd t1 h r x prog
      | none => s2

/-- The copy at the head of a ring is held on a page that is refused (R252): it fails as a line does; one that only the counter add kept completes without it. -/
def State.copyRefused (s : State) (t : Team) (h : Nat) (r : Ring) (x : QSlot) (page : Nat) : State :=
  let y := nth { core := 0 } t.halves h
  if y.ended then (s.addAerr t.ctx 1).copyDone t.id h r y.prog else s.copyFail t h r x y.prog (0x04, 0, page * 65536) false

/-- A line of a copy has been written and is credited; after the last one the copy ends (R194). -/
def State.copyCredit (s : State) (t : Team) (h : Nat) (r : Ring) (x : QSlot) (prog n : Nat) : State :=
  let c := Copy.of x.val
  let s1 := (((s.engDrop t.id h).credit t.id h c.bar n).modHalf t.id h (fun y => { y with prog := prog + 1, cred := y.cred + n })).writeProg t.id h r (prog + 1) false
  if (copyLine x (prog + 1)).isNone then
    (match s1.team? t.id with | some t1 => s1.copyEnd t1 h r x (prog + 1) | none => s1)
  else s1

/-- The answer to the line that the copy at the head of a ring has written in another module (R194, R195). -/
def State.copyAnswer (s : State) (t : Team) (h : Nat) (r : Ring) (x : QSlot) (prog n : Nat) (f : Flight) : State :=
  if f.fixed.isNone then s
  else if f.mark = 0 then s.copyCredit t h r x prog n
  else if f.mark = 4 then s.copyHold t h r x prog (f.mark, 0, f.va)
  else s.copyFail t h r x prog (f.mark, 0, f.va) true

/-- One line of the copy at the head of a team's ring (R194, R195), byte for byte also for FP6 tiles (R37, R193); HELD is cleared at the first turn after the page was made
present (R252). DESIGN CHOICE, log entry 87. -/
def State.copyStep (s0 : State) (t : Team) (h : Nat) (r : Ring) (x : QSlot) : State :=
  let y := nth { core := 0 } t.halves h; let prog := y.prog
  let s := if y.shown then s0.writeProg t.id h r prog false else s0
  let bad (e : EErr) : State := if e.1 = 4 then s.copyHold t h r x prog e else s.copyFail t h r x prog e true
  match if y.ended then none else copyLine x prog with
  | none => s.copyEnd t h r x prog
  | some (src, dst, n) =>
    match s.engFlight t.id h .store with
    | some f => s.copyAnswer t h r x prog n f
    | none =>
      match s.sideRead t h x.poster src with
      | .fail e => bad e
      | .waits s1 => s1
      | .ok v s1 =>
        match s1.sideWrite t h x.poster dst v with
        | .fail e => bad e
        | .waits s2 => s2
        | .ok _ s2 => s2.copyCredit t h r x prog n

/-- The answers that other modules have given to a team's copies are taken before the team leaves its core: a line that is written is credited (R196, R253). -/
def State.copyAnswers (s : State) (t : Nat) : State :=
  (List.range ((s.team? t).elim 0 (fun x => x.halves.length))).foldl (fun a h =>
    match a.team? t, (a.half? t h).bind (·.ring), a.engFlight t h .store with
    | some x, some r, some f =>
      (match r.ents with
       | q :: _ => let p := (nth { core := 0 } x.halves h).prog; (match copyLine q p with | some (_, _, n) => a.copyAnswer x h r q p n f | none => a)
       | [] => a)
    | _, _, _ => a) s

/-- Has a half a copy that its engine may serve? -/
def Half.copyReady (y : Half) (t : Team) : Bool :=
  match y.ring.bind (fun r => r.ents.head?) with
  | some x => y.held.isNone && t.mayStart 0 x.seq
  | none => false

/-- COPY_ENGINE_TURN (R250): one line of the head entry of the next team's ring. -/
def State.copyTurn (s : State) (core : Nat) : State :=
  match s.nextTeam core 0 (fun t y => y.copyReady t) with
  | none => s
  | some (t, h) =>
    match (nth { core := 0 } t.halves h).ring with
    | some r => (match r.ents with | x :: _ => (s.served! core 0 t).copyStep t h r x | [] => s)
    | none => s

/-! ## The index engine (R197 to R200, R254 to R256) -/

/-- The page on which an entry that waits for room in the element fault queue is held: no page. -/
def holdRoom : Nat := 2 ^ 64

/-- The record of a parked element (R199). -/
def elemRec (scatter : Bool) (bar ew slot va : Nat) : Nat := va % 2 ^ 56 + slot % 2 ^ 24 * 2 ^ 64 + ew * 2 ^ 88 + bar * 2 ^ 98 + b2n scatter * 2 ^ 115

/-- The bytes of FILL in every word of a slot. -/
def fillBytes (fill n : Nat) : List Byte := (List.replicate (n / 4) (leBytes 4 fill)).flatten

/-- Put a record at the tail of the element fault queue, numbered behind those already there (R199, R256). -/
def State.putElem (s : State) (t h : Nat) (x : QSlot) : State := { s.ringPut t h 2 0 { x with seq := s.seqNo } with seqNo := s.seqNo + 1 }

/-- The outcome of a step of an entry: it is done, or it stops and stays in its queue; a launch that has ended leaves nothing to do. -/
inductive Step where
  | next (s : State)
  | stop (s : State) (held : Option Nat)
  deriving DecidableEq, Repr

/-- One lane's element of an index entry (R198, R199): `snap` is the slot as read at the entry's start. -/
def State.indexStep (s : State) (t : Team) (h : Nat) (m : Poster) (scatter : Bool) (ew bar soff fill bound base lane x snap : Nat) : Step :=
  let n := 4 * (ew + 1); let slot := soff + n * lane; let va := (base + n * x) % 2 ^ 64; let y := nth { core := 0 } t.halves h
  let done (a : State) : Step := .next (a.credit t.id h (barOf bar) n)
  let filled (a : State) : State := if scatter then a else a.teamScr t m h slot (fillBytes fill n)
  if x = 2 ^ 32 - 1 || x ≥ bound then done (filled s)
  else
    let r : Except EErr State :=
      if scatter then s.teamPut t m (engWriter y.core) va (leBytes n snap) false false
      else (s.teamGet t va n false).map (fun (v, s1) => s1.teamScr t m h slot (leBytes n v))
    match r with
    | .ok s1 => done s1
    | .error e =>
      match e.1 == 4, ((s.half? t.id h).bind (·.faultQ)) with
      | true, some q =>
        if q.room = 0 then .stop s (some holdRoom)
        else if !s.fqRoom t.ctx then .stop s none
        else
          let s1 := s.putElem t.id h { seq := 0, wave := m.wave, since := m.since, val := elemRec scatter bar ew slot va }
          .next (s1.writeRec t.ctx { engRec t h m.wave 1 e with lane := lane, src := 3 })
      | _, _ => (match s.engFail t h m.wave 1 0 e with | none => .stop s none | some s1 => done (filled s1))

/-- One record of the element fault queue (R200): it is taken and performed, or appended again. -/
def State.playStep (s : State) (t : Team) (h : Nat) : Step :=
  match (s.half? t.id h), ((s.half? t.id h).bind (·.faultQ)).bind (fun q => q.ents.head?) with
  | some y, some x =>
    let bar := nbits x.val 98 17; let n := 4 * (nbits x.val 88 10 + 1); let slot := nbits x.val 64 24; let va := nbits x.val 0 56
    let s0 := s.ringPop t.id h 2 0
    let r : Except EErr State :=
      if nbit x.val 115 then s0.teamPut t x.poster (engWriter y.core) va (leBytes n (y.scr.nat slot n)) false false
      else (s0.teamGet t va n false).map (fun (v, s1) => s1.teamScr t x.poster h slot (leBytes n v))
    (match r with
     | .ok s1 => .next (s1.credit t.id h (barOf bar) n)
     | .error e =>
       if e.1 = 4 then .next (s0.putElem t.id h x)
       else match s0.engFail t h x.wave 1 0 e with
         | none => .stop s none
         | some s1 => .next (s1.credit t.id h (barOf bar) n))
  | _, _ => .next s

/-- Play up to a number of records of the element fault queue, of those that were there at the start, numbered below `till` (R256); how many may yet be played. -/
def State.playAll (t : Team) (h till : Nat) : Nat → State → State × Nat
  | 0, s => (s, 0)
  | n + 1, s =>
    if !((s.half? t.id h).bind (·.faultQ)).any (fun q => q.ents.head?.any (fun x => decide (x.seq < till))) then (s, 0)
    else match s.playStep t h with | .next s1 => State.playAll t h till n s1 | .stop s1 _ => (s1, n + 1)

/-- The replay on a team's behalf goes on (R200, R256): it plays the records numbered below the mark that the half holds, and keeps the mark while the fault
queue has no room. -/
def State.playHalf (s : State) (t : Team) (h : Nat) : State :=
  match s.half? t.id h with
  | none => s
  | some y =>
    let (s1, left_) := State.playAll t h y.replay (y.faultQ.elim 0 (fun q => q.ents.length)) s
    (if left_ = 0 then s1.modHalf t.id h (fun y => { y with replay := 0 }) else s1).moved t.id

/-- The elements of an index entry from one on. -/
def State.indexAll (t : Team) (h : Nat) (m : Poster) (scatter : Bool) (ew bar soff fill bound base : Nat) : List ((Nat × Nat) × Nat) → Nat → State → State × Nat × Option (Option Nat)
  | [], k, s => (s, k, none)
  | ((lane, x), snap) :: l, k, s =>
    if (s.team? t.id).isNone then (s, k, none)
    else match s.indexStep t h m scatter ew bar soff fill bound base lane x snap with
      | .next s1 => State.indexAll t h m scatter ew bar soff fill bound base l (k + 1) s1
      | .stop s1 held => (s1, k, some held)

/-- Change the entry of a number in a half's queue. -/
def modEntry (l : List Entry) (seq : Nat) (f : Entry → Entry) : List Entry := l.map (fun e => if e.seq = seq then f e else e)

/-- Remove the entry of a number. -/
def dropEntry (l : List Entry) (seq : Nat) : List Entry := l.filter (fun e => e.seq != seq)

/-- The entry of `qidx` that is performed next (R180, R200): the head, or behind a held head the first `fqplay`. -/
def Half.idxNext (y : Half) : Option Entry :=
  match y.qidx with
  | [] => none
  | e :: l =>
    match e.held with
    | none => some e
    | some p =>
      if p = holdRoom && (y.faultQ.elim 0 Ring.room) > 0 then some e
      else l.find? (fun x => match x.work with | .fqplay _ => true | _ => false)

/-- INDEX_ENGINE_TURN (R250): one whole entry of the next team, or its owed replay (R200). -/
def State.indexTurn (s : State) (core : Nat) : State :=
  match s.nextTeam core 1 (fun t y => y.replay != 0 || (match y.idxNext with | some e => t.mayStart 1 e.seq | none => false)) with
  | none => s
  | some (t, h) =>
    let y := nth { core := 0 } t.halves h
    if y.replay != 0 then (s.served! core 1 t).playHalf t h
    else match y.idxNext with
    | none => s
    | some e =>
      let s0 := s.served! core 1 t
      match e.work with
      | .fqplay n =>
        let have_ := y.faultQ.elim 0 (fun q => q.ents.length)
        let (todo, till) := match e.vals with | k :: m :: _ => (k, m) | _ => (if n = 0 then have_ else min n have_, s0.seqNo)
        let (s1, left_) := State.playAll t h till todo s0
        if left_ = 0 then (s1.modHalf t.id h (fun y => { y with qidx := dropEntry y.qidx e.seq })).moved t.id
        else s1.modHalf t.id h (fun y => { y with qidx := modEntry y.qidx e.seq (fun x => { x with vals := [left_, till] }) })
      | .index scatter ew bar soff fill bound base items =>
        let n := 4 * (ew + 1)
        let snap := if e.vals.isEmpty then items.map (fun (lane, _) => if scatter then y.scr.nat (soff + n * lane) n else 0) else e.vals
        (match State.indexAll t h e.poster scatter ew bar soff fill bound base ((items.zip snap).drop e.done) e.done s0 with
         | (s1, _, none) => (s1.modHalf t.id h (fun y => { y with qidx := dropEntry y.qidx e.seq })).moved t.id
         | (s1, k, some held) => s1.modHalf t.id h (fun y => { y with qidx := modEntry y.qidx e.seq (fun x => { x with done := k, vals := snap, held := held }) }))
      | _ => s

/-! ## The binning engine (R201 to R203, R257, R258) -/

/-- The address of bin `g`. -/
def BinSet.binAddr (d : BinSet) (g : Nat) : Nat := d.bins + g * (64 + 8 * d.cap)

/-- The first element of a region and the number of its elements (R201). -/
def BinSet.region (d : BinSet) (g : Nat) : Nat × Nat := (g * 2 ^ d.rsl, min ((g + 1) * 2 ^ d.rsl) d.count - g * 2 ^ d.rsl)

/-- The address of element `x` of the target in row-major order. -/
def BinSet.elemAddr (d : BinSet) (x : Nat) : Nat := d.th.byteAddr (x / d.th.cols) (4 * (x % d.th.cols))

/-- One pair applied to an element (R203). -/
def BinSet.apply (d : BinSet) (e v : Nat) : Nat :=
  match d.op with
  | 0 => atomAddF .f32 e v
  | 1 => (e + v) % 2 ^ 32
  | _ => if d.th.fmt = 0 then (writeF .f32 .rne false false (Num.minmaxNum true (FFmt.f32.read e) (FFmt.f32.read v))).1
         else if toSigned 32 e < toSigned 32 v then v % 2 ^ 32 else e

/-- The physical address of a bin's header, by which every team orders its replays (R258); none while its page is absent. DEDUCED, log entry 38. -/
def State.binLock (s : State) (c va : Nat) : Option Nat := match s.xlate c va false with | .ok p => some (p.phys va) | .bad _ _ => none

/-- Does an entry other than one hold the replay lock of a context's bin: by its address in that context, or by the physical address of its header? DEDUCED, log entry 38. -/
def State.lockTaken (s : State) (c va seq : Nat) : Bool :=
  s.teams.any (fun t => t.halves.any (fun h => h.qbin.any (fun e => e.seq != seq && e.lock.any (fun (v, k) =>
    (t.ctx == c && v == va) || (k.isSome && k == s.binLock c va)))))

/-- Step `k` of the replay of a region after its header was read (R203): first the elements are read into SREG, then the pairs are applied, then the elements are written
back, then DONE is written. `t` and `d0` are TAIL and DONE as read. -/
def State.replayStep (s : State) (tm : Team) (h : Nat) (m : Poster) (d : BinSet) (g t d0 k : Nat) : Except EErr State :=
  let (x0, n) := d.region g; let np := t - d0; let w := engWriter (nth { core := 0 } tm.halves h).core
  if k < n then (s.teamGet tm (d.elemAddr (x0 + k)) 4 false).map (fun (v, s1) => s1.teamScr tm m h (d.sreg + 4 * k) (leBytes 4 v))
  else if k < n + np then do
    let (p, s1) ← s.teamGet tm (d.binAddr g + 64 + 8 * ((d0 + (k - n)) % d.cap)) 8 false
    let i := p % 2 ^ 32 - x0
    if p % 2 ^ 32 < x0 || i ≥ n then pure s1
    else
      let e := ((s1.half? tm.id h).elim 0 (fun y => y.scr.nat (d.sreg + 4 * i) 4))
      pure (s1.teamScr tm m h (d.sreg + 4 * i) (leBytes 4 (d.apply e (p / 2 ^ 32))))
  else if k < 2 * n + np then
    let i := k - n - np
    s.teamPut tm m w (d.elemAddr (x0 + i)) (leBytes 4 ((s.half? tm.id h).elim 0 (fun y => y.scr.nat (d.sreg + 4 * i) 4))) false false
  else s.teamPut tm m w (d.binAddr g + 8) (leBytes 8 t) false false

/-- The steps of a replay from one on: the state, the step reached, and the failure there. -/
def State.replayFrom (tm : Team) (h : Nat) (m : Poster) (d : BinSet) (g t d0 : Nat) : Nat → Nat → State → State × Nat × Option EErr
  | 0, k, s => (s, k, none)
  | n + 1, k, s =>
    match s.replayStep tm h m d g t d0 k with
    | .ok s1 => State.replayFrom tm h m d g t d0 n (k + 1) s1
    | .error e => (s, k, some e)

/-- The outcome of a replay: done; waiting for its lock; or failed at a step, with what it has read. -/
inductive Replay where
  | done (s : State)
  | waits
  | fail (s : State) (vals : List Nat) (e : EErr)
  deriving DecidableEq, Repr

/-- A replay of a region from where it stands (R203, R258): `vals` are TAIL, DONE and the next step, once the lock is held. -/
def State.replay (s : State) (tm : Team) (h : Nat) (m : Poster) (d : BinSet) (g seq : Nat) (vals : List Nat) : Replay :=
  if s.lockTaken tm.ctx (d.binAddr g) seq then .waits
  else
    let run (s : State) (t d0 k : Nat) : Replay :=
      let total := 2 * (d.region g).2 + (t - d0) + 1
      match State.replayFrom tm h m d g t d0 (total - k) k s with
      | (s1, _, none) => .done s1
      | (s1, k1, some e) => .fail s1 [t, d0, k1] e
    match vals with
    | t :: d0 :: k :: _ => run s t d0 k
    | _ =>
      match s.teamGet tm (d.binAddr g) 16 false with
      | .ok (v, s1) => run s1 (v % 2 ^ 64) (v / 2 ^ 64) 0
      | .error e => .fail s [] e

/-- What a replay that failed for good leaves (R203): DONE := t, and the number of pairs whose elements were left unwritten. -/
def State.replayLost (s : State) (tm : Team) (h : Nat) (m : Poster) (d : BinSet) (g : Nat) (vals : List Nat) : State × Nat :=
  match vals with
  | t :: d0 :: k :: _ =>
    let (x0, n) := d.region g; let np := t - d0; let wrote := k - n - np
    let lost := (List.range np).filter (fun i =>
      match s.teamGet tm (d.binAddr g + 64 + 8 * ((d0 + i) % d.cap)) 4 false with
      | .ok (x, _) => !(decide (x0 ≤ x ∧ x < x0 + wrote))
      | .error _ => true)
    (match s.teamPut tm m (engWriter (nth { core := 0 } tm.halves h).core) (d.binAddr g + 8) (leBytes 8 t) false false with
     | .ok s1 => (s1, lost.length)
     | .error _ => (s, lost.length))
  | _ => (s, 0)

/-- Append a pair to its bin when there is room (R202, R258): true when the bin is full and must be replayed first. -/
def State.binAppend (s : State) (tm : Team) (h : Nat) (m : Poster) (d : BinSet) (x v : Nat) : Except EErr (Bool × State) := do
  let b := d.binAddr (x / 2 ^ d.rsl); let w := engWriter (nth { core := 0 } tm.halves h).core
  let (hd, s1) ← s.teamGet tm b 16 false
  let tail := hd % 2 ^ 64
  if tail - hd / 2 ^ 64 ≥ d.cap then pure (true, s1)
  else do
    let _ ← s1.engPage tm.ctx b true false
    let s2 ← s1.teamPut tm m w (b + 64 + 8 * (tail % d.cap)) (leBytes 8 (x + v * 2 ^ 32)) false false
    let s3 ← s2.teamPut tm m w b (leBytes 8 (tail + 1)) false false
    pure (false, s3)

/-- What a bin entry came to: complete, stopped with its progress, or failed for good with its progress; `rep` says that a replay is under way, which holds its lock. -/
inductive BinEnd where
  | done (s : State)
  | stop (s : State) (done : Nat) (vals : List Nat) (rep : Bool) (e : Option EErr)
  | fail (s : State) (done : Nat) (vals : List Nat) (rep : Bool) (e : EErr)
  deriving DecidableEq, Repr

/-- The pairs of a `bput` entry from one on (R202, R257): each leaves the staging area when it is appended; `n` bounds the steps. -/
def State.binPut (tm : Team) (h : Nat) (m : Poster) (d : BinSet) (seq : Nat) (pairs : List (Nat × Nat)) : Nat → Nat → List Nat → State → BinEnd
  | 0, k, vals, s => .stop s k vals (!vals.isEmpty) none
  | n + 1, k, vals, s =>
    match pairs[k]? with
    | none => .done s
    | some (x, v) =>
      let implicit : BinEnd :=
        match s.replay tm h m d (x / 2 ^ d.rsl) seq vals with
        | .done s1 => State.binPut tm h m d seq pairs n k [] s1
        | .waits => .stop s k vals (!vals.isEmpty) none
        | .fail s1 vals1 e => if e.1 = 4 then .stop s1 k vals1 true (some e) else .fail s1 k vals1 true e
      if !vals.isEmpty then implicit
      else
        match s.binAppend tm h m d x v with
        | .ok (false, s1) => State.binPut tm h m d seq pairs n (k + 1) [] (s1.ringPop tm.id h 3 0)
        | .ok (true, _) => implicit
        | .error e => if e.1 = 4 then .stop s k [] false (some e) else .fail s k [] false e

/-- A bin entry ends: what it still had staged is gone and it leaves its queue (R257). -/
def State.binDone (s : State) (t h seq left_ : Nat) : State :=
  (((List.range left_).foldl (fun a _ => a.ringPop t h 3 0) s).modHalf t h (fun y => { y with qbin := dropEntry y.qbin seq })).moved t

/-- The region that a bin entry replays at its step `done`. -/
def Work.binRegion (w : Work) (done : Nat) : Option (BinSet × Nat) :=
  match w with
  | .bplay d g => some (d, g)
  | .bput d pairs => (pairs[done]?).map (fun (x, _) => (d, x / 2 ^ d.rsl))
  | _ => none

/-- What a bin entry that ends at step `done` leaves (R203, R257): an open replay sets DONE and loses the pairs of the elements that it left unwritten, the pairs not yet
appended are lost, and an explicit replay credits its barrier; the state before the entry leaves its queue, the pairs lost, and those still staged. -/
def State.binLose (s : State) (t : Team) (h : Nat) (e : Entry) (done : Nat) (vals : List Nat) : State × Nat × Nat :=
  let (s1, lost) := match e.work.binRegion done, vals with
    | some (d, g), _ :: _ => s.replayLost t h e.poster d g vals
    | _, _ => (s, 0)
  match e.work with
  | .bplay d g => (s1.credit t.id h (barOf d.bar) (4 * (d.region g).2), lost, 0)
  | .bput _ pairs => (s1, lost + (pairs.length - done), pairs.length - done)
  | _ => (s1, lost, 0)

/-- A bin entry stops where it is: held on a page, with its record, or only waiting (R252, R257); a replay under way keeps its lock (R203). -/
def State.binStop (s : State) (t : Team) (h : Nat) (e : Entry) (done : Nat) (vals : List Nat) (rep : Bool) (err : Option EErr) : State :=
  let lock := if rep then (e.work.binRegion done).map (fun (d, g) => (d.binAddr g, (s.binLock t.ctx (d.binAddr g)).orElse (fun _ => e.lock.bind (·.2)))) else none
  let keep (a : State) (held : Option Nat) : State :=
    a.modHalf t.id h (fun y => { y with qbin := modEntry y.qbin e.seq (fun x => { x with done := done, vals := vals, held := held, lock := lock }) })
  match err with
  | none => keep s none
  | some er => (match s.engHold t h e.wave 2 er with | some s1 => keep s1 (some (faultPage er.2.2)) | none => keep s none)

/-- A bin entry fails for good (R203, R257), once its record can be written; until then it stays where it is. -/
def State.binFail (s : State) (t : Team) (h : Nat) (e : Entry) (done : Nat) (vals : List Nat) (rep : Bool) (err : EErr) : State :=
  if !s.canFail t err then s.binStop t h e done vals rep none
  else
    let (s1, lost, left_) := s.binLose t h e done vals
    match s1.engFail t h e.wave 2 lost err with
    | none => s.binStop t h e done vals rep none
    | some s2 => if (s2.team? t.id).isNone then s2 else s2.binDone t.id h e.seq left_

/-- The next turn of the binning engine (R202, R203, R250): one whole entry of the next team, appends or a replay. BIN_ENGINE_TURN is the turn when that entry is
a `bput`, BPLAY_PERFORM when it is a `bplay`. -/
def State.binTurn (s : State) (core : Nat) (play : Bool) : State :=
  match s.nextTeam core 2 (fun t y => match y.qbin with | e :: _ => e.held.isNone && t.mayStart 2 e.seq | [] => false) with
  | none => s
  | some (t, h) =>
    match (nth { core := 0 } t.halves h).qbin with
    | [] => s
    | e :: _ =>
      let s0 := s.served! core 2 t
      match e.work, play with
      | .bplay d g, true =>
        (match s0.replay t h e.poster d g e.seq e.vals with
         | .done s1 => (s1.credit t.id h (barOf d.bar) (4 * (d.region g).2)).binDone t.id h e.seq 0
         | .waits => s0
         | .fail s1 vals er => if er.1 = 4 then s1.binStop t h e 0 vals true (some er) else s1.binFail t h e 0 vals true er)
      | .bput d pairs, false =>
        (match State.binPut t h e.poster d e.seq pairs (3 * pairs.length + 3) e.done e.vals s0 with
         | .done s1 => s1.binDone t.id h e.seq 0
         | .stop s1 k vals rep er => s1.binStop t h e k vals rep er
         | .fail s1 k vals rep er => s1.binFail t h e k vals rep er)
      | _, _ => s

end Sys2Proof.Machine
end

