-- ==== Sys2Proof/Machine/Lists.lean ====
section
/-!
DEFINITION. The work-list engine (R204 to R207, R259, R260, R373) and the stack engines' row updates (R141, R142, R310).
-/

namespace Sys2Proof.Machine

/-! ## A front and its list (R204) -/

/-- SPILL of a list header. -/
def hdrSpill (n : Nat) : Nat := nbits n 448 64
/-- CAP of a list header. -/
def hdrCap (n : Nat) : Nat := nbits n 416 32
/-- NB of a list header. -/
def hdrNb (n : Nat) : Nat := nbits n 384 32
/-- LO of a list header. -/
def hdrLo (n : Nat) : Nat := nbits n 352 32
/-- MAP of a list header. -/
def hdrMap (n : Nat) : Nat := nbits n 256 64

/-- The core of a half of a team. -/
def Team.halfCore (t : Team) (h : Nat) : Nat := (nth { core := 0 } t.halves h).core

/-- The active front `i` of a half. -/
def State.front? (s : State) (t h i : Nat) : Option Ring := (s.half? t h).bind (fun y => y.front i)

/-- STAIL and SHEAD of a list. -/
def State.spillPtrs (s : State) (t : Team) (r : Ring) : Except EErr ((Nat × Nat) × State) :=
  (s.teamGet t (r.list + 16) 16 false).map (fun (v, s1) => ((v % 2 ^ 64, v / 2 ^ 64), s1))

/-- Write 8 bytes of a list's own fields. -/
def State.putList (s : State) (t : Team) (m : Poster) (h : Nat) (r : Ring) (off v : Nat) : Except EErr State :=
  s.teamPut t m (engWriter (t.halfCore h)) (r.list + off) (leBytes 8 v) false false

/-- A coordinate is dropped: DROP counts it and OVF is set (R205). -/
def State.dropCoord (s : State) (t : Team) (m : Poster) (h : Nat) (r : Ring) : Except EErr State := do
  let (v, s1) ← s.teamGet t r.list 16 false
  s1.teamPut t m (engWriter (t.halfCore h)) r.list (leBytes 16 ((v % 2 ^ 64 + 1) % 2 ^ 64 + (v / 2 ^ 64 / 2 * 2 + 1) * 2 ^ 64)) false false

/-- Move the front's oldest coordinate to the spill area (R205): false when the spill area is full, with nothing moved. -/
def State.spillOldest (s : State) (t : Team) (m : Poster) (h i : Nat) (r : Ring) : Except EErr (Bool × State) := do
  let ((stail, shead), s1) ← s.spillPtrs t r
  if stail - shead ≥ hdrCap r.hdr then pure (false, s1)
  else
    let c := ((r.ents.head?).map (·.val)).getD 0
    let s2 ← s1.teamPut t m (engWriter (t.halfCore h)) (hdrSpill r.hdr + 4 * (stail % hdrCap r.hdr)) (leBytes 4 c) false false
    let s3 ← s2.putList t m h r 16 (stail + 1)
    pure (true, s3.ringPop t.id h 1 i)

/-! ## Pushes and insertions (R205, R260) -/

/-- The test-and-set of `wlins`: was the bit clear? -/
def State.testSet (s : State) (t : Team) (m : Poster) (h c : Nat) (r : Ring) : Except EErr (Bool × State) := do
  let bit := c - hdrLo r.hdr; let a := hdrMap r.hdr + bit / 8
  let (v, s1) ← s.teamGet t a 1 false
  if nbit v (bit % 8) then pure (false, s1)
  else do
    let s2 ← s1.teamPut t m (engWriter (t.halfCore h)) a (leBytes 1 (v ||| 2 ^ (bit % 8))) false false
    pure (true, s2)

/-- Append a coordinate whose bit, if it has one, was found clear; a full front makes room first, or the coordinate is dropped. DEDUCED, log entry 51. -/
def State.appendCoord (s : State) (t : Team) (m : Poster) (h i c : Nat) (r : Ring) : Except EErr State := do
  if r.room = 0 then
    let (moved, s1) ← s.spillOldest t m h i r
    if moved then pure (s1.ringPut t.id h 1 i { seq := 0, val := c }) else s1.dropCoord t m h r
  else pure (s.ringPut t.id h 1 i { seq := 0, val := c })

/-- The coordinates of an entry from one on: the state, how many are done, whether the next one's bit has been set by this entry, and the failure. -/
def State.pushAll (t : Team) (m : Poster) (h i : Nat) (ins : Bool) : List Nat → Nat → Bool → State → State × Nat × Bool × Option EErr
  | [], k, _, s => (s, k, false, none)
  | c :: l, k, set, s =>
    match s.front? t.id h i with
    | none => (s, k, false, none)
    | some r =>
      match if set || !ins || hdrNb r.hdr = 0 then .ok (true, s) else s.testSet t m h c r with
      | .error e => (s, k, false, some e)
      | .ok (false, s1) => State.pushAll t m h i ins l (k + 1) false s1
      | .ok (true, s1) =>
        match s1.appendCoord t m h i c r with
        | .error e => (s1, k, true, some e)
        | .ok s2 => State.pushAll t m h i ins l (k + 1) false s2

/-! ## Pops (R206) -/

/-- Take a freely chosen coordinate of a front; those older than it move up one place, so that the front stays in the order of age (R206, R259). -/
def State.takeFront (s : State) (t h i : Nat) (r : Ring) : Nat × State :=
  let (x, s1) := s.free
  let j := x % r.ents.length
  let c := ((r.ents[j]?).map (·.val)).getD 0
  let s2 := ((r.ents.take j).zipIdx).foldl (fun a (x, k) => a.scrWrite t h (r.base + 4 * ((r.head + 1 + k) % r.depth)) (leBytes 4 x.val)) s1
  let r1 := { r with head := (r.head + 1) % 2 ^ 32, ents := r.ents.eraseIdx j }
  (c, (s2.modHalf t h (fun y => y.setQueue 1 i r1)).syncRing t h r1)

/-- Take one coordinate: from the front, else the next of the spill area; none when both are empty. DESIGN CHOICE, log entry 10. -/
def State.takeCoord (s : State) (t : Team) (m : Poster) (h i : Nat) (r : Ring) : Except EErr (Option Nat × State) :=
  if !r.ents.isEmpty then (let (c, s1) := s.takeFront t.id h i r; .ok (some c, s1))
  else do
    let ((stail, shead), s1) ← s.spillPtrs t r
    if stail ≤ shead then pure (none, s1)
    else do
      let (c, s2) ← s1.teamGet t (hdrSpill r.hdr + 4 * (shead % hdrCap r.hdr)) 4 false
      let s3 ← s2.putList t m h r 24 (shead + 1)
      pure (some c, s3)

/-- Take up to a number of coordinates more. -/
def State.takeAll (t : Team) (m : Poster) (h i : Nat) : Nat → List Nat → State → State × List Nat × Option EErr
  | 0, l, s => (s, l, none)
  | n + 1, l, s =>
    match s.front? t.id h i with
    | none => (s, l, none)
    | some r =>
      match s.takeCoord t m h i r with
      | .ok (some c, s1) => State.takeAll t m h i n (l ++ [c]) s1
      | .ok (none, s1) => (s1, l, none)
      | .error e => (s, l, some e)

/-- A list in a free order. DESIGN CHOICE, log entry 10. -/
def State.shuffle : Nat → List Nat → State → List Nat × State
  | 0, l, s => (l, s)
  | n + 1, l, s =>
    let (x, s1) := s.free
    let j := x % l.length
    let (r, s2) := State.shuffle n (l.eraseIdx j) s1
    (nth 0 l j :: r, s2)

/-- The coordinates of a `wlpop` reach the lanes by rank, the others get the sentinel, or an error mark when the pop failed; the scalar gets the count (R206, R373). -/
def State.givePop (s : State) (t : Nat) (x : Popped) : State :=
  let s1 := x.lanes.zipIdx.foldl (fun a (lane, r) =>
    match x.got[r]? with
    | some c => a.deliver t x.wave lane false x.dest false c 0
    | none => a.deliver t x.wave lane false x.dest false (2 ^ 32 - 1) x.mark) s
  (s1.modWave t x.wave (fun w => { w with s := setScalar w.s x.sN false x.got.length, scal := w.scal.erase x.sN })).wakeTeam t (fun w => w == .lock)

/-- The results of `wlpop` that waited for a team's registers reach them (R35, R231). -/
def State.givePops (s : State) (t : Nat) : State :=
  match s.team? t with
  | none => s
  | some x => x.pops.foldl (fun a p => a.givePop t p) (s.modTeam t (fun x => { x with pops := [] }))

/-- The coordinates taken go to the lanes in a free order; while the team is off its core they wait for its registers (R35, R206, R231). DESIGN CHOICE, log entry 10. -/
def State.dealPop (s : State) (t : Team) (sN dest wave : Nat) (lanes got : List Nat) (mark : Nat) : State :=
  let (l, s1) := State.shuffle got.length got s
  let x : Popped := { wave := wave, sN := sN, dest := dest, lanes := lanes, got := l, mark := mark }
  match t.place with
  | .resident => s1.givePop t.id x
  | _ => s1.modTeam t.id (fun y => { y with pops := y.pops ++ [x] })

/-! ## Turns (R250, R373) -/

/-- The entry at the head of a half's `qwl` leaves it. -/
def State.listDone (s : State) (t h seq : Nat) : State := (s.modHalf t h (fun y => { y with qwl := dropEntry y.qwl seq })).moved t

/-- What a failed entry does to its registers and how many coordinates it loses (R373). DEDUCED, log entry 39. -/
def State.listLose (s : State) (t : Team) (e : Entry) (cause : Nat) : State × Nat :=
  match e.work with
  | .wlpush _ _ cs => (s, cs.length - e.done)
  | .wlpop _ sN dest wave lanes => (s.dealPop t sN dest wave lanes e.vals cause, 0)
  | .wlstat _ dest wave lanes => (lanes.foldl (fun a i => a.deliver t.id wave i false dest true 0 cause) s, 0)
  | _ => (s, 0)

/-- A work-list entry stops at a failure with its progress kept: a translation fault holds it, any other failure ends it (R373). -/
def State.listStop (s : State) (t : Team) (h : Nat) (e : Entry) (err : EErr) : State :=
  let keep (a : State) (held : Option Nat) : State :=
    a.modHalf t.id h (fun y => { y with qwl := modEntry y.qwl e.seq (fun x => { x with done := e.done, vals := e.vals, held := held }) })
  if err.1 = 4 then
    match s.engHold t h e.wave 5 err with
    | some s1 => keep s1 (some (faultPage err.2.2))
    | none => keep s none
  else
    match s.engFail t h e.wave 5 (s.listLose t e err.1).2 err with
    | none => keep s none
    | some s1 => if (s1.team? t.id).isNone then s1 else (s1.listLose t e err.1).1.listDone t.id h e.seq

/-- WORKLIST_ENGINE_TURN (R205 to R207, R250): one whole entry of the next team. -/
def State.listTurn (s : State) (core : Nat) : State :=
  match s.nextTeam core 3 (fun t y => match y.qwl with | e :: _ => e.held.isNone && t.mayStart 5 e.seq | [] => false) with
  | none => s
  | some (t, h) =>
    match (nth { core := 0 } t.halves h).qwl with
    | [] => s
    | e :: _ =>
      let s0 := s.served! core 3 t
      match e.work with
      | .wlpush ins i cs =>
        (match State.pushAll t e.poster h i ins (cs.drop e.done) e.done (!e.vals.isEmpty) s0 with
         | (s1, _, _, none) => s1.listDone t.id h e.seq
         | (s1, k, set, some er) => s1.listStop t h { e with done := k, vals := if set then [1] else [] } er)
      | .wlpop i sN dest wave lanes =>
        (match State.takeAll t e.poster h i (lanes.length - e.vals.length) e.vals s0 with
         | (s1, got, none) => (s1.dealPop t sN dest wave lanes got 0).listDone t.id h e.seq
         | (s1, got, some er) => s1.listStop t h { e with vals := got } er)
      | .wlstat i dest wave lanes =>
        (match s0.front? t.id h i with
         | none => s0.listDone t.id h e.seq
         | some r =>
           match s0.teamGet t r.list 32 false with
           | .error er => s0.listStop t h e er
           | .ok (v, s1) =>
             let d := r.ents.length + min (nbits v 128 64 - nbits v 192 64) (2 ^ 31 - 1) * 2 ^ 32 + nbits v 64 1 * 2 ^ 63
             (lanes.foldl (fun a j => a.deliver t.id wave j false dest true d 0) s1).listDone t.id h e.seq)
      | _ => s0

/-! ## The end of a front's life (R259) -/

/-- Move what a front still holds to the spill area, oldest first; what finds it full is dropped and counted. -/
def State.drainFront (t : Team) (h i : Nat) : Nat → State → State × Option EErr
  | 0, s => (s, none)
  | n + 1, s =>
    match s.front? t.id h i with
    | none => (s, none)
    | some r =>
      if r.ents.isEmpty then (s, none)
      else
        let r1 : Except EErr State := do
          let (moved, s1) ← s.spillOldest t ⟨0, 0⟩ h i r
          if moved then pure s1
          else do
            let s2 ← s1.dropCoord t ⟨0, 0⟩ h r
            pure (s2.ringPop t.id h 1 i)
        match r1 with
        | .ok s1 => State.drainFront t h i n s1
        | .error e => (s, some e)

/-- Empty a front whose coordinates are lost. -/
def State.clearFront (s : State) (t h i : Nat) : State :=
  match s.front? t h i with
  | none => s
  | some r => (List.range r.ents.length).foldl (fun a _ => a.ringPop t h 1 i) s

/-- Move the fronts of a half from one on; a translation fault holds the move, any other failure loses the rest of its front. -/
def State.drainFronts (t : Team) (h : Nat) : List Nat → State → State
  | [], s => s
  | i :: l, s =>
    let n := (s.front? t.id h i).elim 0 (fun r => r.ents.length)
    match State.drainFront t h i n s with
    | (s1, none) => State.drainFronts t h l s1
    | (s1, some e) =>
      if e.1 = 4 then
        (match s1.engHold t h 0 5 e with | some s2 => s2.modHalf t.id h (fun y => { y with drain := some (faultPage e.2.2) }) | none => s1)
      else
        match s1.engFail t h 0 5 ((s1.front? t.id h i).elim 0 (fun r => r.ents.length)) e with
        | none => s1
        | some s2 => if (s2.team? t.id).isNone then s2 else State.drainFronts t h l (s2.clearFront t.id h i)

/-- WORKLIST_FRONT_DRAIN (R259): every wave of the team has left and its `qwl` is empty; the fronts are emptied and the team leaves the core. -/
def State.frontDrain (s : State) (t : Nat) : State :=
  match s.team? t with
  | none => s
  | some x =>
    if (match x.place with | .saved _ => false | _ => true) && x.waves.all (·.left) && x.halves.all (fun y => y.qwl.isEmpty && y.drain.isNone) then
      ((List.range x.halves.length).foldl (fun a h => State.drainFronts x h [0, 1, 2, 3] a) s).teamLeave t
    else s

/-! ## The stack engines' row updates (R141, R142, R310) -/

/-- The ranges of memory that row `r` of a tensor fills. -/
def Tensor.rowPieces (t : Tensor) (r : Nat) : List (Nat × Nat) :=
  (List.range ((t.rowBytes + 127) / 128)).flatMap (fun i => pieces (t.byteAddr r (128 * i)) (min 128 (t.rowBytes - 128 * i)))

/-- The stacks that rows of a tensor touch, without repeats, or the failure of their translation. -/
def State.rowStacks (s : State) (c : Nat) (t : Tensor) (row0 n : Nat) : Except EErr (List Nat) :=
  ((List.range n).flatMap (fun i => t.rowPieces (row0 + i))).foldl (fun r (a, _) => do
    let l ← r
    let p ← s.engPage c a false false
    let k := s.stackOf (p.phys a) (p.kind == 2)
    pure (if l.contains k then l else k :: l)) (.ok [])

/-- The product of an element of W and an element of x, exactly. -/
def smvTerm (code w x : Nat) : Num := (Num.mul (readCode code w false false []) (FFmt.f32.read x)).1

/-- One row: the exact sum, then one rounding with y (R141). -/
def State.smvRow (s : State) (t : Team) (m : Poster) (h : Nat) (w y : Tensor) (r : Nat) (xs : List (Nat × Nat)) : Except EErr State := do
  let k := (codeBits w.fmt + 7) / 8
  let (terms, s1) ← (xs.filter (fun x => decide (x.1 < w.cols))).foldl (fun (acc : Except EErr (List Num × State)) (col, x) => do
    let (l, a) ← acc
    let (v, b) ← a.teamGet t (w.byteAddr r (k * col)) k false
    pure (l ++ [smvTerm w.fmt v x], b)) (.ok ([], s))
  let a := y.base + 4 * r
  let (old, s2) ← s1.teamGet t a 4 false
  let v := (writeF .f32 .rne false false (Num.add .rne (FFmt.f32.read old) (Num.sum .rne terms).1).1).1
  let s3 ← s2.teamPut t m (engWriter (t.halfCore h)) a (leBytes 4 v) false false
  let p ← s3.engPage t.ctx a false false
  pure (s3.dropLines (p.phys a) 4)

/-- Step `k` of an entry: first its rows, then the credit, then the counter add. -/
def State.smvStep (s : State) (t : Team) (m : Poster) (h : Nat) (w y : Tensor) (row0 nrows bar ctr : Nat) (xs : List (Nat × Nat)) (k : Nat) : Except EErr State :=
  if k < nrows then s.smvRow t m h w y (row0 + k) xs
  else if k = nrows then .ok (s.credit t.id h (if bar = 2 ^ 32 - 1 then none else some bar) (4 * nrows))
  else if ctr = 0 then .ok s
  else s.counterAdd t m (engWriter (t.halfCore h)) ctr

/-- The steps of an entry from one on. -/
def State.smvFrom (t : Team) (m : Poster) (h : Nat) (w y : Tensor) (row0 nrows bar ctr : Nat) (xs : List (Nat × Nat)) : Nat → Nat → State → State × Nat × Option EErr
  | 0, k, s => (s, k, none)
  | n + 1, k, s =>
    match s.smvStep t m h w y row0 nrows bar ctr xs k with
    | .ok s1 => State.smvFrom t m h w y row0 nrows bar ctr xs n (k + 1) s1
    | .error e => (s, k, some e)

/-- The half and the entry that come first in the order of a team's posts. -/
def Team.firstOf (t : Team) (f : Half → List Entry) : Option (Nat × Entry) :=
  (t.halves.zipIdx.filterMap (fun (y, i) => (f y).head?.map (fun e => (i, e)))).foldl (fun b x =>
    match b with | none => some x | some z => if x.2.seq < z.2.seq then some x else b) none

/-- A `qstack` entry stops at a failure (R141, R180). DEDUCED, log entry 41. -/
def State.smvStop (s : State) (t : Team) (h : Nat) (e : Entry) (k : Nat) (err : EErr) : State :=
  let keep (a : State) (held : Option Nat) : State :=
    a.modHalf t.id h (fun y => { y with qstack := modEntry y.qstack e.seq (fun x => { x with done := k, held := held }) })
  if err.1 = 4 then
    match s.engHold t h e.wave 3 err with
    | some s1 => keep s1 (some (faultPage err.2.2))
    | none => keep s none
  else
    match s.engFail t h e.wave 3 0 err with
    | none => keep s none
    | some s1 => if (s1.team? t.id).isNone then s1 else (s1.modHalf t.id h (fun y => { y with qstack := dropEntry y.qstack e.seq })).moved t.id

/-- STACK_ENGINE_SMV (R141, R142): the first entry of a team's `qstack`. -/
def State.smvTurn (s : State) (t : Nat) : State :=
  match s.team? t with
  | none => s
  | some x =>
    match x.firstOf (·.qstack) with
    | none => s
    | some (h, e) =>
      if e.held.isSome || !x.mayStart 3 e.seq || (match x.place with | .saved _ => true | _ => false) then s
      else
        match e.work with
        | .smv w y row0 nrows bar ctr xs =>
          (match if e.done = 0 then s.rowStacks x.ctx w row0 nrows else .ok [] with
           | .error er => s.smvStop x h e 0 er
           | .ok l =>
             if l.length > 1 then s.smvStop x h e 0 (0x05, 0, w.byteAddr row0 0)
             else
               match State.smvFrom x e.poster h w y row0 nrows bar ctr xs (nrows + 2 - e.done) e.done s with
               | (s1, _, none) => (s1.modHalf t h (fun y => { y with qstack := dropEntry y.qstack e.seq })).moved t
               | (s1, k, some er) => s1.smvStop x h e k er)
        | _ => s

end Sys2Proof.Machine
end

