-- ==== Sys2Proof/Machine/Array.lean ====
section
/-!
DEFINITION. The matrix array (R36 to R42, R49 to R52, R156 to R175): operand fetch, elision, the cells, the exponent bound, and the entries of `qmat` that fetch.
-/

namespace Sys2Proof.Machine

/-! ## Operands (R36 to R41, R157) -/

/-- An operand as fetched: its rows of K elements and the MX scales read. -/
structure Operand where
  rows : List (List Num)
  scales : List Nat
  deriving DecidableEq, Repr

/-- Read `n` bytes of a tensor's space at an address. -/
def State.tensorGet (s : State) (t : Team) (h : Nat) (x : Tensor) (a n : Nat) : Except EErr (Nat × State) :=
  match x.space with
  | 0 => s.teamGet t a n false
  | 1 => .ok ((s.half? t.id h).elim 0 (fun y => y.scr.nat (a % 2 ^ 32) n), s)
  | _ => .ok ((s.half? t.id (1 - h)).elim 0 (fun y => y.scr.nat (a % 2 ^ 32) n), s)

/-- Bits from one element to the next in a row (R37). -/
def slotBits (code : Nat) : Nat := if codeBits code = 4 then 4 else 8 * ((codeBits code + 7) / 8)

/-- The value of an element under its block's scale (R40, R41). -/
def scaled (v : Num) (x : Option Nat) : Num :=
  match x with
  | none => v
  | some x => if x = 0xFF then .nan else v.scale ((x : Int) - 127)

/-- Row `r`, columns `c0` to `c0 + k - 1` of a tensor: what lies outside reads as +0 (R157). DEDUCED, log entry 49. -/
def State.operandRow (s : State) (t : Team) (h : Nat) (x : Tensor) (cb : List (BitVec 16)) (r c0 k : Nat) : Except EErr (List Num × List Nat × State) :=
  if r ≥ x.rows then .ok (List.replicate k (.fin false 0 0), [], s)
  else do
    let w := slotBits x.fmt
    let b0 := c0 * w / 8; let n := min (k * w / 8) (x.rowBytes - b0)
    let (raw, s1) ← s.tensorGet t h x (x.byteAddr r b0) n
    let j0 := c0 / 32; let nb := if x.mx then (min (c0 + k) x.cols + 31) / 32 - j0 else 0
    let (sc, s2) ← if nb = 0 then .ok (0, s1) else s1.tensorGet t h x (x.scale + r * ((x.cols + 31) / 32) + j0) nb
    let vals := (List.range k).map (fun i =>
      if c0 + i < x.cols then
        scaled (readCode x.fmt (nbits raw (w * i) w) false false cb) (if x.mx then some (nbits sc (8 * ((c0 + i) / 32 - j0)) 8) else none)
      else .fin false 0 0)
    pure (vals, (List.range nb).map (fun i => nbits sc (8 * i) 8), s2)

/-- The rows of an operand. -/
def State.operand (s : State) (t : Team) (h : Nat) (x : Tensor) (row0 nrows c0 k : Nat) : Except EErr (Operand × State) :=
  let cb := nth [] ((s.half? t.id h).elim [] (·.cbs)) x.cb
  (List.range nrows).foldl (fun (acc : Except EErr (Operand × State)) i => do
    let (o, a) ← acc
    let (l, sc, b) ← a.operandRow t h x cb (row0 + i) c0 k
    pure ({ rows := o.rows ++ [l], scales := o.scales ++ sc }, b)) (.ok (⟨[], []⟩, s))

/-! ## The exponent bound (R52) -/

/-- An exponent of R52: −∞, a number, or +∞. -/
inductive EB where
  | lo
  | at (e : Int)
  | hi
  deriving DecidableEq, Repr

/-- e(x): a NaN enters nothing. -/
def EB.of : Num → EB
  | .nan => .lo
  | .inf _ => .hi
  | .fin _ m e => if m = 0 then .lo else .at (ilog m e)

/-- The greater of two. -/
def EB.max : EB → EB → EB
  | .hi, _ => .hi
  | _, .hi => .hi
  | .lo, y => y
  | x, .lo => x
  | .at a, .at b => .at (if a < b then b else a)

/-- Greater than. -/
def EB.gt : EB → EB → Bool
  | .hi, .hi => false
  | .hi, _ => true
  | _, .hi => false
  | .lo, _ => false
  | .at _, .lo => true
  | .at a, .at b => decide (a > b)

/-- One more. -/
def EB.succ : EB → EB
  | .at a => .at (a + 1)
  | x => x

/-- *eA* + *eB* + log₂K. -/
def EB.sum (a b : EB) (k : Nat) : EB :=
  match a, b with
  | .lo, _ => .lo
  | _, .lo => .lo
  | .hi, _ => .hi
  | _, .hi => .hi
  | .at x, .at y => .at (x + y + Nat.log2 k)

/-- The greatest of a list of values. -/
def EB.maxOf (l : List Num) : EB := l.foldl (fun b v => b.max (EB.of v)) .lo

/-- *eA* or *eB* of an operand (R52): an infinite element enters the maximum of every form as +∞. -/
def operandBound (x : Tensor) (cb : List (BitVec 16)) (o : Operand) : EB :=
  let entries := EB.maxOf ((List.range 16).map (cbEntry cb))
  if x.mx && (o.rows.any (fun l => l.any Num.isInf)) then .hi
  else if x.mx then
    match o.scales.filter (fun v => v != 0xFF) with
    | [] => .lo
    | v :: l =>
      let m : Int := (l.foldl Nat.max v : Nat)
      if x.fmt = 9 then (match entries with | .at e => .at (m - 127 + e) | y => y) else .at (m - 127 + mxEmax x.fmt [])
  else if x.fmt = 9 then entries
  else (o.rows.map EB.maxOf).foldl EB.max .lo

/-! ## The cells (R49, R50) -/

/-- A list cut into chunks of `c`. -/
def chunks {α : Type} (c : Nat) : Nat → List α → List (List α)
  | 0, _ => []
  | n + 1, l => if l.isEmpty then [] else l.take c :: chunks c n (l.drop c)

/-- An exact product; with integers a zero has no sign (R49). -/
def cellMul (int : Bool) (a b : Num) : Num × Bool :=
  let p := Num.mul a b
  if int && p.1.isZero then (.fin false 0 0, p.2) else p

/-- The exact sum of a chunk's products with the invalid flag (R50). -/
def chunkSum (ps : List (Num × Bool)) : Num × Bool :=
  let l := ps.map Prod.fst
  ((Num.sum .rne l).1, ps.any Prod.snd || (l.any (fun x => x == .inf false) && l.any (fun x => x == .inf true)))

/-- The flags of a rounding into a band, with invalid. -/
def cellRound (v : Num) (inv : Bool) : Nat × Exc :=
  let (r, e) := writeF .f32 .rne false false v
  (r, { e with inv := inv })

/-- One step of an output: the running value and a chunk of pairs (R49). `sem` is 0 plus-times, 1 min-plus, 2 max-plus, 3 max-times, 4 or-and; `int` says
that both operands are INT8. DEDUCED, log entry 40. -/
def cellStep (sem : Nat) (int : Bool) (acc : Nat × Exc) (ch : List (Num × Num)) : Nat × Exc :=
  let join (r : Nat × Exc) : Nat × Exc := (r.1, acc.2.or r.2)
  let best (mx : Bool) (l : List (Num × Bool)) : Nat × Exc :=
    match l.map Prod.fst with
    | [] => acc
    | v :: t => join (cellRound (Num.minmax mx (FFmt.f32.read acc.1) (t.foldl (Num.minmax mx) v)) (l.any Prod.snd))
  match sem with
  | 0 =>
    if int then ((ofSigned 32 (toSigned 32 acc.1 + ch.foldl (fun n (a, b) => n + a.toInt .rtz * b.toInt .rtz) 0)), acc.2)
    else
      let (v, inv) := chunkSum (ch.map (fun (a, b) => cellMul false a b))
      let (x, inv2) := Num.add .rne (FFmt.f32.read acc.1) v
      join (cellRound x (inv || inv2))
  | 1 => best false (ch.map (fun (a, b) => Num.add .rne a b))
  | 2 => best true (ch.map (fun (a, b) => Num.add .rne a b))
  | 3 => best true (ch.map (fun (a, b) => cellMul int a b))
  | _ => if !(FFmt.f32.read acc.1).isZero || ch.any (fun (a, b) => !a.isZero && !b.isZero) then (0x3F800000, acc.2) else acc

/-- An output over all of K (R49). -/
def cell (sem : Nat) (int : Bool) (c : Nat) (a b : List Num) (acc : Nat) : Nat × Exc :=
  (chunks c a.length (a.zip b)).foldl (cellStep sem int) (acc, {})

/-- An output under the constant rule (R166): one rounding of *acc* + *c* × Σ. -/
def cellConst (int : Bool) (c : Num) (l : List Num) (acc : Nat) : Nat × Exc :=
  if int then (ofSigned 32 (toSigned 32 acc + c.toInt .rtz * l.foldl (fun n v => n + v.toInt .rtz) 0), {})
  else
    let (p, i1) := Num.mul c (Num.sum .rne l).1
    let (x, i2) := Num.add .rne (FFmt.f32.read acc) p
    cellRound x (i1 || i2)

/-! ## Bands as lists (R31) -/

/-- `n` elements of a band from element `k` on. -/
def denseFrom : Sparse 32 → Nat → Nat → List Word
  | _, _, 0 => []
  | [], k, n + 1 => 0 :: denseFrom [] (k + 1) n
  | (i, v) :: m, k, n + 1 => if i = k then v :: denseFrom m (k + 1) n else 0 :: denseFrom ((i, v) :: m) (k + 1) n

/-- The 32 × 128 elements of a band, row by row. -/
def Band.dense (b : Band) : List Word := denseFrom b.e 0 4096

/-- Elements from a number on as a sparse map. -/
def sparseOf : Nat → List Word → Sparse 32
  | _, [] => []
  | k, v :: l => if v = 0 then sparseOf (k + 1) l else (k, v) :: sparseOf (k + 1) l

/-! ## Elision (R161 to R167) -/

/-- The physical address of the tracked usable tile that holds a row and a byte column of a tensor (R162); none where there is no such tile. -/
def State.tileHome (s : State) (c : Nat) (x : Tensor) (row0 b0 : Nat) : Option Nat :=
  let cols := tileCols x.fmt; let tc := b0 / 256
  if x.trk && x.fmt != 9 && !x.mx && decide (row0 + 32 ≤ x.rows) && decide ((tc + 1) * cols ≤ x.cols) then
    match s.engPage c (x.byteAddr row0 (256 * tc)) false false with
    | .error _ => none
    | .ok p =>
      let a := p.phys (x.byteAddr row0 (256 * tc))
      if a % 8192 = 0 && p.kind = 2 && s.trackFmt a == some x.fmt then some a else none
  else none

/-- The directory entry of the tracked usable tile that holds a row and a byte column of a tensor (R162); zero, that is general with FIN 0, for any other
tile. -/
def State.tileEntry (s : State) (c : Nat) (x : Tensor) (row0 b0 : Nat) : Nat :=
  match s.tileHome c x row0 b0 with
  | some a => let e := (Sparse.read s.dir (a / 8192)).toNat; if nbits e 11 4 = x.fmt then e else 0
  | none => 0

/-- What the team's L1s hold of a tracked usable tile goes home before the tile and its entry are read in one step (R161, R179). -/
def State.tileEvict (s : State) (t : Team) (x : Tensor) (row0 b0 : Nat) : State :=
  match s.tileHome t.ctx x row0 b0 with
  | some a => s.teamEvict t a 8192
  | none => s

/-- How a quarter is decided (R164 to R167). -/
inductive Elide where
  | zero
  | identity
  | constA (c : Num)
  | constB (c : Num)
  | full
  deriving DecidableEq, Repr

/-- FIN of an entry. -/
def dirFin (e : Nat) : Bool := nbit e 10

/-- The value of a constant tile (R166). -/
def dirConst (code e : Nat) : Num := readCode code (nbits e 32 32) false false []

/-- The decision for one member's A tile against one quarter of B. -/
def elide (sem : Nat) (reassoc : Bool) (codeA codeB eA eB : Nat) : Elide :=
  let one (x : Nat) (cls : Nat) (y : Nat) : Bool := dirClass x == cls && dirFin y
  if (sem = 0 || sem = 4) && (one eA 1 eB || one eB 1 eA) then .zero
  else if sem = 0 && one eA 3 eB then .identity
  else if sem = 0 && reassoc && one eA 2 eB then .constA (dirConst codeA eA)
  else if sem = 0 && reassoc && one eB 2 eA then .constB (dirConst codeB eB)
  else .full

/-! ## A joint operation (R157, R163) -/

/-- What a joint operation does to one output. -/
def outCell (sem : Nat) (int : Bool) (c : Nat) (d : Elide) (a b : List Num) (acc : Nat) : Nat × Exc :=
  match d with
  | .zero => (acc, {})
  | .constA v => cellConst int v b acc
  | .constB v => cellConst int v a acc
  | .identity | .full => cell sem int c a b acc

/-- Is an output suspect (R52)? Only those of plus-times that were computed in full are checked. -/
def suspect (sem : Nat) (int : Bool) (d : Elide) (sum : EB) (x y : Nat) : Bool :=
  let rd (n : Nat) : Num := if int then Num.ofInt (toSigned 32 n) else FFmt.f32.read n
  sem == 0 && d == .full && !(rd y).isNan && (EB.of (rd y)).gt ((EB.of (rd x)).max sum).succ

/-- A band after a joint operation, and the number of its suspect elements. -/
def bandJoint (sem : Nat) (int : Bool) (c : Nat) (ds : List Elide) (oa ob : Operand) (sum : EB) (b : Band) : Band × Nat :=
  let old := b.dense
  let brows := ob.rows.zipIdx.map (fun (r, j) => (r, nth .full ds (j / 32)))
  let cells := (oa.rows.flatMap (fun ra => brows.map (fun (rb, d) => (ra, rb, d)))).zip old
  let new : List ((Nat × Exc) × Bool) := cells.map (fun ((ra, rb, d), x) =>
    let y := outCell sem int c d ra rb x.toNat
    (y, suspect sem int d sum x.toNat y.1))
  let e : Exc := new.foldl (fun e n => e.or n.1.2) {}
  let n := (new.filter (fun n => n.2)).length
  let elided := (ds.filter (fun d => d != .full)).length
  ({ b with e := sparseOf 0 ((new.map (fun n => BitVec.ofNat 32 n.1.1)).take 4096)
            nv := b.nv || e.inv, of := b.of || e.of, uf := b.uf || e.uf, sus := b.sus || n != 0, elq := min (2 ^ 32 - 1) (b.elq + elided) }, n)

/-- The band of a member whose quarters are all elided under R164. -/
def bandSkip (b : Band) : Band := { b with elq := min (2 ^ 32 - 1) (b.elq + 4) }

/-- Add to the suspect counter of a context, which saturates (R172). -/
def State.addSusp (s : State) (c n : Nat) : State := if n = 0 then s else s.setCtxField c 384 64 (min (2 ^ 64 - 1) (s.ctxField c 384 64 + n))

/-- ELIDE-REASSOC of a context (R214). -/
def CtxSt.reassoc (c : CtxSt) : Bool := c.cflags.getLsbD 1

/-- A member's A operand as fetched, or its failure; members that elide everything under R164 fetch nothing. -/
abbrev AFetch := Member × List Elide × Option (Except EErr Operand)

/-- The entry at the head of a `qmat` has been performed. -/
def State.matDone (s : State) (t h seq : Nat) : State := (s.modHalf t h (fun y => { y with qmat := dropEntry y.qmat seq })).moved t

/-- A `qmat` entry is held on a page with its record (R163); while the fault queue has no room it is tried again. -/
def State.matHold (s : State) (t : Team) (h : Nat) (e : Entry) (done : Nat) (err : EErr) : State :=
  match s.engHold t h e.wave 4 err with
  | none => s
  | some s1 => s1.modHalf t.id h (fun y => { y with qmat := modEntry y.qmat e.seq (fun x => { x with done := done, held := some (faultPage err.2.2) }) })

/-- Set POI in bands. -/
def State.setPoi (s : State) (t h : Nat) (bs : List Nat) : State := bs.foldl (fun a b => a.modBand t h b (fun x => { x with poi := true })) s

/-- The results of a joint operation whose operands are fetched reach the bands of the members that did not fail. -/
def State.jointWrite (s : State) (t : Team) (h sem : Nat) (int : Bool) (c k : Nat) (tb : Tensor) (ob : Operand) (l : List AFetch) : State :=
  l.foldl (fun a (m, ds, r) =>
    match r with
    | none => a.modBand t.id h m.band bandSkip
    | some (.error _) => a
    | some (.ok oa) =>
      let cbs := (s.half? t.id h).elim [] (·.cbs)
      let sum := EB.sum (operandBound m.ta (nth [] cbs m.ta.cb) oa) (operandBound tb (nth [] cbs tb.cb) ob) k
      let (b, n) := bandJoint sem int c ds oa ob sum (nth {} ((a.half? t.id h).elim [] (·.bands)) m.band)
      let trap := n != 0 && (a.ctx t.ctx).susTrap
      (a.modBand t.id h m.band (fun _ => { b with trap := b.trap || trap })).addSusp t.ctx n) s

/-- MATRIX_JOINT_OPERATION (R157, R160 to R167). DEDUCED, log entry 46. -/
def State.jointOp (s0 : State) (t : Team) (h : Nat) (e : Entry) (mmx : Bool) (v codes : Nat) (tb : Tensor) (cb : Nat) (ms : List Member) : State :=
  let fa := codes / 16; let k := kOf mmx fa; let c := chunkOf mmx fa; let sem := if mmx then v else 0
  let int := fa = 8 && codes % 16 = 8
  let col (x : Nat) : Nat := k * (x / 65536 % 65536)
  let b0 (x : Tensor) (crd : Nat) : Nat := col crd * slotBits x.fmt / 8
  let s := ms.foldl (fun a m => a.tileEvict t m.ta (32 * (m.ca % 65536)) (b0 m.ta m.ca))
    ((List.range 4).foldl (fun a q => a.tileEvict t tb (128 * (cb % 65536) + 32 * q) (b0 tb cb)) s0)
  let eBs := (List.range 4).map (fun q => s.tileEntry t.ctx tb (128 * (cb % 65536) + 32 * q) (b0 tb cb))
  let decide_ (m : Member) : List Elide :=
    let eA := s.tileEntry t.ctx m.ta (32 * (m.ca % 65536)) (b0 m.ta m.ca)
    eBs.map (fun eB => elide sem (s.ctx t.ctx).reassoc m.ta.fmt tb.fmt eA eB)
  let plan := ms.map (fun m => (m, decide_ m))
  let skip (ds : List Elide) : Bool := ds.all (fun d => d == .zero)
  if plan.all (fun x => skip x.2) then (s.jointWrite t h sem int c k tb ⟨[], []⟩ (plan.map (fun (m, ds) => (m, ds, none)))).matDone t.id h e.seq
  else
    match s.operand t h tb (128 * (cb % 65536)) 128 (col cb) k with
    | .error er =>
      if er.1 = 4 then s.matHold t h e 0 er
      else
        (match s.engFail t h e.wave 4 0 er with
         | none => s
         | some s1 => if (s1.team? t.id).isNone then s1 else (if er.1 = 0x0C then s1.setPoi t.id h (ms.map (·.band)) else s1).matDone t.id h e.seq)
    | .ok (ob, s1) =>
      let (l, s2) := plan.foldl (fun (acc : List AFetch × State) (m, ds) =>
        if skip ds then (acc.1 ++ [(m, ds, none)], acc.2)
        else match acc.2.operand t h m.ta (32 * (m.ca % 65536)) 32 (col m.ca) k with
          | .ok (oa, a) => (acc.1 ++ [(m, ds, some (.ok oa))], a)
          | .error er => (acc.1 ++ [(m, ds, some (.error er))], acc.2)) ([], s1)
      let fails := l.filterMap (fun (m, _, r) => match r with | some (.error er) => some (m, er) | _ => none)
      match fails.find? (fun x => x.2.1 == 4), fails with
      | some (_, er), _ => s2.matHold t h e 0 er
      | none, [] => (s2.jointWrite t h sem int c k tb ob l).matDone t.id h e.seq
      | none, (_, er) :: _ =>
        let first := (fails.find? (fun x => x.2.1 == 0x0C && s2.replaying t.serial)).elim er (·.2)
        match s2.engFail t h e.wave 4 0 first with
        | none => s
        | some s3 =>
          if (s3.team? t.id).isNone then s3
          else ((s3.setPoi t.id h ((fails.filter (fun x => x.2.1 == 0x0C)).map (fun x => x.1.band))).jointWrite t h sem int c k tb ob l).matDone t.id h e.seq

/-! ## `mmld`, `mmst`, `cbld` (R163, R169, R170, R173) -/

/-- The checks of every part of a row's range before it is read. -/
def State.rowPages (s : State) (t : Team) (a n : Nat) : Except EErr Unit := (pieces a n).forM (fun (x, _) => do let _ ← s.engPage t.ctx x false false)

/-- The elements of a row in a format, as FP32 or raw bits (R169); those of a poisoned part are canonical NaNs. DEDUCED, log entry 45. -/
def State.bandRow (s : State) (t : Team) (h code a : Nat) (scratch : Bool) : List Word × Bool × State :=
  let w := bandBytes code
  let conv (x : Nat) : Word := BitVec.ofNat 32 (if code = 0xA then x else (writeF .f32 .rne false false (readCode code x false false [])).1)
  let elems (v n : Nat) : List Word := (List.range (n / w)).map (fun i => conv (nbits v (8 * w * i) (8 * w)))
  if scratch then (elems ((s.half? t.id h).elim 0 (fun y => y.scr.nat a (128 * w))) (128 * w), false, s)
  else
    (pieces a (128 * w)).foldl (fun (l, p, b) (x, n) =>
      match b.teamGet t x n false with
      | .ok (v, b1) => (l ++ elems v n, p, b1)
      | .error _ => (l ++ List.replicate (n / w) 0x7FC00000#32, true, b)) ([], false, s)

/-- MMLD_PERFORM (R169): a protection failure leaves the band as it was. DEDUCED, log entry 45. -/
def State.mmldOp (s : State) (t : Team) (h : Nat) (e : Entry) (band code addr stride dest wave : Nat) (scratch : Bool) (lanes : List Nat) : State :=
  let fin (a : State) (v : Nat) : State := (lanes.foldl (fun b i => b.deliver t.id wave i false dest false v 0) a).matDone t.id h e.seq
  let rows := (List.range 32).map (fun r => (addr + stride * r) % 2 ^ 64)
  match if scratch then .ok () else rows.forM (fun a => s.rowPages t a (128 * bandBytes code)) with
  | .error er => if er.1 = 4 then s.matHold t h e 0 er else fin s 0x05
  | .ok _ =>
    let (l, poi, s1) := rows.foldl (fun (l, p, b) a => let (x, q, b1) := b.bandRow t h code a scratch; (l ++ x, p || q, b1)) (([] : List Word), false, s)
    fin (s1.modBand t.id h band (fun _ => { e := sparseOf 0 l, poi := poi })) (if poi then 0x0C else 0)

/-- The bytes of a row of a band in a format (R170). -/
def rowBytesOf (code : Nat) (fmt : Word) (l : List Word) : List Byte :=
  let fm := Fmt.of fmt; let w := bandBytes code
  l.flatMap (fun x => leBytes w (if code = 0xA then x.toNat else (writeCode code (FFmt.f32.readZ fm.ftz x.toNat) false fm.rm fm.sat fm.ftz []).1))

/-- A store of an `mmst` entry to device memory once its page is known to admit it (R170): one that meets a poisoned line or a die that does not answer has no effect and is reported,
and the entry goes on (R127); the failure when that report finds no room. DEDUCED, log entry 25. -/
def State.mmstPut (s : State) (t : Team) (e : Entry) (h a : Nat) (bs : List Byte) (poi : Bool) : Except EErr State :=
  match s.teamPut t e.poster (engWriter (t.halfCore h)) a bs false poi with
  | .ok s1 => .ok s1
  | .error er => if er.1 = 4 || er.1 = 5 then .error er else match s.engReport t h e.wave 4 0 er with | some s1 => .ok s1 | none => .error er

/-- A row of an `mmst`: the checks of every page that it touches, then a store to each line. -/
def State.mmstRow (s : State) (t : Team) (e : Entry) (h a : Nat) (bs : List Byte) (poi : Bool) : Except EErr State := do
  (pieces a bs.length).forM (fun (x, _) => do let _ ← s.engPage t.ctx x true false)
  (pieces a bs.length).foldl (fun r (x, k) => do
    let s1 ← r
    s1.mmstPut t e h x ((bs.drop (x - a)).take k) poi) (.ok s)

/-- The rows of an `mmst` from one on. -/
def State.mmstRows (t : Team) (e : Entry) (h code addr stride : Nat) (scratch poi : Bool) (fmt : Word) : List (List Word) → Nat → State → State × Nat × Option EErr
  | [], r, s => (s, r, none)
  | x :: l, r, s =>
    let bs := rowBytesOf code fmt x; let a := (addr + stride * r) % 2 ^ 64
    if scratch then State.mmstRows t e h code addr stride scratch poi fmt l (r + 1) (s.teamScr t e.poster h a bs)
    else if (s.team? t.id).isNone then (s, r, none)
    else
      match s.mmstRow t e h a bs poi with
      | .ok s1 => State.mmstRows t e h code addr stride scratch poi fmt l (r + 1) s1
      | .error er => (s, r, some er)

/-- MMST_PERFORM (R170): plain stores in row order. -/
def State.mmstOp (s : State) (t : Team) (h : Nat) (e : Entry) (band code addr stride : Nat) (scratch : Bool) (fmt : Word) : State :=
  let b : Band := nth {} ((s.half? t.id h).elim [] (·.bands)) band
  match State.mmstRows t e h code addr stride scratch b.poi fmt ((chunks 128 32 b.dense).drop e.done) e.done s with
  | (s1, _, none) => if (s1.team? t.id).isNone then s1 else s1.matDone t.id h e.seq
  | (s1, r, some er) =>
    if er.1 = 4 then
      (match s1.engHold t h e.wave 4 er with
       | none => s1.modHalf t.id h (fun y => { y with qmat := modEntry y.qmat e.seq (fun x => { x with done := r }) })
       | some _ => s1.matHold t h e r er)
    else
      match s1.engReport t h e.wave 4 0 er with
      | none => s1.modHalf t.id h (fun y => { y with qmat := modEntry y.qmat e.seq (fun x => { x with done := r }) })
      | some s2 => if (s2.team? t.id).isNone then s2 else s2.matDone t.id h e.seq

/-- CBLD_COMPLETE (R173): the codebook is loaded and the waiting group goes on; any failure but translation is a cause of its lanes. -/
def State.cbldOp (s : State) (t : Team) (h : Nat) (e : Entry) (n addr wave id : Nat) (scratch : Bool) : State :=
  match if scratch then .ok ((s.half? t.id h).elim 0 (fun y => y.scr.nat addr 32), s) else s.teamGet t addr 32 false with
  | .ok (v, s1) =>
    let s2 := (s1.modHalf t.id h (fun y => { y with cbs := y.cbs.set n ((List.range 16).map (fun i => BitVec.ofNat 16 (v / 65536 ^ i))) })).matDone t.id h e.seq
    (match s2.pend? id with
     | some (_, _, x) => (s2.dropPend t.id wave id).pendGo t.id wave x none
     | none => s2)
  | .error er =>
    if er.1 = 4 then s.matHold t h e 0 er
    else
      let s2 := s.matDone t.id h e.seq
      match s2.pend? id with
      | some (_, _, x) => (s2.dropPend t.id wave id).pendCause t.id wave x er.1 er.2.1 er.2.2
      | none => s2

/-! ## The array's turns (R175) -/

/-- The kinds of `qmat` entries that fetch. -/
inductive MatKind where
  | joint | mmld | mmst | cbld
  deriving DecidableEq, Repr

/-- The kind of an entry. -/
def Work.matKind : Work → Option MatKind
  | .joint .. => some .joint
  | .mmld .. => some .mmld
  | .mmst .. => some .mmst
  | .cbld .. => some .cbld
  | _ => none

/-- The entry that a core's array serves (R175): the oldest head of the `qmat` queues of its resident teams that is not held and may begin. DEDUCED, log entry 47. -/
def State.nextMat (s : State) (core : Nat) : Option (Team × Nat × Entry) :=
  (s.teams.flatMap (fun t =>
    if t.place = .resident then
      t.halves.zipIdx.filterMap (fun (y, h) =>
        if y.core = core then (match y.qmat with | e :: _ => if e.held.isNone && t.mayStart 4 e.seq then some (t, h, e) else none | [] => none) else none)
    else [])).foldl (fun b x => match b with | none => some x | some z => if x.2.2.seq < z.2.2.seq then some x else b) none

/-- The array serves an entry of a kind, when that is its next. DEDUCED, log entry 47. -/
def State.arrayTurn (s : State) (core : Nat) (k : MatKind) : State :=
  match s.nextMat core with
  | none => s
  | some (t, h, e) =>
    if e.work.matKind != some k then s
    else
      match e.work with
      | .joint mmx v codes tb cb ms => s.jointOp t h e mmx v codes tb cb ms
      | .mmld band code addr stride dest wave scr lanes => s.mmldOp t h e band code addr stride dest wave scr lanes
      | .mmst band code addr stride _ scr fmt => s.mmstOp t h e band code addr stride scr fmt
      | .cbld n addr wave id scr => s.cbldOp t h e n addr wave id scr
      | _ => s

end Sys2Proof.Machine
end

