-- ==== Sys2Proof/Machine/Accept.lean ====
section
/-!
DEFINITION. Launch queues and acceptance (R263 to R266, R269, R281, R89), contexts (R275), containers (R284, R290, R351) and the module's measurement registers.
-/

namespace Sys2Proof.Machine

/-! ## Containers (R284, R290) -/

/-- What the translator takes a function's code from (R284): a native section of the device's stepping, a portable level by its rank, or a native section of a foreign
stepping. -/
inductive CodeFrom where
  | native
  | level (rank : Nat)
  | foreign
  deriving DecidableEq, Repr

/-- The choice of R284: a native section of the device's own stepping; else the highest-ranked portable level that the translator understands; else foreign code. -/
def codeFrom (natives levels : List Nat) : CodeFrom :=
  if natives.contains Config.stepping.toNat then .native
  else match [3, 2, 1].find? (fun r => levels.contains r && Config.understands r) with
    | some r => .level r
    | none => .foreign

/-- The number of a source for the translator: 0 native, 1 to 3 the rank, 4 foreign. -/
def CodeFrom.code : CodeFrom → Nat
  | .native => 0 | .level r => r | .foreign => 4

/-- A function of a container from the numbers that the translator gives: its directives, then its landing entries as pairs; and where its code came from. -/
def Func.ofList (l : List Nat) (c : CodeFrom) : Func :=
  let g := nth 0 l
  { entry := g 0, regs := g 1, bands := g 2, scratch := g 3, param := g 4, wave := g 5, twin := g 6 == 1, codeLo := g 7, codeHi := g 8
    lands := (List.range ((l.length - 9) / 2)).map (fun i => (g (9 + 2 * i), g (10 + 2 * i))), foreign := decide (c = .foreign) }

/-- The sources of a container's functions (R283, R284). -/
def sourcesOf (bs : List Byte) : List CodeFrom := (Config.containerLevels bs).map (codeFrom (Config.containerNatives bs))

/-- The functions that the translator makes of a container (R284). -/
def functionsOf (bs : List Byte) : List Func := ((Config.translate bs ((sourcesOf bs).map CodeFrom.code)).zip (sourcesOf bs)).map (fun (l, c) => Func.ofList l c)

/-- The firmware-reserved address of a load slot's code on a die, in the die's die-local pool (R290). -/
def codeAt (slot die : Nat) : Nat := 0x1000000000 + die * 0x400000000 + 65536 * (Config.codePage slot die % 0x40000)

/-- Write a die's copy of translated code; the writes toward a die that is not served are cut off (R336). -/
def State.codeCopy (s : State) (die pa : Nat) (bs : List Byte) : State :=
  if s.served die then { s with mem := Sparse.writeList s.mem pa bs }
  else
    let m : Mem := Sparse.writeList [] pa bs
    (linePieces pa bs.length).foldl (fun a (p, n) => a.cutWrite p n (fun b => { b with mem := Sparse.writeList b.mem p (Sparse.readList m p n) })) s

/-- The code of a load slot is written, one copy in each die's die-local pool (R290). -/
def State.putCode (s : State) (slot : Nat) (bs : List Byte) : State :=
  { (List.range 4).foldl (fun a d => a.codeCopy d (codeAt slot d) bs) s with
    codes := ⟨slot, bs.length, (List.range 4).map (codeAt slot)⟩ :: s.codes.filter (fun c => c.slot != slot) }

/-- The container of a handle; none for a stale handle (R290). -/
def State.container? (s : State) (h : Nat) : Option Container :=
  match s.conts[h % 65536]? with
  | some c => if c.loaded && c.gen == h / 65536 % 65536 then some c else none
  | none => none

/-- The function of a launch entry (R265). -/
def State.func? (s : State) (cont fn : Nat) : Option Func := (s.container? cont).bind (fun c => c.funcs[fn]?)

/-- CONTAINER_LOAD (R284, R351): the container in device memory is verified against the container keys, measured into register 5 and translated, and its handle
is returned; bytes that do not answer, or answer poisoned, are no container (R324, R336). -/
def State.containerLoad (s : State) (addr size : Nat) : State :=
  let bs := Sparse.readList s.mem addr size
  match (List.range s.conts.length).find? (fun i => !(nth {} s.conts i).loaded) with
  | none => s
  | some i =>
    if s.halted || !s.homesUp addr size || s.poisoned addr size || !(s.mx.keys.any (fun k => Config.signatureOk bs k)) then s
    else
      let c := nth {} s.conts i
      ({ s with mx := s.mx.extend 5 (sha3_512 bs), readOut := leBytes 4 (i + c.gen * 65536)
                conts := s.conts.set i { c with loaded := true, funcs := functionsOf bs } } : State).putCode i (Config.translateCode bs ((sourcesOf bs).map CodeFrom.code))

/-- CONTAINER_UNLOAD (R290): the slot's generation rises. -/
def State.containerUnload (s : State) (h : Nat) : State :=
  if s.halted || (s.container? h).isNone then s
  else { s with conts := modNth s.conts (h % 65536) (fun c => { c with loaded := false, funcs := [], gen := (c.gen + 1) % 65536 }) }

/-! ## Launch entries (R264) -/

/-- The extent of the grid in teams: *N*. -/
def entTeams (e : Nat) : Nat := nbits e 64 32 * nbits e 96 32 * nbits e 128 32
/-- LANES. -/
def entLanes (e : Nat) : Nat := nbits e 160 16
/-- The wave width that WIDTH names. -/
def entWidth (e : Nat) : Nat := match nbits e 176 2 with | 0 => 16 | 1 => 32 | 2 => 64 | _ => 0
/-- PRIO. -/
def entPrio (e : Nat) : Nat := nbits e 178 6
/-- UNPARK. -/
def entUnpark (e : Nat) : Bool := nbit e 185
/-- TWIN. -/
def entTwin (e : Nat) : Bool := nbit e 186
/-- MAP. -/
def entMap (e : Nat) : Nat := nbits e 187 2
/-- PARAM. -/
def entParam (e : Nat) : Nat := nbits e 192 56
/-- PSIZE. -/
def entPsize (e : Nat) : Nat := nbits e 256 13
/-- WAIT. -/
def entWait (e : Nat) : Nat := nbits e 320 64
/-- WVAL. -/
def entWval (e : Nat) : Nat := nbits e 384 64
/-- SIG. -/
def entSig (e : Nat) : Nat := nbits e 448 64

/-- The dies that MAP allows team `t` (R264). -/
def entDies (e t : Nat) : List Nat :=
  match entMap e with
  | 1 => [t % 4]
  | 2 => [4 * t / max 1 (entTeams e)]
  | _ => [0, 1, 2, 3]

/-! ## The storage of a team (R19, R31, R229, R238, R280) -/

/-- What a team of a launch takes: wave width, allocated registers, scratchpad bytes and bands of a half, the waves of each half, and the landing entries with the function
that names them. -/
structure Shape where
  width : Nat
  alloc : Nat
  scr : Nat
  bands : Nat
  waves : List Nat
  lands : Nat
  key : Nat
  deriving DecidableEq, Repr

/-- The waves of each half of a team (R216): of a twin's waves the lower half takes the first half, rounded up; only the team's last wave can be partial. DEDUCED, log entry 50. -/
def halfWaves (e width : Nat) : List Nat :=
  let n := (entLanes e + width - 1) / max 1 width
  if entTwin e then [(n + 1) / 2, n / 2] else [n]

/-- The shape of the teams of a launch. -/
def shapeOf (e : Nat) (f : Func) : Shape :=
  { width := f.wave, alloc := roundUp 8 f.regs, scr := roundUp 256 f.scratch + 256 * nbits e 304 16, bands := f.bands
    waves := halfWaves e f.wave, lands := f.lands.length, key := e % 2 ^ 64 }

/-- The bytes of registers of a wave (R19). -/
def Shape.waveBytes (x : Shape) : Nat := x.alloc * x.width * 4
/-- The register bytes of a quadrant (R19). -/
def quadBytes : Nat := 262144
/-- The scratchpad bytes of a core. -/
def coreScr : Nat := 0x180000
/-- The bands of a core. -/
def coreBands : Nat := 256

/-- Would a core alone hold each half (R229)? -/
def Shape.fitsAlone (x : Shape) : Bool :=
  x.waveBytes != 0 && decide (x.waveBytes ≤ quadBytes) && decide (x.scr ≤ coreScr) && decide (x.bands ≤ coreBands) &&
  x.waves.all (fun n => decide (n ≤ 64) && decide (n ≤ 4 * (quadBytes / x.waveBytes)))

/-- The image size of a team (R280). -/
def Shape.image (x : Shape) : Nat :=
  (x.waves.map (fun W =>
    256 + W * 4096 + W * 512 + roundUp 256 (W * x.waveBytes) + roundUp 256 (W * x.alloc * x.width * 2) + roundUp 256 (W * 18 * x.width * 4) +
      roundUp 256 (x.bands * 16416) + 256 + roundUp 256 x.scr + 4096)).foldl (· + ·) 0

/-! ## The checks of acceptance (R265, R275) -/

/-- Does a context record hold only what R275 admits? -/
def State.recordOk (s : State) (c : Nat) : Bool :=
  let f := s.ctxField c
  (s.ctx c).reg && f 1280 768 == 0 && nbits (f 864 32) 1 31 == 0 && f 832 32 < 16 && f 736 32 == 0 && f 200 24 == 0 &&
  decide (5 ≤ f 192 8 ∧ f 192 8 ≤ 20) && f 1248 32 != 0 && f 1216 32 != 0

/-- The fields of an entry that error 0x80 looks at; the directives of its function are looked at when it names one. -/
def entFieldsOk (e : Nat) (f : Option Func) : Bool :=
  nbits e 296 8 == 0 && nbits e 269 19 == 0 && nbits e 248 8 == 0 && nbits e 189 3 == 0 &&
  nbits e 176 2 != 3 && entMap e != 3 && nbits e 64 32 != 0 && nbits e 96 32 != 0 && nbits e 128 32 != 0 &&
  entLanes e != 0 && decide (entLanes e ≤ if entTwin e then 2048 else 1024) && entSig e % 8 == 0 && entWait e % 8 == 0 && entParam e % 8 == 0 &&
  (match f with | some f => entWidth e == f.wave && entPsize e == f.param | none => true)

/-- The landing entries of a function meet R89 and fit the table. -/
def landsOk (f : Func) : Bool :=
  let inside (a : Nat) : Bool := a % 16 == 0 && decide (f.codeLo ≤ a ∧ a < f.codeHi)
  decide (f.lands.length ≤ 512) && f.lands.all (fun (a, b) => inside a && inside b && decide (a < b)) &&
  f.lands.zipIdx.all (fun ((a, b), i) => (f.lands.drop (i + 1)).all (fun (c, d) =>
    a != c && (decide (b ≤ c) || decide (d ≤ a) || decide (a ≤ c ∧ d ≤ b) || decide (c ≤ a ∧ b ≤ d))))

/-- Is a word of device memory a head (R53), as the context maps the code of a function? A word that cannot be read is none: the manual does not say what then becomes of the
entry. DESIGN CHOICE, log entry 99. -/
def State.headAt (s : State) (c va : Nat) : Bool :=
  match s.engRead c va 4 with
  | .ok (v, _) => nbit v 31
  | .error _ => false

/-- Every site and landing is a head (R89). -/
def State.landHeads (s : State) (c : Nat) (f : Func) : Bool := f.lands.all (fun (a, b) => s.headAt c a && s.headAt c b)

/-- The context's handler address may be entered (R265). -/
def State.handlerOk (s : State) (c : Nat) : Bool :=
  let a := s.handlerAddr c
  a == 0 || (a % 16 == 0 && decide (a < 2 ^ 56) && (match s.walk c a with | .page p => p.x | _ => false))

/-- The wait counter as read at system scope (R266), with the state after the read; a cause when it fails. -/
def State.waitRead (s : State) (c e : Nat) : Except Nat (Nat × State) :=
  match s.engRead c (entWait e) 8 with
  | .ok r => .ok r
  | .error (k, _) => .error k

/-- The host's parameters of an entry (R265, R134): every page must translate. -/
def State.hostParams (s : State) (c a n : Nat) : Except Nat (List Byte × State) :=
  let fn := (s.ctx c).fn
  let pages := (List.range ((a + n - 1) / 4096 - a / 4096 + 1)).map (fun i => a / 4096 + i)
  let s1 := pages.foldl (fun a p => a.atsFill fn p) s
  if pages.all (fun p => s1.hostOk fn (p * 4096) false) then .ok (leBytes n (s1.hostRead a n), s1) else .error 0x04

/-- The parameters of an entry, from device memory where the context maps PARAM, else from the host (R264, R265); a cause when the read faults. -/
def State.paramRead (s : State) (c e : Nat) : Except Nat (List Byte × State) :=
  let n := entPsize e; let a := entParam e
  if n = 0 then .ok ([], s)
  else
    match s.walk c a with
    | .absent => s.hostParams c a n
    | _ =>
      (pieces a n).foldlM (fun (l, a) (b, k) => match a.engRead c b k with
        | .ok (v, a1) => .ok (l ++ leBytes k v, a1)
        | .error (k, _) => .error k) (([] : List Byte), s)

/-- Did a read fail, and by the loss of a majority? -/
def readFails {α : Type} (r : Except Nat α) : Bool := match r with | .ok _ => false | .error _ => true
/-- Was a majority lost? -/
def readLost {α : Type} (r : Except Nat α) : Bool := match r with | .ok _ => false | .error k => k == 0x12

/-- The first error of an entry (R265), 0 for none. -/
def State.acceptError (s : State) (c e : Nat) : Nat :=
  let f := s.func? (nbits e 0 32) (nbits e 32 32)
  if !s.recordOk c || !entFieldsOk e f then 0x80
  else
    match f with
    | none => 0x81
    | some f =>
      let x := shapeOf e f
      if entTeams e > 2 ^ 31 - 1 then 0x82
      else if !x.fitsAlone || (decide (f.bands > 64) && !entUnpark e) || entTwin e != f.twin || decide (x.image > s.ctxField c 1216 32 * 4096) then 0x83
      else if readFails (s.paramRead c e) then 0x84
      else if !s.handlerOk c then 0x85
      else if (entWait e != 0 && readFails (s.waitRead c e)) ||
              (entSig e != 0 && (match s.xlate c (entSig e) true with | .ok _ => false | .bad _ _ => true)) then 0x86
      else if !landsOk f || !s.landHeads c f then 0x15
      else 0

/-! ## Queues (R263) -/

/-- A queue of the module. -/
def State.queue (s : State) (q : Nat) : QueueSt := nth {} s.queues q

/-- Change a queue. -/
def State.modQueue (s : State) (q : Nat) (f : QueueSt → QueueSt) : State := { s with queues := modNth s.queues q f }

/-- Read a queue block afresh when that is due. -/
def State.queueRead (s : State) (q : Nat) : State :=
  let x := s.queue q
  if x.read then s
  else
    let n := s.devRead x.addr 64
    s.modQueue q (fun x =>
      { x with read := true, head := nbits n 64 64, seen := nbits n 64 64, base := nbits n 128 64, depth := nbits n 192 32, ctx := nbits n 224 6
               notify := nbit n 230, age := nbits n 256 32, vec := nbits n 288 16 })

/-- May the next Logbook record be written: the one it overwrites belongs to a launch in a final state (R269)? DEDUCED, log entry 61. -/
def State.logFree (s : State) : Bool := match s.launch? (s.nextSerial - 4096) with | some l => l.st.final | none => true

/-- Write the Logbook record of an accepted entry and advance HEAD (R265, R269). -/
def State.record (s : State) (q ent err det : Nat) (fn : Func) (params : List Byte) (waitOk : Bool) : State :=
  let n := s.nextSerial; let x := s.queue q
  let l : Launch :=
    { serial := n, queue := q, index := x.head, ctx := x.ctx, ent := ent, fn := fn, st := if err = 0 then .accepted else .failed, err := err, detail := det
      tacc := s.ns, tend := if err = 0 then 0 else s.ns, params := params, waitOk := waitOk }
  let s1 := ({ s with launches := s.launches.filter (fun (y : Launch) => y.serial + 4096 != n) ++ [l], nextSerial := n + 1 } : State).logPut n
  let s2 := (s1.modQueue q (fun x => { x with head := x.head + 1 })).devWrite 0 (x.addr + 8) (leBytes 8 (x.head + 1)) false
  if err = 0 then s2 else s2.notify q

/-- The function of an entry that names none. -/
def Func.none : Func := ⟨0, 0, 0, 0, 0, 0, false, 0, 0, [], false⟩

/-- A TAIL that moves backward, or runs more than DEPTH ahead of HEAD, stops the queue with one failed entry (R263). -/
def State.queueStop (s : State) (q : Nat) : State := (s.record q 0 0x80 1 Func.none [] false).modQueue q (fun x => { x with stop := true })

/-- Observe TAIL: the state, and whether an entry is there to be accepted (R263). A block whose die answers ENDPOINT-DOWN shows nothing (R336). DEDUCED, log entry 106. -/
def State.observe (s0 : State) (q : Nat) : State × Bool :=
  let s := s0.queueRead q
  let x := s.queue q; let tail := s.devRead x.addr 8
  if !s0.homesUp x.addr 64 then (s0, false)
  else if tail < x.seen || tail > x.head + x.depth then (if s.logFree then (s.queueStop q, false) else (s0, false))
  else (s.modQueue q (fun x => { x with seen := tail }), decide (x.head < tail))

/-- Do the entry at HEAD of a queue and the record of its context answer (R336)? DEDUCED, log entry 106. -/
def State.entryUp (s : State) (q : Nat) : Bool :=
  let x := s.queue q
  s.homesUp (x.base + 64 * (x.head % x.depth)) 64 && (!(s.ctx x.ctx).reg || s.recordUp x.ctx)

/-- LAUNCH_ACCEPT (R263, R265): the entry at HEAD is accepted as one step; it waits while its parts do not answer (R336). -/
def State.accept (s : State) (q : Nat) : State :=
  let x0 := s.queue q
  if s.halted || !x0.reg || x0.stop || q ≥ 256 then s
  else
    match s.observe q with
    | (s1, false) => s1
    | (s1, true) =>
      if !s1.logFree || !s1.entryUp q then s1
      else
        let x := s1.queue q
        let e := s1.devRead (x.base + 64 * (x.head % x.depth)) 64
        let err := s1.acceptError x.ctx e
        let f := (s1.func? (nbits e 0 32) (nbits e 32 32)).getD Func.none
        if err != 0 then
          let lost := (err == 0x84 && readLost (s1.paramRead x.ctx e)) || (err == 0x86 && entWait e != 0 && readLost (s1.waitRead x.ctx e))
          (if lost then s1.logLoss 0 s1.nextSerial ioUnit 0 else s1).record q e err 0 f [] false
        else
          let (ps, s2) := match s1.paramRead x.ctx e with | .ok r => r | .error _ => ([], s1)
          let (ok, s3) := if entWait e = 0 then (true, s2) else (match s2.waitRead x.ctx e with | .ok (v, a) => (decide (v ≥ entWval e), a) | .error _ => (false, s2))
          s3.record q e 0 0 f ps ok

/-- Look at a queue's block after its registration or a restart (R263): a TAIL still out of range stops it at once. -/
def State.queueLook (s : State) (q : Nat) : State := (s.observe q).1

/-- QUEUE_REGISTER (R263, R347). -/
def State.queueRegister (s : State) (q addr : Nat) : State :=
  if s.halted || q ≥ 256 then s else (s.modQueue q (fun _ => { addr := addr, reg := true })).queueLook q

/-- QUEUE_RESTART (R263). -/
def State.queueRestart (s : State) (q : Nat) : State :=
  if s.halted || q ≥ 256 || !(s.queue q).reg then s else (s.modQueue q (fun x => { x with read := false, stop := false })).queueLook q

/-- CONTEXT_REGISTER (R275, R347): the record's address and the function assignment; the context starts with the record's CFLAGS, an empty seal table and free save
slots. A record that does not answer is not registered (R336). DEDUCED, log entry 106. -/
def State.contextRegister (s : State) (c addr fn : Nat) : State :=
  if s.halted || c ≥ 64 || fn ≥ 64 || !s.homesUp addr 256 then s
  else (s.modCtx c (fun _ => { addr := addr, reg := true, fn := fn, cflags := BitVec.ofNat 32 (Mem.nat s.mem (addr + 104) 4 % 16) }))

/-! ## Eligibility (R266, R267) -/

/-- The entry of a queue that is eligible: the first that is not in a final state, while it is ACCEPTED and its wait is over. -/
def State.eligible (s : State) (q : Nat) : Option Launch :=
  match (s.launches.filter (fun l => l.queue == q && !l.st.final)).foldl (fun (b : Option Launch) l => match b with
      | none => some l | some y => if l.index < y.index then some l else some y) none with
  | some l => if l.st = .accepted && l.waitOk then some l else none
  | none => none

/-- A queue's boost starts at 0 when an entry becomes eligible (R267): `a` is the state before the change. -/
def State.reboost (s a : State) (q : Nat) : State :=
  if (s.eligible q).map (·.serial) = (a.eligible q).map (·.serial) then s else s.modQueue q (fun x => { x with boost := 0 })

/-- WAIT_COUNTER_CHECK (R266): the counters of a queue's accepted entries are read again; one whose read fails has failed, and a majority lost is logged (R321). -/
def State.waitCheck (s : State) (q : Nat) : State :=
  if s.halted then s
  else
    (((s.launches.filter (fun l => l.queue == q && l.st = .accepted && entWait l.ent != 0)).map (·.serial)).foldl (fun a n =>
      match a.launch? n with
      | none => a
      | some l =>
        match a.waitRead l.ctx l.ent with
        | .ok (v, a1) => a1.modLaunch n (fun l => { l with waitOk := decide (v ≥ entWval l.ent) })
        | .error k => (if k = 0x12 then a.logLoss 0 n ioUnit 0 else a).endLaunch n .failed 0x86 k true) s).reboost s q

/-- The level of an eligible entry: its PRIO plus the queue's boost, up to 63 (R267). -/
def State.level (s : State) (l : Launch) : Nat := min 63 (entPrio l.ent + (s.queue l.queue).boost)

/-- QUEUE_AGE_BOOST (R267). DESIGN CHOICE, log entry 21. -/
def State.ageBoost (s : State) (q : Nat) : State :=
  match s.eligible q with
  | some l => if s.level l < 63 then s.modQueue q (fun x => { x with boost := x.boost + 1 }) else s
  | none => s

end Sys2Proof.Machine
end

