-- ==== Sys2Proof/Machine/Pack.lean ====
section
/-!
DEFINITION. What an image holds of a team besides registers and memories (R35, R233, R253, R280): the waiting engine entries, the active queues, the results in flight, the armed
watches, and of each wave the latch arrival, the waiting instructions and what its groups carry with them. The manual gives these sections no layout: here they are numbers, each as a
count of bytes and its bytes. DESIGN CHOICE, log entry 22.
-/

namespace Sys2Proof.Machine

/-! ## Numbers and lists of them -/

/-- The number of bytes of a number, up to `f`. -/
def byteLen : Nat → Nat → Nat
  | 0, _ => 0
  | f + 1, n => if n = 0 then 0 else byteLen f (n / 256) + 1

/-- A number in an image: the count of its bytes, then those. -/
def packNat (n : Nat) : List Byte := let k := byteLen 255 n; leBytes 1 k ++ leBytes k n

/-- Numbers in an image, one after another. DESIGN CHOICE, log entry 22. -/
def pack (l : List Nat) : List Byte := l.flatMap packNat

/-- The numbers that bytes of an image hold, at most `n`. -/
def unpack : Nat → List Byte → List Nat
  | 0, _ => []
  | _, [] => []
  | n + 1, b :: l => leNat (l.take b.toNat) :: unpack n (l.drop b.toNat)

/-- A reader of numbers. -/
abbrev Take := StateM (List Nat)

/-- The next number; 0 beyond the last. -/
def Take.nat : Take Nat := fun l => (l.headD 0, l.drop 1)

/-- The next number as a bit. -/
def Take.bool : Take Bool := do pure ((← Take.nat) != 0)

/-- A list, its length first. -/
def Take.many {α : Type} (f : Take α) : Take (List α) := do
  let n ← Take.nat
  let l ← get
  (List.range (min n l.length)).mapM (fun _ => f)

/-- Something that may be absent. -/
def Take.opt {α : Type} (f : Take α) : Take (Option α) := do if ← Take.bool then pure (some (← f)) else pure none

/-- The numbers of a list. -/
def manyNums {α : Type} (f : α → List Nat) (l : List α) : List Nat := l.length :: l.flatMap f

/-- The numbers of something that may be absent. -/
def optNums {α : Type} (f : α → List Nat) (x : Option α) : List Nat := match x with | none => [0] | some y => 1 :: f y

/-- The numbers of a list of numbers, and of a list of pairs. -/
def natNums (l : List Nat) : List Nat := manyNums (fun x => [x]) l
/-- The numbers of a list of pairs. -/
def pairNums (l : List (Nat × Nat)) : List Nat := manyNums (fun (a, b) => [a, b]) l
/-- A list of numbers. -/
def Take.nums : Take (List Nat) := Take.many Take.nat
/-- A list of pairs. -/
def Take.pairs : Take (List (Nat × Nat)) := Take.many (do pure (← Take.nat, ← Take.nat))

/-! ## Engine entries -/

/-- The record of a tensor, in the layout of R153. -/
def Tensor.word (t : Tensor) : Nat :=
  t.base + t.scale * 2 ^ 64 + t.rows * 2 ^ 128 + t.cols * 2 ^ 160 + t.stride * 2 ^ 192 + t.fmt * 2 ^ 224 + b2n t.mx * 2 ^ 228 + b2n t.trk * 2 ^ 229 + b2n t.tiled * 2 ^ 230 +
    t.space * 2 ^ 231 + t.cb * 2 ^ 233

/-- The numbers of a bin-set. -/
def BinSet.nums (d : BinSet) : List Nat := [d.th.word, d.op, d.rsl, d.bins, d.cap, d.sreg, d.bar]
/-- A bin-set. -/
def Take.binSet : Take BinSet := do
  pure { th := Tensor.of (← Take.nat), op := ← Take.nat, rsl := ← Take.nat, bins := ← Take.nat, cap := ← Take.nat, sreg := ← Take.nat, bar := ← Take.nat }

/-- The numbers of an entry's work. -/
def Work.nums : Work → List Nat
  | .index sc ew bar soff fill bound base items => [0, b2n sc, ew, bar, soff, fill, bound, base] ++ pairNums items
  | .fqplay n => [1, n]
  | .bput d ps => 2 :: d.nums ++ pairNums ps
  | .bplay d g => 3 :: d.nums ++ [g]
  | .wlpush ins f cs => [4, b2n ins, f] ++ natNums cs
  | .wlpop f sN dest wave lanes => [5, f, sN, dest, wave] ++ natNums lanes
  | .wlstat f dest wave lanes => [6, f, dest, wave] ++ natNums lanes
  | .smv w y row0 nrows bar ctr xs => [7, w.word, y.word, row0, nrows, bar, ctr] ++ pairNums xs
  | .joint mmx sem codes tb cb ms => [8, b2n mmx, sem, codes, tb.word, cb] ++ manyNums (fun m => [m.wave, m.band, m.ta.word, m.ca]) ms
  | .mmld band code addr stride dest wave scr lanes => [9, band, code, addr, stride, dest, wave, b2n scr] ++ natNums lanes
  | .mmst band code addr stride wave scr fmt => [10, band, code, addr, stride, wave, b2n scr, fmt.toNat]
  | .mmz b => [11, b]
  | .mmstat b dest wave lanes => [12, b, dest, wave] ++ natNums lanes
  | .cbld n addr wave id scr => [13, n, addr, wave, id, b2n scr]

/-- An entry's work; the number of a waiting instruction counts from `id0` on. -/
def Take.work (id0 : Nat) : Take Work := do
  match ← Take.nat with
  | 0 => pure (.index (← Take.bool) (← Take.nat) (← Take.nat) (← Take.nat) (← Take.nat) (← Take.nat) (← Take.nat) (← Take.pairs))
  | 1 => pure (.fqplay (← Take.nat))
  | 2 => pure (.bput (← Take.binSet) (← Take.pairs))
  | 3 => pure (.bplay (← Take.binSet) (← Take.nat))
  | 4 => pure (.wlpush (← Take.bool) (← Take.nat) (← Take.nums))
  | 5 => pure (.wlpop (← Take.nat) (← Take.nat) (← Take.nat) (← Take.nat) (← Take.nums))
  | 6 => pure (.wlstat (← Take.nat) (← Take.nat) (← Take.nat) (← Take.nums))
  | 7 => pure (.smv (Tensor.of (← Take.nat)) (Tensor.of (← Take.nat)) (← Take.nat) (← Take.nat) (← Take.nat) (← Take.nat) (← Take.pairs))
  | 8 => pure (.joint (← Take.bool) (← Take.nat) (← Take.nat) (Tensor.of (← Take.nat)) (← Take.nat)
      (← Take.many (do pure { wave := ← Take.nat, band := ← Take.nat, ta := Tensor.of (← Take.nat), ca := ← Take.nat })))
  | 9 => pure (.mmld (← Take.nat) (← Take.nat) (← Take.nat) (← Take.nat) (← Take.nat) (← Take.nat) (← Take.bool) (← Take.nums))
  | 10 => pure (.mmst (← Take.nat) (← Take.nat) (← Take.nat) (← Take.nat) (← Take.nat) (← Take.bool) (BitVec.ofNat 32 (← Take.nat)))
  | 11 => pure (.mmz (← Take.nat))
  | 12 => pure (.mmstat (← Take.nat) (← Take.nat) (← Take.nat) (← Take.nums))
  | _ => pure (.cbld (← Take.nat) (← Take.nat) (← Take.nat) (id0 + (← Take.nat)) (← Take.bool))

/-- The numbers of an entry. -/
def Entry.nums (e : Entry) : List Nat := [e.seq, e.wave] ++ e.work.nums ++ [e.done] ++ natNums e.vals ++ optNums (fun (a, _) => [a]) e.lock

/-- An entry: it is held on no page, and its posts count from `seq0` on; its wave's earlier loads have arrived. -/
def Take.entry (half id0 seq0 : Nat) : Take Entry := do
  pure { seq := seq0 + (← Take.nat), half := half, wave := ← Take.nat, work := ← Take.work id0, done := ← Take.nat, vals := ← Take.nums, lock := (← Take.opt Take.nat).map (fun a => (a, none)) }

/-! ## Active queues -/

/-- The numbers of an active queue (R181): for a copy ring its entries' counters and tensors too, which an entry keeps as read at issue (R178). -/
def Ring.nums (r : Ring) (copy : Bool) : List Nat :=
  [r.ctl, r.base, r.depth, r.head, r.tail, r.list, r.hdr] ++ (if copy then manyNums (fun x => [x.seq, x.wave] ++ optNums (fun a => [a]) x.ctr ++ [x.src.word, x.dst.word]) r.ents else [])

/-- An active queue of elements of `n` bytes, whose entries stand in the scratchpad at their places (R181). -/
def Take.ring (scr : Mem) (n : Nat) (copy : Bool) (seq0 : Nat) : Take Ring := do
  let r : Ring := { ctl := ← Take.nat, base := ← Take.nat, depth := ← Take.nat, head := ← Take.nat, tail := ← Take.nat, list := ← Take.nat, hdr := ← Take.nat }
  let xs : List QSlot ← if copy then Take.many (do
    pure { seq := seq0 + (← Take.nat), wave := ← Take.nat, ctr := ← Take.opt Take.nat, val := 0, src := Tensor.of (← Take.nat), dst := Tensor.of (← Take.nat) }) else pure []
  let slot (k : Nat) : Nat := Mem.nat scr (r.base + n * ((r.head + k) % r.depth)) n
  pure { r with ents := (List.range ((r.tail + 2 ^ 32 - r.head) % 2 ^ 32)).map (fun k =>
    if copy then { nth { seq := seq0, val := 0 } xs k with val := slot k % 2 ^ 233 } else { seq := 0, val := slot k }) }

/-! ## The engine state of a half -/

/-- A result in flight for a register (R35): wave, lane, destination, whether it is 64-bit, value, error mark. -/
structure Result where
  wave : Nat
  lane : Nat
  dest : Nat
  wide : Bool
  val : Nat
  mark : Nat
  deriving DecidableEq, Repr

/-- The results of stack engines that a half's waves of a team await. -/
def State.results (s : State) (t : Team) (h : Nat) : List Result :=
  (s.flights.filter (fun f => f.team == t.id && f.kind = .sred && f.dest.isSome && (t.waves[f.wave]?).any (fun w => w.half == h))).map (fun f =>
    ⟨f.wave, f.lane, f.dest.getD 0, f.wide, f.fixed.getD 0, f.mark⟩)

/-- The numbers of the engine section of half `h` (R280): how far the counters of transactions and posts have come, the half's queues, its watches, the results in flight; with the lower half
the team's fences, waiting watch fires and owed replay. DESIGN CHOICE, log entry 22. -/
def State.engineNums (s : State) (t : Team) (h : Nat) (y : Half) : List Nat :=
  let team := h = 0
  [s.nextId, s.seqNo, b2n y.ended, y.replay] ++ natNums y.bars ++ optNums (fun r => r.nums true) y.ring ++ (List.range 4).flatMap (fun i => optNums (fun r => r.nums false) (nth none y.fronts i)) ++
  optNums (fun r => r.nums false) y.faultQ ++ optNums (fun r => r.nums false) y.bins ++ [y.qidx, y.qbin, y.qwl, y.qstack, y.qmat].flatMap (manyNums Entry.nums) ++
  manyNums (fun w => [w.bar] ++ natNums w.vas ++ [b2n w.counter, w.target]) (t.watches.filter (fun w => w.half == h)) ++
  manyNums (fun r => [r.wave, r.lane, r.dest, b2n r.wide, r.val, r.mark]) (s.results t h) ++
  manyNums (fun x => [x.wave, x.sN, x.dest] ++ natNums x.lanes ++ natNums x.got ++ [x.mark]) (t.pops.filter (fun x => (t.waves[x.wave]?).any (fun w => w.half == h))) ++
  pairNums (if team then t.fences else []) ++ manyNums (fun (a, b, c) => [a, b, c]) (if team then t.fires else []) ++ [b2n (team && t.owed)]

/-- What the engine section of an image holds. -/
structure EngSec where
  ids : Nat
  posts : Nat
  half : Half
  watches : List Watch
  results : List Result
  pops : List Popped
  fences : List (Nat × Nat)
  fires : List (Nat × Nat × Nat)
  owed : Bool
  deriving DecidableEq, Repr

/-- Read the engine section of a half: the armed words of a watch are where the context's pages now lie (`tr`), and PROG and HELD of a copy are those of its ring slot (R193, R253). DESIGN CHOICE, log entry 22. -/
def Take.engSec (half : Nat) (scr : Mem) (id0 seq0 : Nat) (tr : Nat → Option Page) : Take EngSec := do
  let ids ← Take.nat; let posts ← Take.nat; let ended ← Take.bool; let replay ← Take.nat; let bars ← Take.nums
  let ring ← Take.opt (Take.ring scr 32 true seq0)
  let fronts ← (List.range 4).mapM (fun _ => Take.opt (Take.ring scr 4 false seq0))
  let faultQ ← Take.opt (Take.ring scr 16 false seq0); let bins ← Take.opt (Take.ring scr 8 false seq0)
  let q := Take.many (Take.entry half id0 seq0)
  let qidx ← q; let qbin ← q; let qwl ← q; let qstack ← q; let qmat ← q
  let watches ← Take.many (do
    let bar ← Take.nat; let vas ← Take.nums; let counter ← Take.bool; let target ← Take.nat
    let ps := vas.map (fun a => (a, tr a))
    pure ({ half := half, bar := bar, vas := vas, words := ps.map (fun (a, p) => p.elim (2 ^ 64) (·.phys a)), counter := counter, target := target
            mset := (ps.head?).bind (fun x => x.2.bind (fun p => if counter && p.kind == 3 then some p.mset else none)) } : Watch))
  let results ← Take.many (do pure ({ wave := ← Take.nat, lane := ← Take.nat, dest := ← Take.nat, wide := ← Take.bool, val := ← Take.nat, mark := ← Take.nat } : Result))
  let pops ← Take.many (do pure ({ wave := ← Take.nat, sN := ← Take.nat, dest := ← Take.nat, lanes := ← Take.nums, got := ← Take.nums, mark := ← Take.nat } : Popped))
  let fences ← Take.pairs; let fires ← Take.many (do pure (← Take.nat, ← Take.nat, ← Take.nat)); let owed ← Take.bool
  let slot := ring.elim 0 (fun r => if r.ents.isEmpty then 0 else Mem.nat scr (r.base + 32 * (r.head % r.depth)) 32)
  let prog := nbits slot 234 22
  let cred := (ring.bind (·.ents.head?)).elim 0 (fun x =>
    if ended then (Copy.of x.val).total else (List.range prog).foldl (fun n p => n + (copyLine x p).elim 0 (·.2.2)) 0)
  pure { ids := ids, posts := posts, watches := watches, results := results, pops := pops, fences := fences.map (fun (a, b) => (seq0 + a, b)), fires := fires, owed := owed
         half := { core := 0, scr := scr, ring := ring, fronts := fronts, faultQ := faultQ, bins := bins, qidx := qidx, qbin := qbin, qwl := qwl, qstack := qstack, qmat := qmat
                   prog := prog, cred := cred, shown := nbit slot 233, ended := ended, replay := if replay = 0 then 0 else seq0 + replay, bars := bars } }

/-! ## What a wave carries besides its registers -/

/-- The numbers of an instruction that waits to commit. -/
def HPend.nums (x : HPend) : List Nat :=
  [x.slot, x.op.byte, (Op.payload ⟨0, x.p⟩), x.h.stall.toNat, b2n x.h.uni, x.h.leaf.word.toNat] ++ natNums (x.h.lits.map BitVec.toNat) ++
  [x.head.toNat, x.id] ++ manyNums (fun (i, a) => [i] ++ optNums (fun (d : DWord) => [d.toNat]) a) x.succ ++ natNums x.vals

/-- An instruction that waits to commit. -/
def Take.hpend (id0 : Nat) : Take HPend := do
  let slot ← Take.nat; let b ← Take.nat; let n ← Take.nat
  let p := (readOp (BitVec.ofNat 32 (n % 2 ^ 31)) (BitVec.ofNat 32 (n / 2 ^ 31))).p
  let h : Head := { stall := BitVec.ofNat 4 (← Take.nat), uni := ← Take.bool, leaf := readLeaf (BitVec.ofNat 32 (← Take.nat)), lits := (← Take.nums).map (BitVec.ofNat 32) }
  pure { slot := slot, op := (Opcode.ofByte b p.v).getD .mma, h := h, p := p, head := BitVec.ofNat 64 (← Take.nat), id := id0 + (← Take.nat)
         succ := ← Take.many (do pure (← Take.nat, (← Take.opt Take.nat).map (BitVec.ofNat 64))), vals := ← Take.nums }

/-- The numbers of a latch arrival. -/
def LatchArr.nums (x : LatchArr) : List Nat := x.pd.nums ++ [x.ha, x.ta.word, x.ca, x.hb, x.tb.word, x.cb]
/-- A latch arrival. -/
def Take.latch (id0 : Nat) : Take LatchArr := do
  pure { pd := ← Take.hpend id0, ha := ← Take.nat, ta := Tensor.of (← Take.nat), ca := ← Take.nat, hb := ← Take.nat, tb := Tensor.of (← Take.nat), cb := ← Take.nat }

/-- The numbers of what a group carries besides its slot's word: what it owes, the head that chose its address (R98), and the records of its lanes (R95), which name its own head. -/
def Group.nums (g : Group) : List Nat :=
  [b2n g.pushed + 2 * b2n g.late + 4 * b2n g.retried, g.chooser.toNat] ++
  manyNums (fun r => [r.lane + 64 * b2n r.host + 128 * r.cause + 2 ^ 15 * r.detail, r.addr]) g.recs

/-- Give a group what it carries. -/
def Take.group (g : Group) : Take Group := do
  let f ← Take.nat; let ch ← Take.nat
  let rs ← Take.pairs
  pure { g with pushed := nbit f 0, late := nbit f 1, retried := nbit f 2, chooser := BitVec.ofNat 64 ch
                recs := rs.map (fun (n, a) => { lane := nbits n 0 6, host := nbit n 6, cause := nbits n 7 8, detail := n / 2 ^ 15, head := g.pc.toNat, addr := a }) }

/-- The numbers of what a wave carries besides its registers, slots and records. -/
def Wave.nums (w : Wave) : List Nat :=
  optNums LatchArr.nums w.latch ++ manyNums HPend.nums w.hold ++ natNums w.scal ++ manyNums (fun k => k :: (w.group k).nums) (w.slotsWith (fun _ => true))

/-- Give a wave what it carries: the group of a latch arrival or of a waiting codebook load waits for it again. -/
def Take.wave (w : Wave) (id0 : Nat) : Take Wave := do
  let latch ← Take.opt (Take.latch id0); let hold ← Take.many (Take.hpend id0); let scal ← Take.nums
  let n ← Take.nat
  let slots ← (List.range (min n 72)).foldlM (fun l _ => do
    let k ← Take.nat
    let g ← Take.group (nth {} l k)
    pure (modNth l k (fun _ => g))) w.slots
  let slots := slots.zipIdx.map (fun (g, k) =>
    if latch.any (fun x => x.pd.slot == k) then { g with wait := .latch }
    else match hold.find? (fun x => x.slot == k) with | some x => { g with wait := .cbld x.id } | none => g)
  pure { w with latch := latch, hold := hold, scal := scal, slots := slots }

end Sys2Proof.Machine
end

