-- ==== Sys2Proof/Machine/Image.lean ====
section
/-!
DEFINITION. The image of a team in a save slot (R280): the words of the split table (R217) and of the landing records (R90), the sections in their order, and what the command
processor makes of an image again.
-/

namespace Sys2Proof.Machine

/-! ## Words of the split table and the landing records (R90, R217) -/

/-- A slot of the split table as a debugger sees it and as an image holds it (R217), in a state of R219 at an issue cycle of its quadrant. -/
def Group.word (g : Group) (st : GState) (cyc : Nat) : Nat :=
  if st = .free then 0
  else st.code * 2 ^ 2 + (g.rcd.getD 0) % 32 * 2 ^ 6 + b2n g.rcd.isSome * 2 ^ 11 + nbits g.pc.toNat 4 52 * 2 ^ 12 + g.mask.toNat * 2 ^ 64 +
    min (2 ^ 32 - 1) (cyc - g.since) * 2 ^ 128 + g.fmt.toNat * 2 ^ 160

/-- A landing record as a debugger sees it and as an image holds it (R90). -/
def LandRec.word (r : LandRec) : Nat :=
  b2n r.valid * 2 ^ 37 + (r.parent.getD 0) % 32 * 2 ^ 38 + b2n r.parent.isSome * 2 ^ 43 + nbits r.land.toNat 4 52 * 2 ^ 44 + r.fmt.toNat * 2 ^ 96 +
    r.arrived.toNat * 2 ^ 128 + r.members.toNat * 2 ^ 192

/-- The state of a code of R219 in an image. -/
def GState.ofSaved (n : Nat) : GState := match n with | 2 => .stalled | 3 => .arrived | 4 => .meeting | 5 => .asleep | 6 => .parked | _ => .ready

/-- The group that a slot's word names, off its core, in the state that it was saved in (R219, R233). -/
def Group.ofWord (n : Nat) : Group :=
  if nbits n 2 4 = 0 then {}
  else
    { mask := BitVec.ofNat 64 (nbits n 64 64), fmt := BitVec.ofNat 32 (nbits n 160 32), pc := BitVec.ofNat 64 (nbits n 12 52 * 16)
      rcd := if nbit n 11 then some (nbits n 6 5) else none, st := .drained, prior := GState.ofSaved (nbits n 2 4) }

/-- The landing record that a word names. -/
def LandRec.ofWord (n : Nat) : LandRec :=
  { valid := nbit n 37, members := BitVec.ofNat 64 (nbits n 192 64), arrived := BitVec.ofNat 64 (nbits n 128 64), fmt := BitVec.ofNat 32 (nbits n 96 32)
    land := BitVec.ofNat 64 (nbits n 44 52 * 16), parent := if nbit n 43 then some (nbits n 38 5) else none }

/-! ## The sections (R280) -/

/-- Bytes filled with zeros, or cut, to a length. -/
def padTo (n : Nat) (l : List Byte) : List Byte := (l ++ List.replicate (n - l.length) 0).take n

/-- The header. The places of its fields are the model's. DESIGN CHOICE, log entry 22. -/
def headerImage (t : Team) (core W : Nat) : List Byte :=
  padTo 256 (leBytes 8 t.serial ++ leBytes 8 t.t ++ leBytes 2 core ++ leBytes 2 Config.stepping.toNat ++ leBytes 2 W ++ leBytes 2 t.width ++ leBytes 2 t.alloc ++ leBytes 2 t.bandsN ++
    leBytes 4 t.scrSize ++ leBytes 4 (b2n t.twin + 2 * b2n t.unpark))

/-- The wave state of a wave (R280): slots and landing records in their layouts, then the scalar registers, `gang`, the region's depth and elapsed time, the lanes that are there and that
have exited, and the latch arrival with what else the wave carries. DESIGN CHOICE, log entry 22. -/
def Wave.image (w : Wave) (cyc ns : Nat) : List Byte :=
  padTo 4096 (w.slots.flatMap (fun g => leBytes 24 (g.word g.under cyc)) ++ w.recs.flatMap (fun r => leBytes 32 r.word) ++ w.s.flatMap (fun x => leBytes 4 x.toNat) ++
    leBytes 8 w.gang.toNat ++ leBytes 2 w.depth ++ leBytes 8 (if w.depth = 0 then 0 else ns - w.regionAt) ++ leBytes 8 w.active.toNat ++ leBytes 8 w.exited.toNat ++ pack w.nums)

/-- The bytes of a wave's state before what it carries besides. -/
def waveFixed : Nat := 2914

/-- One word of each lane for each register of a list of readings, lane-major within each register. -/
def laneMajor (w : Wave) (n : Nat) (l : List (Lane → Nat)) : List Byte := l.flatMap (fun f => (List.range w.width).flatMap (fun i => leBytes n (f (nth {} w.lanes i))))

/-- The main registers of a wave. -/
def Wave.regsImage (w : Wave) (a : Nat) : List Byte := laneMajor w 4 ((List.range a).map (fun r l => (l.reg r).val.toNat))
/-- Their full/empty bits and error marks (R127): bit 0 full, bits [15:8] the cause. -/
def Wave.stateImage (w : Wave) (a : Nat) : List Byte := laneMajor w 2 ((List.range a).map (fun r l => b2n (!(l.reg r).empty) + 256 * (l.reg r).mark.toNat))
/-- The operand and last-result files. -/
def Wave.filesImage (w : Wave) : List Byte :=
  laneMajor w 4 ((List.range 16).map (fun i l => (nth 0 l.o i).toNat) ++ [fun l => l.l0.toNat, fun l => l.l1.toNat])

/-- A band: its elements, then the 32 bytes that begin with its `mmstat` word and the pending suspect trap. -/
def Band.image (b : Band) : List Byte := (List.range 4096).flatMap (fun i => leBytes 4 (Sparse.read b.e i).toNat) ++ leBytes 32 (b.stat + b2n b.trap * 2 ^ 64)

/-- The engine state of a half. DESIGN CHOICE, log entry 22. -/
def State.engineImage (s : State) (t : Team) (h : Nat) (y : Half) : List Byte := padTo 4096 (pack (s.engineNums t h y))

/-- Does what a team carries fit the sections that hold it (R280)? DESIGN CHOICE, log entry 60. -/
def State.imageFits (s : State) (t : Team) : Bool :=
  t.waves.all (fun w => decide (waveFixed + (pack w.nums).length ≤ 4096)) && t.halves.zipIdx.all (fun (y, h) => decide ((pack (s.engineNums t h y)).length ≤ 4096))

/-- The image of half `h` of a team (R280). -/
def State.halfImage (s : State) (t : Team) (h : Nat) (y : Half) : List Byte :=
  let ws := t.waves.filter (fun w => w.half == h); let W := ws.length
  headerImage t y.core W ++ ws.flatMap (fun w => w.image (s.cycOf t w) s.ns) ++ List.replicate (W * 512) 0 ++
  padTo (roundUp 256 (W * t.alloc * t.width * 4)) (ws.flatMap (fun w => w.regsImage t.alloc)) ++
  padTo (roundUp 256 (W * t.alloc * t.width * 2)) (ws.flatMap (fun w => w.stateImage t.alloc)) ++
  padTo (roundUp 256 (W * 18 * t.width * 4)) (ws.flatMap Wave.filesImage) ++
  padTo (roundUp 256 (t.bandsN * 16416)) (y.bands.flatMap Band.image) ++
  padTo 256 (y.cbs.flatMap (fun c => c.flatMap (fun x => leBytes 2 x.toNat))) ++
  padTo (roundUp 256 t.scrSize) (Sparse.readList y.scr 0 t.scrSize) ++ s.engineImage t h y

/-- The image of a team: the lower half's, then for a twin the upper half's (R280). DESIGN CHOICE, log entry 22. -/
def State.image (s : State) (t : Team) : List Byte := t.halves.zipIdx.flatMap (fun (y, h) => s.halfImage t h y)

/-- The image of a team is written into a save slot with plain stores of the command processor (R280); a page that cannot be written takes none of it. DESIGN CHOICE, log entry 22. -/
def State.writeImage (s : State) (t : Team) (k : Nat) : State :=
  let z := s.ctxField t.ctx 1216 32 * 4096
  match s.engPut t.ctx 0 0xE00 (s.ctxField t.ctx 1152 64 + k * z) ((s.image t).take z) false false with
  | .ok s1 => s1
  | .error _ => s

/-! ## An image read again (R280, R282) -/

/-- `n` bytes of an image from an offset, as a number. -/
def imgNat (bs : List Byte) (off n : Nat) : Nat := leNat ((bs.drop off).take n)

/-- Wave `i` of a half from its image: `w0` is the number of the half's first wave; the numbers of waiting instructions count from `id0` on. A register's error mark is whatever 8 bits
stand there. DESIGN CHOICE, log entry 96. -/
def waveOf (bs : List Byte) (half w0 W width a id0 i : Nat) : Wave :=
  let gone (w : Wave) : Wave := ((Take.wave { w with left := w.exited &&& w.active = w.active } id0) (unpack 4096 ((bs.drop (256 + 4096 * i + waveFixed)).take (4096 - waveFixed)))).1
  let at_ := 256 + 4096 * i; let regs := 256 + W * 4096 + W * 512; let st := regs + roundUp 256 (W * a * width * 4); let fl := st + roundUp 256 (W * a * width * 2)
  let lane (j : Nat) : Lane :=
    let v (r : Nat) : VReg :=
      let z := imgNat bs (st + 2 * ((i * a + r) * width + j)) 2
      { val := BitVec.ofNat 32 (imgNat bs (regs + 4 * ((i * a + r) * width + j)) 4), empty := !nbit z 0, mark := BitVec.ofNat 8 (z / 256) }
    let f (r : Nat) : Word := BitVec.ofNat 32 (imgNat bs (fl + 4 * ((i * 18 + r) * width + j)) 4)
    { v := (List.range a).map v, o := (List.range 16).map f, l0 := f 16, l1 := f 17 }
  gone
  { idx := w0 + i, half := half, quad := 0, width := width
    active := BitVec.ofNat 64 (imgNat bs (at_ + 2898) 8)
    exited := BitVec.ofNat 64 (imgNat bs (at_ + 2906) 8)
    lanes := (List.range width).map lane
    slots := (List.range 72).map (fun k => Group.ofWord (imgNat bs (at_ + 24 * k) 24))
    recs := (List.range 32).map (fun k => LandRec.ofWord (imgNat bs (at_ + 1728 + 32 * k) 32))
    s := (List.range 32).map (fun k => BitVec.ofNat 32 (imgNat bs (at_ + 2752 + 4 * k) 4))
    gang := BitVec.ofNat 64 (imgNat bs (at_ + 2880) 8) }

/-- A half from its image, with what its engine section holds. DESIGN CHOICE, log entry 52. -/
def halfOf (bs : List Byte) (half W width a b scr id0 seq0 : Nat) (tr : Nat → Option Page) : EngSec :=
  let o1 := 256 + W * 4096 + W * 512 + roundUp 256 (W * a * width * 4) + roundUp 256 (W * a * width * 2) + roundUp 256 (W * 18 * width * 4)
  let o2 := o1 + roundUp 256 (b * 16416); let o3 := o2 + 256; let eng := (bs.drop (o3 + roundUp 256 scr)).take 4096
  let band (i : Nat) : Band :=
    let n := imgNat bs (o1 + 16416 * i + 16384) 32
    { e := sparseOf 0 ((List.range 4096).map (fun k => BitVec.ofNat 32 (imgNat bs (o1 + 16416 * i + 4 * k) 4))), nv := nbit n 0, of := nbit n 1, uf := nbit n 2, sus := nbit n 3
      poi := nbit n 7, elq := nbits n 32 32, trap := nbit n 64 }
  let x := ((Take.engSec half (Sparse.writeList [] 0 ((bs.drop o3).take scr)) id0 seq0 tr) (unpack 4096 eng)).1
  { x with half := { x.half with
      bands := (List.range b).map band
      cbs := (List.range 8).map (fun c => (List.range 16).map (fun k => BitVec.ofNat 16 (imgNat bs (o2 + 32 * c + 2 * k) 2))) } }

/-- The team of a launch that a save slot's image holds, as it stands off its core, and what its engine sections hold (R280, R282). DESIGN CHOICE, log entry 52. -/
def teamOf (l : Launch) (id k seq0 : Nat) (tr : Nat → Option Page) (bs : List Byte) : Team × List EngSec :=
  let e := l.ent; let gx := nbits e 64 32; let gy := nbits e 96 32; let t := imgNat bs 8 8
  let W (b : List Byte) := imgNat b 20 2; let width := imgNat bs 22 2; let a := imgNat bs 24 2; let b := imgNat bs 26 2; let scr := imgNat bs 28 4; let twin := nbit (imgNat bs 32 4) 0
  let size (n : Nat) := 256 + n * 4096 + n * 512 + roundUp 256 (n * a * width * 4) + roundUp 256 (n * a * width * 2) + roundUp 256 (n * 18 * width * 4) +
    roundUp 256 (b * 16416) + 256 + roundUp 256 scr + 4096
  let up := bs.drop (size (W bs))
  let halves := if twin then [(bs, 0, W bs), (up, 1, W up)] else [(bs, 0, W bs)]
  let secs := halves.map (fun (x, h, n) => halfOf x h n width a b scr (id + 1) seq0 tr)
  ({ id := id, ctx := l.ctx, serial := l.serial, prio := entPrio e, t := t, xyz := (t % gx, t / gx % gy, t / (gx * gy)), grid := (gx, gy, nbits e 128 32)
     teamsz := entLanes e, width := width, alloc := a, bandsN := b, scrSize := scr, twin := twin, unpark := nbit (imgNat bs 32 4) 1, place := .saved k
     waves := halves.flatMap (fun (x, h, n) => (List.range n).map (fun i => waveOf x h (if h = 0 then 0 else W bs) n width a (id + 1) i))
     halves := secs.map (·.half)
     watches := secs.flatMap (·.watches), pops := secs.flatMap (·.pops), fences := secs.flatMap (·.fences), fires := secs.flatMap (·.fires)
     owed := secs.any (·.owed) }, secs)

/-- A launch of a Logbook record and its entry, as it goes on here (R269, R282). -/
def Launch.ofWord (n e next : Nat) (exited : List Nat) (params : List Byte) (ctx : Nat) (f : Func) : Launch :=
  let st : LState := match nbits n 220 4 with | 0 => .accepted | 1 => .started | 2 => .rolledBack | 3 => .replayed | 4 => .retired | 5 => .failed | _ => .cancelled
  { serial := nbits n 0 64, queue := nbits n 206 8, index := nbits n 128 64, ctx := ctx, ent := e, fn := f, st := st, err := nbits n 232 8, detail := nbits n 240 16
    nonrep := nbit n 227, repl := nbits n 225 2, tacc := nbits n 320 64, tstart := nbits n 384 64, tend := nbits n 448 64, next := next, exited := exited, waitOk := entWait e == 0, params := params }

end Sys2Proof.Machine
end

