-- ==== Sys2Proof/Machine/Launch.lean ====
section
/-!
DEFINITION. Teams over time: room and admission (R19, R229, R281, R375), dispatch (R267), parking (R230 to R232), pre-emption and restoration (R279, R280), retirement,
cancellation and migration (R268, R282, R374).
-/

namespace Sys2Proof.Machine

/-! ## Room (R19, R229, R281) -/

/-- What teams take of a core: register bytes by quadrant, scratchpad bytes, bands, wave positions. -/
structure Use where
  regs : List Nat := [0, 0, 0, 0]
  scr : Nat := 0
  bands : Nat := 0
  waves : Nat := 0
  deriving DecidableEq, Repr

/-- Add the half of a team to what is taken. -/
def Use.add (u : Use) (t : Team) (h : Nat) : Use :=
  let ws := t.waves.filter (fun w => w.half == h)
  { regs := (List.range 4).map (fun q => nth 0 u.regs q + (ws.filter (fun w => w.quad == q)).length * (t.alloc * t.width * 4))
    scr := u.scr + t.scrSize, bands := u.bands + t.bandsN, waves := u.waves + ws.length }

/-- What the teams on a core that satisfy a test take. -/
def State.use (s : State) (c : Nat) (p : Team → Bool) : Use :=
  s.teams.foldl (fun u t => if p t then (t.halves.zipIdx.filter (fun (h, _) => h.core == c)).foldl (fun u (_, i) => u.add t i) u else u) {}

/-- Is a team admitted to a core: resident or parked? -/
def Team.onCore (t : Team) : Bool := match t.place with | .saved _ => false | _ => true

/-- Is a team resident? -/
def Team.resident (t : Team) : Bool := match t.place with | .resident => true | _ => false

/-- The landing entries that the teams of a core hold, once for each function (R281), and whether a function's are among them. -/
def State.landUse (s : State) (c key : Nat) : Nat × Bool :=
  let ts := s.teams.filter (fun t => t.onCore && t.halves.any (fun h => h.core == c))
  let ls := ts.filterMap (fun t => (s.launch? t.serial).map (fun l => (l.ent % 2 ^ 64, l.fn.lands.length)))
  let keys := ls.eraseDups
  ((keys.map (·.2)).foldl (· + ·) 0, keys.any (fun k => k.1 == key))

/-- Does a core take new teams: in service, not under test or retired, on an ACTIVE die (R328, R332, R334)? -/
def State.coreOpen (s : State) (c : Nat) : Bool :=
  let x := s.core c
  decide (c < 96) && x.service && !x.testing && !x.closed && (nth {} s.eps (c / 24)).st = .active

/-- Is there room on a core for a half of `n` waves, besides what is there (R229, R281)? Registers, scratchpad and bands count against twice the core's capacity. -/
def State.halfRoom (s : State) (x : Shape) (c n : Nat) : Bool :=
  let u := s.use c Team.onCore
  let (lands, held) := s.landUse c x.key
  s.coreOpen c && decide (u.waves + n ≤ 64) && decide (u.regs.foldl (· + ·) 0 + n * x.waveBytes ≤ 2 * (4 * quadBytes)) && decide (u.scr + x.scr ≤ 2 * coreScr) &&
  decide (u.bands + x.bands ≤ 2 * coreBands) && (held || decide (lands + x.lands ≤ 512))

/-- Is there room for a team on a core, or on a twin from its lower core on (R2, R375)? -/
def State.roomOn (s : State) (x : Shape) (c : Nat) : Bool :=
  x.fitsAlone && (x.waves.length == 1 || c % 2 == 0) && x.waves.zipIdx.all (fun (n, h) => s.halfRoom x (c + h) n)

/-- The quadrants named for the waves of each half. -/
def splitQuads (x : Shape) (quads : List Nat) : List (List Nat) :=
  match x.waves with
  | [a, b] => [quads.take a, (quads.drop a).take b]
  | _ => [quads]

/-- The waves of a shape that a quadrant of a core has room for besides the resident teams (R19). -/
def State.quadFree (s : State) (x : Shape) (c q : Nat) : Nat := (quadBytes - nth 0 (s.use c Team.resident).regs q) / max 1 x.waveBytes

/-- Is a choice of quadrants for the waves on a core one that R375 allows: every wave in a quadrant that has room for it, where the core has room for all of them; a team that has
to wait is placed as the core alone would hold it? -/
def State.quadsOn (s : State) (x : Shape) (c : Nat) (l : List Nat) : Bool :=
  let free := (List.range 4).map (s.quadFree x c)
  let fit : Bool := decide (l.length ≤ free.foldl (· + ·) 0)
  (List.range 4).all (fun q => let n := (l.filter (· == q)).length; if fit then decide (n ≤ nth 0 free q) else decide (n * x.waveBytes ≤ quadBytes))

/-- Is a choice of quadrants for a team one that R375 allows? -/
def State.quadsOk (s : State) (x : Shape) (c : Nat) (quads : List Nat) : Bool :=
  quads.length == x.waves.foldl (· + ·) 0 && quads.all (fun q => decide (q < 4)) &&
  (splitQuads x quads).zipIdx.all (fun (l, h) => s.quadsOn x (c + h) l)

/-- Does a team fit into the free storage of its cores (R229), besides the resident teams? -/
def State.fits (s : State) (t : Team) : Bool :=
  t.halves.zipIdx.all (fun (h, i) =>
    let u := (s.use h.core (fun y => y.resident && y.id != t.id)).add t i
    u.regs.all (fun n => decide (n ≤ quadBytes)) && decide (u.scr ≤ coreScr) && decide (u.bands ≤ coreBands))

/-- Do two teams share a core? -/
def Team.shares (a b : Team) : Bool := a.halves.any (fun x => b.halves.any (fun y => x.core == y.core))

/-- Is a team parked? -/
def Team.parked (t : Team) : Bool := match t.place with | .parked => true | _ => false

/-- The teams that wait for storage before a team, in the order in which they came to wait (R232). -/
def State.waitsBefore (s : State) (t : Team) : Bool := (s.teams.takeWhile (fun y => y.id != t.id)).any (fun y => y.parked && y.shares t)

/-! ## A new team (R18, R33, R216, R217, R238) -/

/-- Wave `i` of a team of `n` lanes as it starts: only the last wave of a team can be partial (R216). -/
def Wave.fresh (x : Shape) (entry half n cyc i quad : Nat) : Wave :=
  let mask := fullMask (min x.width (n - i * x.width))
  { idx := i, half := half, quad := quad, width := x.width, active := mask
    lanes := List.replicate x.width { v := List.replicate x.alloc {} }
    slots := ({ mask := mask, pc := BitVec.ofNat 64 entry, st := .ready, since := cyc } : Group) :: List.replicate 71 {} }

/-- The waves of a new team on a core. DEDUCED, log entry 50. -/
def State.freshWaves (s : State) (x : Shape) (e entry core : Nat) (quads : List Nat) : List Wave :=
  x.waves.zipIdx.flatMap (fun (k, h) =>
    (List.range k).map (fun j =>
      let i := (if h = 0 then 0 else nth 0 x.waves 0) + j; let q := nth 0 quads i
      Wave.fresh x entry h (entLanes e) ((s.core (core + h)).quad q).cyc i q))

/-- Team `t` of a launch as it is placed on a core. -/
def State.freshTeam (s : State) (l : Launch) (t core : Nat) (quads : List Nat) : Team :=
  let e := l.ent; let x := shapeOf e l.fn; let gx := nbits e 64 32; let gy := nbits e 96 32; let gz := nbits e 128 32
  { id := s.nextId, ctx := l.ctx, serial := l.serial, prio := entPrio e, t := t
    xyz := (t % gx, t / gx % gy, t / (gx * gy)), grid := (gx, gy, gz), teamsz := entLanes e, width := x.width, alloc := x.alloc, bandsN := x.bands, scrSize := x.scr
    twin := entTwin e, unpark := entUnpark e, waves := s.freshWaves x e l.fn.entry core quads
    halves := (List.range x.waves.length).map (fun h => { core := core + h, scr := Sparse.writeList [] 0 l.params, bands := List.replicate x.bands {} })
    admitted := s.admitNo, idle := s.clock.toNat }

/-! ## Held groups (R220, R231 to R233) -/

/-- A group of a team that leaves its core: DRAINED, with the prior state kept. -/
def Group.drain (g : Group) : Group :=
  match g.st with
  | .free => g
  | .drained => g
  | .frozen => { g with st := .drained }
  | st => { g with st := .drained, prior := st }

/-- A group of a pre-empted team: one in a meeting is saved at the head of its instruction, where it will arrive again (R112, R233), and counts of the quadrant's issue cycles have run out. DEDUCED, log entry 62. -/
def Group.save (g : Group) : Group :=
  let g0 := g.drain
  let g1 := { g0 with ready := 0, yieldTill := 0, wait := match g0.wait with | .stall _ => .stall 0 | x => x }
  if g1.prior = .meeting && g1.wait != .latch then { g1 with wait := .none } else g1

/-- Does what a group of a wave waits for block it still when its team is on a core again (R220)? DEDUCED, log entry 62. -/
def State.blocks (s : State) (t : Team) (w : Wave) : Wait → Bool
  | .none => false
  | .stall till => decide (till > s.cycOf t w)
  | .regs l => l.any (fun (i, r) => ((nth {} w.lanes i).reg r).empty)
  | .walk l => l.any (fun p => (s.tlb? (t.coreOf w) t.ctx (65536 * p)).isNone)
  | .ats l => l.any (fun (fn, p) => (s.hostPage fn (4096 * p)).isNone)
  | .miss => decide (s.missUse (t.coreOf w) ≥ missEntries)
  | .sleep h b ph => !(Bar.read (nth { core := 0 } t.halves h).scr b).awake ph
  | _ => true

/-- A DRAINED group takes its state again (R220): READY when nothing blocks it, else the blocking state; FROZEN while a debugger holds its team. DEDUCED, log entry 62. -/
def Group.undrain (g : Group) (blocks : Wait → Bool) (stopped : Bool) (cyc : Nat) : Group :=
  match g.st with
  | .drained =>
    let go := (g.prior = .stalled || g.prior = .asleep || g.prior = .meeting && g.wait = .none) && !blocks g.wait
    let st := if go then .ready else g.prior
    let g1 := { g with wait := if go then .none else g.wait, since := cyc }
    if stopped then { g1 with st := .frozen, prior := st } else { g1 with st := st, prior := .free }
  | _ => g

/-- The groups of a team take their states again on its core (R220). -/
def State.undrainTeam (s : State) (id : Nat) : State :=
  s.modTeam id (fun t => { t with waves := t.waves.map (fun w => w.mapGroups (fun g => g.undrain (s.blocks t w) t.stopped (s.cycOf t w))) })

/-- The cores of a team drop what may be older than the writes performed at device scope (R266, R319). -/
def State.acquireTeam (s : State) (id : Nat) : State := ((s.team? id).elim [] (fun t => t.halves.map (·.core))).foldl State.acquireL1 s

/-- The watch fires that waited are applied to the barriers of a restored team (R190). -/
def State.applyFires (s : State) (t : Nat) : State :=
  match s.team? t with
  | none => s
  | some x => x.fires.foldl (fun a (h, b, wf) => a.modBar t h b (fun y => y.fire wf)) (s.modTeam t (fun x => { x with fires := [] }))

/-- Every `lds` result of a team reaches its register. -/
def State.ldsAll (s : State) (t : Nat) : State :=
  match s.team? t with
  | none => s
  | some x => x.lds.foldl (fun a p => a.ldsDone t p) s

/-- Outstanding loads and results of a team arrive, and its writes are performed (R35, R231, R319). -/
def State.quiet (s : State) (t : Nat) : State := (s.settleTeam t).ldsAll t

/-- Has a team a load that another module must still answer, or a line under way there? -/
def State.awaits (s : State) (t : Nat) : Bool := s.flights.any (fun f => f.team == t && f.fixed.isNone && f.sent && (f.dest.isSome || f.eng && f.kind = .store))

/-! ## Dispatch (R267, R375) -/

/-- What may be dispatched next: a pre-empted team, the next team of a started launch, or the eligible head entry of a queue. -/
inductive Item where
  | saved (id : Nat)
  | team (serial : Nat)
  | head (serial queue : Nat)
  deriving DecidableEq, Repr

/-- The items that a command processor looks at, with the keys that order them: level, then the order of R267. DEDUCED, log entry 59. -/
def State.items (s : State) : List (Nat × Item) :=
  let key (lvl cat a b : Nat) : Nat := (((63 - lvl) * 4 + cat) * 2 ^ 64 + a) * 2 ^ 64 + b
  let going (l : Launch) : Bool := l.st = .started || l.st = .replayed || l.st = .rolledBack
  (s.teams.filterMap (fun t => match t.place with | .saved _ => some (key t.prio 0 t.serial t.t, .saved t.id) | _ => none)) ++
  (s.launches.filterMap (fun l => if going l && l.next < entTeams l.ent then some (key (entPrio l.ent) 1 l.serial 0, .team l.serial) else none)) ++
  ((List.range 256).filterMap (fun q => (s.eligible q).map (fun l => (key (s.level l) 2 ((q + 511 - s.lastQueue) % 256) 0, .head l.serial q))))

/-- The launch and the number of the team of an item. -/
def State.itemTeam (s : State) (i : Item) : Option (Launch × Nat) :=
  match i with
  | .saved id => (s.team? id).bind (fun t => (s.launch? t.serial).map (fun l => (l, t.t)))
  | .team n => (s.launch? n).map (fun l => (l, l.next))
  | .head n _ => (s.launch? n).map (fun l => (l, 0))

/-- May an item be placed on a core? -/
def State.itemRoom (s : State) (i : Item) (c : Nat) : Bool :=
  match s.itemTeam i with
  | some (l, t) => (entDies l.ent t).contains (c / 24) && s.roomOn (shapeOf l.ent l.fn) c
  | none => false

/-- The item that is taken next: the first in order that some core can hold. -/
def State.nextItem (s : State) : Option Item :=
  ((s.items.filter (fun x => (List.range 96).any (fun c => s.itemRoom x.2 c))).foldl (fun (b : Option (Nat × Item)) x => match b with
    | none => some x | some y => if x.1 < y.1 then some x else some y) none).map (·.2)

/-- The pages of a replayable launch's writable set that are snapshotted as it starts (R271): 64 KiB at a time, every copy of a majority page. -/
def State.markSet (s : State) (l : Launch) : List (Nat × Nat) :=
  let rd (a n : Nat) : Nat := (pieces a n).foldl (fun v (b, k) => match s.engRead l.ctx b k with | .ok (x, _) => v + x * 256 ^ (b - a) | .error _ => v) 0
  let e := rd (s.ctxField l.ctx 768 64 + 16 * nbits l.ent 288 8) 16
  (List.range (nbits e 64 32)).flatMap (fun i =>
    let r := rd (e % 2 ^ 64 + 16 * i) 16; let a := r % 2 ^ 64
    (List.range (r / 2 ^ 64 / 65536)).flatMap (fun k =>
      match s.walk l.ctx (a + 65536 * k) with
      | .page p =>
        let pa := p.phys (a + 65536 * k)
        if p.kind = 3 then let m := nth 0 s.msets p.mset; (List.range (nbits m 0 3)).map (fun j => (copyAddr m j pa, 65536)) else [(pa, 65536)]
      | _ => []))

/-- A launch's first team is dispatched: STARTED or REPLAYED (R267, R270, R271); native code of a foreign stepping puts its context into interlocked mode (R34, R284). -/
def State.startLaunch (s : State) (l : Launch) : State :=
  let marked := if nbit l.ent 184 && !l.nonrep then s.markSet l else []
  let s1 := s.setLaunch l.serial (fun l =>
    { l with st := if l.st = .rolledBack then .replayed else .started, tstart := if l.st = .rolledBack then l.tstart else s.ns, marked := marked })
  if l.fn.foreign then s1.modCtx l.ctx (fun c => { c with lock := true }) else s1

/-- A new team joins its core: resident when its storage fits and no other waits, else parked (R229, R232). -/
def State.seat (s : State) (t : Team) : State :=
  let ok := s.fits t && !(s.teams.any (fun y => y.parked && y.shares t))
  let t1 := if ok then { t with place := .resident } else { t with place := .parked, waves := t.waves.map (fun w => w.mapGroups Group.drain) }
  { s with teams := s.teams.filter (fun y => y.id != t.id) ++ [t1], admitNo := s.admitNo + 1 }

/-- A held entry or copy is tried again (R252, R253). -/
def Half.unhold (h : Half) : Half :=
  let f (l : List Entry) : List Entry := l.map (fun e => { e with held := none })
  { h with held := none, drain := none, qidx := f h.qidx, qbin := f h.qbin, qwl := f h.qwl, qstack := f h.qstack, qmat := f h.qmat }

/-- `fqplay 0` on a team's behalf (R200, R256): the records that are there now are played. A team off its core gets it when it is on one again. DEDUCED, log entry 14. -/
def State.playTeam (s : State) (t : Nat) : State :=
  match s.team? t with
  | none => s
  | some x =>
    if !x.onCore then s.modTeam t (fun y => { y with owed := true })
    else (List.range x.halves.length).foldl (fun a h =>
      match a.team? t with
      | some y => (a.modHalf t h (fun z => { z with replay := a.seqNo })).playHalf y h
      | none => a) (s.modTeam t (fun y => { y with owed := false }))

/-- What a team has under way follows it to its core: results of stack engines, for restored registers (R35). -/
def State.moveFlights (s : State) (t : Team) : State :=
  { s with flights := s.flights.map (fun f => if f.team = t.id && !f.sent then { f with core := ((t.waves[f.wave]?).elim f.core t.coreOf) } else f) }

/-- A pre-empted team on its new core (R220, R253, R279, R319): its slot is freed, its watch fires are applied, and its cores' L1 drops what may be older. -/
def State.restoreTeam (s : State) (t : Team) (core : Nat) (quads : List Nat) : State :=
  let k := match t.place with | .saved k => k | _ => 0
  let t1 : Team :=
    { t with
      halves := t.halves.zipIdx.map (fun (h, i) => { h.unhold with core := core + i })
      waves := t.waves.zipIdx.map (fun (w, i) => { w with quad := nth 0 quads i, lastIssue := 0 })
      admitted := s.admitNo, idle := s.clock.toNat }
  let s1 := (((s.modCtx t.ctx (fun c => { c with slots := c.slots.erase k })).seat t1).moveFlights t1).acquireTeam t.id
  let s2 := if ((s1.team? t.id).map Team.resident) = some true then ((s1.applyFires t.id).givePops t.id).undrainTeam t.id else s1
  if t.owed then s2.playTeam t.id else s2

/-- TEAM_DISPATCH (R267, R375): the next item is placed on a core, its waves in the quadrants named; a team that starts sees what preceded its launch (R266). -/
def State.dispatch (s : State) (core : Nat) (quads : List Nat) : State :=
  match s.nextItem with
  | none => s
  | some i =>
    match s.itemTeam i with
    | none => s
    | some (l, t) =>
      if s.halted || !s.itemRoom i core || !s.quadsOk (shapeOf l.ent l.fn) core quads then s
      else
        match i with
        | .saved id => (match s.team? id with | some x => s.restoreTeam x core quads | none => s)
        | _ =>
          let s1 := if l.next = 0 then s.startLaunch l else s
          let s2 := (match i with | .head _ q => { s1 with lastQueue := q }.modQueue q (fun x => { x with boost := 0 }) | _ => s1)
          (({ s2 with nextId := s2.nextId + 1 }.seat (s2.freshTeam l t core quads)).acquireTeam s2.nextId).modLaunch l.serial (fun l => { l with next := l.next + 1 })

/-! ## Parking (R230 to R232) -/

/-- Has a team a READY group? -/
def Team.ready (t : Team) : Bool := t.waves.any (fun w => (w.slots.any (fun g => g.st = .ready)) || w.handler.elim false (fun h => h.g.st = .ready))

/-- May a resident team be parked (R230)? -/
def State.mayPark (s : State) (t : Team) : Bool :=
  t.resident && !t.unpark && !t.ready && decide (s.clock.toNat > t.idle + 4096) &&
  t.waves.all (fun w => w.depth == 0 && w.handler.isNone && w.slots.all (fun g => g.st != .frozen && g.st != .trapped)) &&
  (match s.teams.find? (fun y => y.parked && y.shares t) with | some y => !s.fits y | none => false)

/-- Is a team on its way off its core: its groups are DRAINED and loads of it are still to arrive (R231)? -/
def Team.draining (t : Team) : Bool := t.resident && t.waves.any (fun w => w.slots.any (fun g => g.st = .drained))

/-- TEAM_PARK (R230, R231): of the teams that qualify, the one that has waited longest is parked, behind those parked before it: its groups become DRAINED, and once its
outstanding loads have arrived it has left the core. DESIGN CHOICE, log entry 21. -/
def State.park (s : State) (id : Nat) : State :=
  match s.team? id with
  | none => s
  | some t =>
    if !t.draining && (!s.mayPark t || s.teams.any (fun y => y.shares t && (y.draining || s.mayPark y && decide (y.idle < t.idle)))) then s
    else
      let s1 := ((s.examineTeam id).modTeam id (fun x => { x with waves := x.waves.map (fun w => w.mapGroups Group.drain) })).quiet id
      match s1.team? id with
      | none => s1
      | some x => if s1.awaits id then s1 else { s1 with teams := s1.teams.filter (fun y => y.id != id) ++ [{ x with place := .parked }] }

/-- TEAM_RESTORE_PARKED (R232, R319): the team that was parked first is restored as soon as its storage fits. -/
def State.unparkTeam (s : State) (id : Nat) : State :=
  match s.team? id with
  | none => s
  | some t =>
    if !t.parked || s.waitsBefore t || !s.fits t then s
    else
      ((((s.modTeam id (fun x => { x with place := .resident, idle := s.clock.toNat })).acquireTeam id).applyFires id).givePops id).undrainTeam id

/-! ## Pre-emption (R279, R280) -/

/-- The lowest free save slot of a context (R280). -/
def State.freeSlot (s : State) (c : Nat) : Option Nat := if !s.recordUp c then none else (List.range (s.ctxField c 1248 32)).find? (fun k => !(s.ctx c).slots.contains k)

/-- May a team be pre-empted now: no region, no handler, nothing that another module must answer first, and no read of its own under way (R209, R233, R253, R279)? DESIGN CHOICE, log entry 60. -/
def State.mayPreempt (s : State) (t : Team) : Bool :=
  t.onCore && t.waves.all (fun w => w.depth == 0 && w.handler.isNone && w.trapQ.isEmpty &&
    w.slots.all (fun g => match g.wait with | .sealRead _ | .fetchAdd _ => false | _ => true)) && !s.awaits t.id

/-- The level of an item (R267, R279). -/
def State.itemLevel (s : State) (i : Item) : Nat :=
  match i with
  | .saved id => (s.team? id).elim 0 (·.prio)
  | .team n => (s.launch? n).elim 0 (fun l => entPrio l.ent)
  | .head n _ => (s.launch? n).elim 0 s.level

/-- Does a team come before another when teams are taken for priority (R279): the lower PRIO, then the launch started later, then the higher *t*? -/
def State.yieldsBefore (s : State) (a b : Team) : Bool :=
  let st (t : Team) : Nat := (s.launch? t.serial).elim 0 (·.tstart)
  let key (t : Team) : List Nat := [t.prio, 2 ^ 64 - st t, 2 ^ 64 - t.serial, 2 ^ 32 - t.t]
  decide (key a < key b)

/-- The resident team that is pre-empted for priority, if an item of a higher level cannot be placed (R279, R280): teams of a context whose slots are all in use are passed over. DESIGN CHOICE, log entry 60. -/
def State.victim (s : State) : Option Team :=
  let v := (s.teams.filter (fun t => t.resident && (s.freeSlot t.ctx).isSome)).foldl (fun (b : Option Team) t => match b with
    | none => some t | some y => if s.yieldsBefore t y then some t else some y) none
  v.filter (fun t => s.items.any (fun x => decide (s.itemLevel x.2 > t.prio) && !(List.range 96).any (fun c => s.itemRoom x.2 c)))

/-- Is a team to be pre-empted (R279, R332, R334): asked for by the host or a migration, on a core that is being drained or a die that is quiescing, or taken for priority? DESIGN CHOICE, log entry 60. -/
def State.owesPreempt (s : State) (t : Team) : Bool :=
  s.wanted.contains t.id || t.halves.any (fun h => let c := s.core h.core; c.closed || c.testing || (nth {} s.eps (h.core / 24)).st = .quiescing) ||
  s.victim.elim false (fun v => v.id == t.id)

/-- A team's state at an instruction boundary is saved (R35, R196, R233, R253): its loads arrive, its writes are performed, the lines that its copies have under way are credited, its
reductions are computed, and its L1 lines are written back. -/
def State.settleForSave (s : State) (id : Nat) : State :=
  let s1 := (s.quiet id).copyAnswers id
  let s2 := ((s1.flights.filter (fun f => f.team == id && f.kind = .sred)).map (·.id)).foldl (fun a i => a.perform i {} true) s1
  ((s2.team? id).elim [] (fun t => t.halves.map (·.core))).foldl State.writeBackAll s2

/-- A team is pre-empted into the lowest free slot of its context (R279, R280); with no slot free, not yet at a boundary, or while its image has no room for what its engines have waiting, nothing happens. DESIGN CHOICE, log entry 60. -/
def State.preempt (s : State) (id : Nat) : State :=
  match s.team? id with
  | none => s
  | some t =>
    match s.freeSlot t.ctx, s.mayPreempt t with
    | some k, true =>
      let s1 := ((s.settleForSave id).examineTeam id).modTeam id (fun x =>
        { x with place := .saved k, waves := x.waves.map (fun w => { w with meets := [] }.mapGroups Group.save) })
      let s2 := (List.range t.halves.length).foldl (fun a h => a.engDrop id h) s1
      let s3 := ({ s2 with wanted := s2.wanted.filter (· != id) } : State).modCtx t.ctx (fun c => { c with slots := c.slots ++ [k] })
      (s3.team? id).elim s3 (fun x => if s3.imageFits x then s3.writeImage x k else s)
    | _, _ => s

/-- PREEMPT_TEAM (R279): a team that is to be pre-empted is, once it may be. -/
def State.preemptDue (s : State) (id : Nat) : State :=
  match s.team? id with
  | some t => if s.owesPreempt t then s.preempt id else s
  | none => s

/-- Pre-empt every team of a context that may be now (R279, R282); the others are asked for. -/
def State.preemptCtx (s : State) (c : Nat) : State :=
  let ids := (s.teams.filter (fun t => t.ctx == c && t.onCore)).map (·.id)
  ids.foldl (fun a i => a.preempt i) { s with wanted := (s.wanted ++ ids).eraseDups }

/-- A launch arrives with its context (R282): it keeps its serial, state and times; one whose serial stands here already is refused. DESIGN CHOICE, log entry 52. -/
def State.launchIn (s : State) (c : Nat) (m : MovedLaunch) : State :=
  let l := Launch.ofWord m.record m.entry m.next m.exited (m.params.map (BitVec.ofNat 8)) c ((s.func? (nbits m.entry 0 32) (nbits m.entry 32 32)).getD Func.none)
  if (s.launch? l.serial).isSome then s
  else ({ s with launches := s.launches ++ [l], nextSerial := max s.nextSerial (l.serial + 1) } : State).logPut l.serial

/-- A team arrives as the image that a save slot of its context holds (R280, R282). DESIGN CHOICE, log entry 52. -/
def State.teamIn (s : State) (c k : Nat) : State :=
  let z := s.ctxField c 1216 32 * 4096
  match s.engGet c (s.ctxField c 1152 64 + k * z) z false with
  | .error _ => s
  | .ok (n, s1) =>
    let bs := leBytes z n
    match s1.launch? (imgNat bs 0 8) with
    | none => s1
    | some l =>
      let tr (a : Nat) : Option Page := match s1.walk c a with | .page p => some p | _ => none
      let (t, secs) := teamOf l s1.nextId k s1.seqNo tr bs
      let id0 := s1.nextId + 1 + secs.foldl (fun n x => max n x.ids) 0
      let rs := secs.flatMap (·.results)
      let fl : List Flight := rs.zipIdx.map (fun (r, i) =>
        { id := id0 + i, team := t.id, wave := r.wave, lane := r.lane, core := 0, ctx := c, serial := l.serial, kind := .sred, space := .global, va := 0, pa := 0, size := 4
          dest := some r.dest, wide := r.wide, fixed := some r.val, mark := r.mark })
      ({ s1 with teams := s1.teams ++ [t], nextId := id0 + rs.length, seqNo := s1.seqNo + secs.foldl (fun n x => max n x.posts) 0, flights := s1.flights ++ fl } : State).modCtx c
        (fun x => { x with slots := x.slots ++ [k] })

/-- A context arrives from another module (R282): refused from a module of another capability class. -/
def State.migrateIn (s : State) (c : Nat) (m : MoveIn) : State :=
  if s.halted || m.cls != capClass || !(s.ctx c).reg then s
  else m.slots.foldl (fun a k => a.teamIn c k) (m.launches.foldl (fun a x => a.launchIn c x) s)

/-- A context leaves (R282): its teams are pre-empted, and once all are saved the launches that are not in a final state go on elsewhere: here their records end CANCELLED with
DETAIL 0xFFFF, without a notice. DESIGN CHOICE, log entry 52. -/
def State.migrateOut (s : State) (c : Nat) : State :=
  let s1 := s.preemptCtx c
  if s1.teams.any (fun t => t.ctx == c && t.onCore) || s1.launches.any (fun l => l.ctx == c && l.st = .rolledBack) then s1
  else ((s1.launches.filter (fun l => l.ctx == c && !l.st.final)).map (·.serial)).foldl (fun a n =>
    (a.endLaunch n .cancelled 0 0xFFFF false).reboost s1 ((s1.launch? n).elim 256 (·.queue))) s1

/-- CONTEXT_MIGRATE (R282): a context leaves the module, or arrives at it. DESIGN CHOICE, log entry 52. -/
def State.migrate (s : State) (x : Migration) : State :=
  match x.arrive with | none => s.migrateOut x.ctx | some m => s.migrateIn x.ctx m

/-! ## Retirement and cancellation (R268, R374) -/

/-- The add to the signal counter at retirement, or its failure (R268). -/
def State.signal (s : State) (l : Launch) : State :=
  if entSig l.ent = 0 then s
  else
    let r : Except (Nat × Nat) State := do
      let (v, s1) ← s.engRead l.ctx (entSig l.ent) 8
      s1.engWrite l.ctx 0 0xE00 (entSig l.ent) (leBytes 8 (v + 1))
    match r with
    | .ok s1 => s1
    | .error (k, d) =>
      ((if k = 0x12 then s.logLoss 0 l.serial ioUnit 0x12 else s).setLaunch l.serial (fun l => { l with err := 0x86, detail := k })).asyncErr l.ctx
        { cause := k, detail := if k = 4 || k = 5 then d / 8 * 8 + 1 else d, lane := 0, src := 2, addr := entSig l.ent, head := 0, core := 0, wave := 0, que := 0, serial := l.serial }

/-- LAUNCH_RETIRE (R268): once every team has exited and what was staged or sent has been performed, the record becomes RETIRED, SIG is added, and a notice is sent. -/
def State.retire (s : State) (n : Nat) : State :=
  match s.launch? n with
  | none => s
  | some l =>
    if s.halted || !(l.st = .started || l.st = .replayed) || l.next < entTeams l.ent || s.teams.any (fun t => t.serial == n) then s
    else
      let s1 := ((s.settleLaunch n).releaseStaged n).settleLaunch n
      if s1.flights.any (fun f => f.serial == n && f.writes) then s1
      else
        let s2 := s1.setLaunch n (fun l => { l with st := .retired, tend := s.ns, snaps := [], marked := [] })
        ((s2.launch? n).elim s2 s2.signal).notify l.queue

/-- LAUNCH_CANCEL (R270, R374). -/
def State.cancel (s : State) (n : Nat) : State :=
  match s.launch? n with
  | none => s
  | some l =>
    if s.halted || l.st = .rolledBack then s
    else
      (s.endLaunch n .cancelled 0 0 true).reboost s l.queue

end Sys2Proof.Machine
end

