-- ==== Sys2Proof/Machine/Service.lean ====
section
/-!
DEFINITION. What reaches groups and entries from outside them: counts that run out, data that arrives, walks that end, the fault service's verdicts, invalidation, the
watchdog (R21, R56, R126 to R128, R209, R243, R276 to R278, R300).
-/

namespace Sys2Proof.Machine

/-! ## Counts of issue cycles (R56, R128, R215, R223) -/

/-- Has a quadrant of a core no READY group, so that its issue cycles pass idle? -/
def State.quadIdle (s : State) (core quad : Nat) : Bool :=
  !(s.teams.any (fun t => t.resident && t.waves.any (fun w => t.coreOf w == core && w.quad == quad &&
    (w.slots.any (fun g => g.st = .ready) || w.handler.elim false (fun h => h.g.st = .ready)))))

/-- The issue cycles of an idle quadrant pass up to one; false when it has not come to that cycle and is not idle. -/
def State.passTo (s : State) (t w till : Nat) : State × Bool :=
  match s.team? t, s.wave? t w with
  | some x, some y =>
    let c := x.coreOf y
    if s.cycOf x y ≥ till then (s, true)
    else if x.resident && s.quadIdle c y.quad then (s.modQuad c y.quad (fun q => { q with cyc := till, pair := 0, seconds := [], scal := none }), true)
    else (s, false)
  | _, _ => (s, false)

/-- A place of the table's events: a slot of a wave, or beyond the slots its handler fragment. -/
def locOf (t w slot : Nat) : Loc := { team := t, wave := w, slot := slot, handler := decide (slot ≥ 72) }

/-- STALL_EXPIRY (R56). -/
def State.stallExpiry (s : State) (t w slot : Nat) : State :=
  match s.group? (locOf t w slot) with
  | some { wait := .stall till, .. } =>
    (match s.passTo t w till with
     | (s1, true) => s1.modGroup (locOf t w slot) (fun g => match s1.team? t, s1.wave? t w with | some x, some y => g.wake (s1.cycOf x y) | _, _ => g)
     | (s1, false) => s1)
  | _ => s

/-- YIELD_EXPIRY (R215). -/
def State.yieldExpiry (s : State) (t w slot : Nat) : State :=
  match s.group? (locOf t w slot) with
  | some g =>
    if g.yieldTill = 0 then s
    else
      match s.passTo t w g.yieldTill with
      | (s1, true) => s1.modGroup (locOf t w slot) (fun g => { g with yieldTill := 0 })
      | (s1, false) => s1
  | none => s

/-- The `lds` results of a team that reach their registers with that of a number: before them, in the order of their issue, the older ones to the same registers of the same
fragment, so that the value of the later load stays (R23, R128). -/
def Team.ldsUpTo (t : Team) (id : Nat) : List LdsPend :=
  let mine := t.lds.filter (fun q => q.id == id)
  t.lds.filter (fun q => q.id == id || mine.any (fun p => decide (q.id < p.id) && q.wave == p.wave && q.fromHandler == p.fromHandler && q.dest == p.dest))

/-- LDS_WRITEBACK (R128): 8 issue cycles after issue the destination is written. -/
def State.ldsWriteback (s : State) (t id : Nat) : State :=
  match (s.team? t).bind (fun x => x.lds.find? (fun p => p.id == id)) with
  | none => s
  | some p =>
    match s.passTo t p.wave p.due with
    | (s1, true) => ((s1.team? t).elim [] (fun x => x.ldsUpTo id)).foldl (fun a q => a.ldsDone t q) s1
    | (s1, false) => s1

/-! ## Data and walks (R21, R126, R127, R139, R243, R300) -/

/-- LOAD_DATA_ARRIVAL (R21, R127). -/
def State.loadArrival (s : State) (id : Nat) (r : Resp) : State := (s.arrive id r).wakeFlights

/-- SRED_PERFORM (R139). -/
def State.sredPerform (s : State) (id : Nat) : State :=
  match s.flight? id with
  | some f => if f.kind = .sred then (s.arrive id {}).wakeFlights else s
  | none => s

/-- WRITE_PERFORMED (R243): a write under way takes its place; a line of an L1 is evicted; a wave's scratchpad stores are performed. -/
def State.writePerformed (s : State) (w : WSel) : State :=
  match w with
  | .flight id r =>
    (match s.flight? id with
     | some f => if f.writes then (s.perform id r false).wakeFlights else s
     | none => s)
  | .line core pa => s.evict core (lineOf pa)
  | .scratch t w => s.flushScr t w

/-- MAJORITY_RESPONSE_TIMEOUT (R300): a copy counts as not responding to an access; number 0 names firmware's next write into its own pages. DESIGN CHOICE, log entry 21.
DEDUCED, log entry 79. -/
def State.majTimeout (s : State) (id copy : Nat) : State :=
  match s.flight? id with
  | none => if id = 0 && decide (copy < 3) then { s with firmLate := if s.firmLate.contains copy then s.firmLate else s.firmLate ++ [copy] } else s
  | some f =>
    if f.space != .majority || f.fixed.isSome then s
    else
      let s1 := match f.read, f.page with
        | some _, some _ =>
          let todo := f.todo.filter (fun i => i != copy)
          if !todo.isEmpty then s.modFlight id (fun x => { x with todo := todo })
          else if f.acc then s.flightDone f 0
          else s.flightErr f 0x12
        | _, _ => s.perform id { copies := (List.range 5).filter (fun i => i != copy) } false
      s1.wakeFlights

/-- A group no longer waits for a page; with no page left it is looked at again (R126). -/
def Group.walked (g : Group) (page cyc : Nat) : Group :=
  match g.wait with
  | .walk l =>
    let l1 := l.filter (fun p => p != page)
    if l1.isEmpty then g.wake cyc else { g with wait := .walk l1 }
  | _ => g

/-- Does a group wait for a page? -/
def Group.walks (g : Group) (page : Nat) : Bool := match g.wait with | .walk l => l.contains page | _ => false

/-- The entries that a shared TLB of a die and a core's TLB hold (R277). -/
def dieTlb : Nat := 16384
/-- The entries of a core's TLB. -/
def coreTlb : Nat := 256

/-- Put a walk's result into a TLB of `n` entries. -/
def fillTlb (n : Nat) (e : TlbEnt) (l : List TlbEnt) : List TlbEnt := (e :: l.filter (fun y => !(y.ctx == e.ctx && y.vpn == e.vpn))).take n

/-- Does a wave of a team wait for a walk of a page by a context on a die? -/
def walksOn (t : Team) (w : Wave) (die c page : Nat) : Bool :=
  t.ctx == c && t.onCore && t.coreOf w / 24 == die && (w.slots.any (fun g => g.walks page) || w.handler.elim false (fun h => h.g.walks page))

/-- A host address translation of a context's function ends (R126, R134). DEDUCED, log entry 30. -/
def State.atsComplete (s : State) (c page : Nat) : State :=
  let fn := (s.ctx c).fn
  let asked : Wait → Bool := fun w => match w with | .ats l => l.contains (fn, page) | _ => false
  if !(s.teams.any (fun t => t.waves.any (fun w => w.slots.any (fun g => asked g.wait) || w.handler.elim false (fun h => asked h.g.wait)))) then s
  else
    let s1 := s.atsFill fn page
    s1.wakeAll (fun w => match w with | .ats l => l.all (fun (k, p) => (s1.hostPage k (4096 * p)).isSome) | _ => false)

/-- PAGE_WALK_COMPLETE (R126, R277): the one walk that all cores of the die wait for ends: its result enters the die's shared TLB and the TLB of each core that asked, and the
groups that waited are looked at again. A host address translation ends in the same way. -/
def State.walkComplete (s : State) (core c page : Nat) : State :=
  if page ≥ hostTag then s.atsComplete c (page - hostTag)
  else
    let die := core / 24
    let askers := (s.teams.flatMap (fun t => (t.waves.filter (fun w => walksOn t w die c page)).map t.coreOf)).eraseDups
    if askers.isEmpty then s
    else
      let e : TlbEnt := { ctx := c, vpn := page, res := s.walk c (page * 65536) }
      let s1 := askers.foldl (fun a k => a.modCore k (fun x => { x with tlb := fillTlb coreTlb e x.tlb })) { s with dtlb := modNth s.dtlb die (fillTlb dieTlb e) }
      { s1 with teams := s1.teams.map (fun t => { t with waves := t.waves.map (fun w => if walksOn t w die c page then w.mapGroups (fun g => g.walked page (s.cycOf t w)) else w) }) }

/-! ## Seals and counters of the host (R144, R154, R311) -/

/-- SEAL_READ_COMPLETE (R154): the record is checked and D receives a handle or a status, or every lane takes the cause of the read. -/
def State.sealComplete (s : State) (id : Nat) (r : Resp) : State :=
  match s.pend? id with
  | none => s
  | some (t, w, x) =>
    match s.team? t with
    | none => s
    | some tm =>
      if x.op != .seal then s
      else
        let a := (x.vals.head?).getD 0
        let h := (s.wave? t w).elim 0 (·.half)
        let got : Except EErr (Nat × State) :=
          if x.p.v = 1 then .ok (((s.half? t h).elim 0 (fun y => y.scr.nat a 64)), s)
          else if r.crcFail then .error (0x0C, 0, a) else s.engGet tm.ctx a 64 false
        match got with
        | .error (k, _, ad) => (s.dropPend t w id).pendCause t w x k 0 ad
        | .ok (n, s1) =>
          let s2 := s1.dropPend t w id
          let st := sealStatus n tm.scrSize tm.twin
          if st != 0 then s2.pendGo t w x (some st)
          else
            match s2.takeSeal tm.ctx (Tensor.of n) with
            | some (hd, s3) => s3.pendGo t w x (some hd)
            | none => s2.pendGo t w x (some 7)

/-- FETCHADD_COMPLETION (R144, R311): the host has performed the add, unless it answered with an error, and a group that waits for it goes on. -/
def State.fetchAddDone (s : State) (id : Nat) (ok : Bool) : State :=
  match s.hostAdds.find? (fun x => x.1 == id) with
  | none => s
  | some (_, a) =>
    let s1 := if ok then s.hostWrite a (leBytes 8 (s.hostRead a 8 + 1)) else s
    let s2 := ({ s1 with hostAdds := s1.hostAdds.filter (fun x => x.1 != id), flights := s1.flights.filter (fun f => f.id != id) } : State).wakeFlights
    match s2.pend? id with
    | some (t, w, x) =>
      if ok then (s2.dropPend t w id).pendGo t w x none else (s2.dropPend t w id).pendCause t w x 0x05 1 a
    | none => s2

/-! ## Fault queues and verdicts (R95, R96, R180, R200, R252, R276, R278) -/

/-- FQHEAD_ADVANCE (R276): records that waited are written, and their groups go on. -/
def State.fqAdvance (s : State) (c head : Nat) : State :=
  if c ≥ 64 || head < s.ctxField c 256 64 || head > s.ctxField c 320 64 then s
  else
    let s1 := s.setCtxField c 256 64 head
    (s1.drainRecs c (s1.ctx c).waiting.length).recsReady c

/-- Drop what the TLBs hold of a page that is not a mapping. -/
def State.forgetPage (s : State) (c page : Nat) : State :=
  let keep (e : TlbEnt) : Bool := !(e.ctx == c && e.vpn == page && (match e.res with | .page _ => false | _ => true))
  { s with cores := s.cores.map (fun x => { x with tlb := x.tlb.filter keep }), dtlb := s.dtlb.map (fun l => l.filter keep) }

/-- Is the page of a parked lane's record present by now (R95, R134)? -/
def State.pageThere (s : State) (c : Nat) (r : LaneFault) : Bool :=
  if r.host then s.hostOk (s.ctx c).fn r.addr (nbit r.detail 0)
  else decide (r.addr < 2 ^ 56) && (match s.walk c r.addr with | .absent => false | .page _ => true | .malformed => true | .down => true)

/-- The slots of a team's waves whose parked lanes wait for a page. DEDUCED, log entry 69. -/
def Team.parkedOn (t : Team) (page : Nat) : List (Nat × Nat) :=
  t.waves.flatMap (fun w => (w.slotsWith (fun g => g.under = .parked && g.wait = .none && g.recs.any (fun r => r.cause == 4 && faultPage r.addr == page))).map (fun k => (w.idx, k)))

/-- A parked group after the fault service has resolved a page (R95, R96, R278): READY once the page of every record is present; until then it stays as it is. -/
def State.resolveGroup (s : State) (t w slot : Nat) : State :=
  match s.team? t, s.wave? t w with
  | some x, some y =>
    if (y.group slot).recs.all (s.pageThere x.ctx) then
      s.modWave t w (fun y => y.modGroup slot (fun g => { g.enter .ready with wait := .none, recs := [], since := s.cycOf x y }))
    else s
  | _, _ => s

/-- The lanes of a parked group that wait for a refused page enter the handler; the others stay parked (R278). -/
def State.refuseGroup (s : State) (t w slot page : Nat) : State :=
  match s.wave? t w with
  | none => s
  | some y =>
    let g := y.group slot
    let (bad, rest) := g.recs.partition (fun r => faultPage r.addr == page)
    if rest.isEmpty then s.enterHandler t w slot
    else
      let m := lanesMask (bad.map (·.lane))
      match y.parkFor (slot / 9) with
      | none => s
      | some k =>
        (s.modWave t w (fun y => (y.modGroup k (fun _ => { g with mask := g.mask &&& m, recs := bad })).modGroup slot (fun g => { g with mask := g.mask &&& ~~~m, recs := rest }))).enterHandler t w k

/-- Entries and copies of a half that are held on a page are tried again at their engine's next turn (R252). -/
def Half.unholdPage (h : Half) (page : Nat) : Half :=
  let f (l : List Entry) : List Entry := l.map (fun e => if e.held = some page then { e with held := none } else e)
  { h with held := if h.held = some page then none else h.held, drain := if h.drain = some page then none else h.drain
           qidx := f h.qidx, qbin := f h.qbin, qwl := f h.qwl, qstack := f h.qstack, qmat := f h.qmat }

/-- Has a team an element record that waits for a page (R199)? -/
def Team.elemOn (t : Team) (page : Nat) : Bool := t.halves.any (fun h => h.faultQ.elim false (fun q => q.ents.any (fun x => vpn (nbits x.val 0 56) == page)))

/-- The host pages that a resolved verdict makes translate (R134): those that parked lanes and held copies of the context ask for. DEDUCED, log entry 30. -/
def State.atsResolve (s : State) (c page : Nat) : State :=
  let fn := (s.ctx c).fn
  let lanes := (s.teams.filter (fun t => t.ctx == c)).flatMap (fun t => t.waves.flatMap (fun w => w.slots.flatMap (fun g =>
    (g.recs.filter (fun r => r.host && faultPage r.addr == page)).map (fun r => (r.addr / 4096, nbit r.detail 0)))))
  let copies := (s.teams.filter (fun t => t.ctx == c)).flatMap (fun t => t.halves.flatMap (fun h =>
    if h.held = some page then
      (match h.ring.bind (fun r => r.ents.head?) with
       | some x => let d := Copy.of x.val; if d.ssp = 5 || d.dsp = 5 then (List.range 16).map (fun i => (16 * page + i, d.dsp == 5)) else []
       | none => [])
    else []))
  (lanes ++ copies).foldl (fun a (p, wr) =>
    let (x, a1) := a.free
    { a1 with ats := (fn, p, some (wr || x % 2 == 1)) :: a1.ats.filter (fun e => !(e.1 == fn && e.2.1 == p)) }) s

/-- FAULT_VERDICT_RESOLVED (R200, R278). -/
def State.resolved (s : State) (c page : Nat) (replay : List Nat) : State :=
  if c ≥ 64 then s
  else
    let s0 := (s.forgetPage c page).atsResolve c page
    let ts := (s0.teams.filter (fun t => t.ctx == c))
    let s1 := (ts.flatMap (fun t => (t.parkedOn page).map (fun x => (t.id, x)))).foldl (fun a (t, w, k) => a.resolveGroup t w k) s0
    let s2 := { s1 with teams := s1.teams.map (fun t => if t.ctx = c then { t with halves := t.halves.map (fun h => h.unholdPage page) } else t) }
    ((ts.filter (fun t => replay.contains t.id || t.elemOn page)).map (·.id)).foldl (fun a t => a.playTeam t) s2

/-- A `qbin` entry whose page is refused ends: what it has not appended, and what a replay leaves unwritten, is lost and counted (R203, R257). -/
def State.refuseBin (s : State) (t : Team) (h : Nat) (e : Entry) : State :=
  let (s1, lost, left_) := s.binLose t h e e.done e.vals
  (s1.addAerr t.ctx (1 + lost)).binDone t.id h e.seq left_

/-- A `qmat` entry whose page is refused ends: D of `mmld` receives the cause, a waiting `cbld` enters the handler, and nothing else is written. DEDUCED, log entry 44. -/
def State.refuseMat (s : State) (t : Team) (h : Nat) (e : Entry) : State :=
  let s1 := (s.addAerr t.ctx 1).matDone t.id h e.seq
  match e.work with
  | .mmld _ _ _ _ dest wave _ lanes => lanes.foldl (fun a i => a.deliver t.id wave i false dest false 0x04 0) s1
  | .cbld _ addr wave id _ =>
    (match s1.pend? id with
     | some (_, _, x) =>
       let s2 := s1.dropPend t.id wave id
       let recs := (maskLanes 64 ((s2.wave? t.id wave).elim 0 (fun y => (y.group x.slot).mask))).map (fun i =>
         ({ cause := 0x04, detail := 4, lane := i, head := x.head.toNat, addr := addr } : LaneFault))
       (s2.modWave t.id wave (fun y => y.modGroup x.slot (fun g => { g with recs := recs }))).enterHandler t.id wave x.slot
     | none => s1)
  | _ => s1

/-- What a half holds on a refused page completes (R252, R259, R278, R373). DEDUCED, log entry 44. -/
def State.refuseHalf (s : State) (t h page : Nat) : State :=
  let on (l : List Entry) : Option Entry := match l with | e :: _ => if e.held = some page then some e else none | [] => none
  let step (a : State) (f : State → Team → Half → State) : State := match a.team? t, a.half? t h with | some x, some y => f a x y | _, _ => a
  let s1 := step s (fun a x y =>
    if y.held = some page then (match y.ring with
      | some r => (match r.ents with | q :: _ => a.copyRefused x h r q page | [] => a)
      | none => a) else a)
  let s2 := step s1 (fun a x y => match on y.qbin with | some e => a.refuseBin x h e | none => a)
  let s3 := step s2 (fun a x y => match on y.qwl with
    | some e => let (b, lost) := a.listLose x e 0x04; (b.addAerr x.ctx (1 + lost)).listDone t h e.seq
    | none => a)
  let s4 := step s3 (fun a x y => match on y.qstack with
    | some e => ((a.addAerr x.ctx 1).modHalf t h (fun y => { y with qstack := dropEntry y.qstack e.seq })).moved t
    | none => a)
  let s5 := step s4 (fun a x y => match on y.qmat with | some e => a.refuseMat x h e | none => a)
  step s5 (fun a x y =>
    if y.drain = some page then
      (match (List.range 4).find? (fun i => (a.front? t h i).elim false (fun r => !r.ents.isEmpty)) with
       | some i =>
         let n := (a.front? t h i).elim 0 (fun r => r.ents.length)
         (((a.addAerr x.ctx (1 + n)).clearFront t h i).modHalf t h (fun y => { y with drain := none })).teamLeave t
       | none => a.modHalf t h (fun y => { y with drain := none }))
    else a)

/-- FAULT_VERDICT_REFUSED (R95, R252, R278). -/
def State.refused (s : State) (c page : Nat) : State :=
  if c ≥ 64 then s
  else
    let s0 := s.forgetPage c page
    let ts := s0.teams.filter (fun t => t.ctx == c)
    let s1 := (ts.flatMap (fun t => (t.parkedOn page).map (fun x => (t.id, x)))).foldl (fun a (t, w, k) => a.refuseGroup t w k page) s0
    ((ts.filter Team.onCore).flatMap (fun t => (List.range t.halves.length).map (fun h => (t.id, h)))).foldl (fun a (t, h) => a.refuseHalf t h page) s1

/-! ## Invalidation (R277, R294) -/

/-- Do two ranges meet? -/
def meets (a n b m : Nat) : Bool := decide (a < b + m) && decide (b < a + n)

/-- Was a line reached through a page of a range in a context (R294)? -/
def L1Line.viaRange (l : L1Line) (c lo hi : Nat) : Bool := l.via.any (fun (k, v) => k == c && meets (v * 65536) 65536 lo (hi - lo))

/-- TLB_INVALIDATE (R277, R294): the translations of a range are dropped everywhere, and the lines of the pages that they named, and of the pages that stand there
now, are written back and dropped: a page is known by a translation that a TLB holds and by the lines that were reached through it. -/
def State.invalidate (s : State) (c lo hi : Nat) : State :=
  let inRange (e : TlbEnt) : Bool := e.ctx == c && meets (e.vpn * 65536) 65536 lo (hi - lo)
  let old := (s.cores.map (·.tlb) ++ s.dtlb).flatMap (fun l => (l.filter inRange).filterMap (fun e => match e.res with | .page p => some (p.pa, p.size) | _ => none))
  let held := s.cores.flatMap (fun x => (x.l1.filter (fun l => l.viaRange c lo hi)).map (fun l => (128 * l.line / 65536 * 65536, 65536)))
  let new := (List.range ((hi - lo + 65535) / 65536)).filterMap (fun i => match s.walk c (lo + 65536 * i) with | .page p => some (p.pa, p.size) | _ => none)
  let s1 := ((old ++ held ++ new).eraseDups).foldl (fun a (pa, n) => a.dropLines pa n) s
  { s1 with cores := s1.cores.map (fun x => { x with tlb := x.tlb.filter (fun e => !inRange e) }), dtlb := s1.dtlb.map (fun l => l.filter (fun e => !inRange e))
            ats := s1.ats.filter (fun e => !(e.1 == (s.ctx c).fn && meets (e.2.1 * 4096) 4096 lo (hi - lo))) }

/-! ## The watchdog (R209) -/

/-- The watchdog limit of a context in ns. -/
def State.wdog (s : State) (c : Nat) : Nat := let n := s.ctxField c 224 32; 1000 * (if n = 0 then 2000 else n)

/-- REGION_WATCHDOG (R209): the region ends, and every group of the wave owes cause 0x11 at its next issue. DESIGN CHOICE, log entry 21. -/
def State.watchdog (s : State) (t w : Nat) : State :=
  match s.team? t, s.wave? t w with
  | some x, some y =>
    if y.depth = 0 || x.stopped || s.ns - y.regionAt < s.wdog x.ctx then s
    else s.modWave t w (fun y => { y with depth := 0, slots := y.slots.map (fun g => if g.st = .free then g else { g with late := true }) })
  | _, _ => s

/-- DEBUGGER_ATTACH (R208): an attached debugger receives cause 0x0F. -/
def State.attach (s : State) (c : Nat) (on : Bool) : State := s.modCtx c (fun x => { x with dbg := on })

end Sys2Proof.Machine
end

