-- ==== Sys2Proof/Machine/Issue.lean ====
section
/-!
DEFINITION. What comes next: the choice of a group (R223, R224, R228), its fetch and successor checks (R54, R98), checked issue (R226, R227), and debugger stops and steps
(R208, R235 to R237).
-/

namespace Sys2Proof.Machine

/-! ## The choice of a group (R215, R224) -/

/-- A READY group as the choice looks at it: its place, AGE, launch priority, the order of ties, whether its wave has an open record with arrivals, the wave's last issue,
and whether its `yield` excludes it because another group of the quadrant is ready. -/
structure Cand where
  loc : Loc
  age : Nat
  prio : Nat
  tie : List Nat
  rec3 : Bool
  last : Nat
  yields : Bool
  deriving DecidableEq, Repr

/-- The lexicographic order of lists of numbers. -/
def lexLt : List Nat → List Nat → Bool
  | [], [] => false
  | [], _ :: _ => true
  | _ :: _, [] => false
  | a :: l, b :: m => decide (a < b) || (a == b && lexLt l m)

/-- The candidate with the least key. -/
def leastBy (key : Cand → List Nat) (l : List Cand) : Option Cand :=
  l.foldl (fun (b : Option Cand) x => match b with | none => some x | some y => if lexLt (key x) (key y) then some x else some y) none

/-- A key by which the greatest AGE comes first, then the order of ties. -/
def Cand.byAge (c : Cand) : List Nat := (2 ^ 128 - c.age) :: c.tie

/-- A key by which the wave whose last issue is the oldest comes first, by the order of ties among such waves, then in it the greatest AGE. -/
def Cand.byWave (c : Cand) : List Nat := c.last :: c.tie.take 2 ++ (2 ^ 128 - c.age) :: c.tie.drop 2

/-- The choice of R224 among candidates, and whether it was made at step 3; `run3` counts the quadrant's last issues at that step. -/
def chooseGroup (run3 : Nat) (l : List Cand) : Option (Cand × Bool) :=
  match leastBy Cand.byAge (l.filter (fun c => decide (c.age ≥ 128))) with
  | some c => some (c, false)
  | none =>
    let l2 := l.filter (fun c => !c.yields)
    let top := l2.foldl (fun m c => max m c.prio) 0
    let l3 := l2.filter (fun c => c.prio == top)
    match if run3 ≥ 8 then none else leastBy Cand.byAge (l3.filter (·.rec3)) with
    | some c => some (c, true)
    | none => (leastBy Cand.byWave l3).map (fun c => (c, false))

/-- Does a context issue unchecked (R214, R228)? -/
def CtxSt.unchecked (c : CtxSt) : Bool := c.cflags.getLsbD 2

/-- The candidate that a group of a wave is. DESIGN CHOICE, log entry 72. -/
def Team.cand (t : Team) (w : Wave) (cyc slot : Nat) (h : Bool) (g : Group) : Cand :=
  { loc := { team := t.id, wave := w.idx, slot := slot, handler := h }, age := cyc - g.since, prio := t.prio
    tie := [t.admitted, w.idx, if h then 0 else g.low, slot], rec3 := w.recs.any (fun r => r.valid && r.arrived != 0), last := w.lastIssue, yields := decide (g.yieldTill > cyc) }

/-- The candidates of a wave: its groups that satisfy a test, the handler fragment's included (R234). -/
def Team.waveCands (t : Team) (w : Wave) (cyc : Nat) (p : Group → Bool) : List Cand :=
  (w.slotsWith p).map (fun k => t.cand w cyc k false (w.group k)) ++
  (match w.handler with | some h => if p h.g then [t.cand w cyc 72 true h.g] else [] | none => [])

/-- Each candidate with its exclusion: a `yield` excludes a group only while another one is ready (R224). -/
def excluded (l : List Cand) : List Cand := if l.length ≤ 1 then l.map (fun c => { c with yields := false }) else l

/-- The READY groups of a quadrant that may issue in its cycle. -/
def State.cands (s : State) (core quad : Nat) : List Cand :=
  let cyc := ((s.core core).quad quad).cyc
  excluded (s.teams.flatMap (fun t =>
    if !t.resident then []
    else t.waves.flatMap (fun w =>
      if t.coreOf w = core && w.quad = quad then t.waveCands w cyc (fun g => g.st = .ready && decide (g.ready ≤ cyc)) else [])))

/-- Does a candidate's team issue unchecked (R228)? -/
def State.unchecked (s : State) (c : Cand) : Bool := (s.team? c.loc.team).elim false (fun t => (s.ctx t.ctx).unchecked)

/-- The candidates in the order in which R224 would choose them, each with whether its choice is made at step 3; `n` bounds their number. -/
def orderCands : Nat → Nat → List Cand → List (Cand × Bool)
  | 0, _, _ => []
  | n + 1, run3, l =>
    match chooseGroup run3 l with
    | some (c, at3) => (c, at3) :: orderCands n (if at3 then run3 + 1 else 0) (l.filter (fun x => x.loc != c.loc))
    | none => []

/-- All candidates, each once, in the order in which R224 would choose them: a `yield` puts a group behind the others, and when only such groups are left it excludes none
(R215, R237). -/
def orderAll : Nat → Nat → List Cand → List Cand
  | 0, _, _ => []
  | n + 1, run3, l =>
    match (chooseGroup run3 (excluded l)).orElse (fun _ => chooseGroup run3 (l.map (fun c => { c with yields := false }))) with
    | some (c, at3) => c :: orderAll n (if at3 then run3 + 1 else 0) (l.filter (fun x => x.loc != c.loc))
    | none => []

/-! ## The issue of a chosen group (R75, R98, R209, R227) -/

/-- What comes of an act: the state when nothing is left to do, or an instruction or event to run. -/
inductive Ready where
  | done (s : State)
  | run (i : Instr) (s : State)
  deriving DecidableEq, Repr

/-- The `lds` results of a team that are due by now reach their registers (R128). -/
def State.ldsDue (s : State) (t : Nat) : State :=
  match s.team? t with
  | none => s
  | some x => (x.lds.filter (fun p => match x.waves[p.wave]? with | some w => decide (p.due ≤ s.cycOf x w) | none => false)).foldl (fun a p => a.ldsDone t p) s

/-- A chosen group: the watchdog's cause, its successor checks, its fetch and decoding, then the instruction to run, with a disagreement of the two datapaths
that it will meet when it issues (R227). DEDUCED, log entry 29. -/
def State.issueAt (s0 : State) (l : Loc) (disagree : Bool) : Ready :=
  let s := s0.ldsDue l.team
  match s.env? l [] with
  | none => .done s
  | some e =>
    let pc := e.g.pc.toNat
    if e.g.late && !l.handler then .done (({ s.modGroup l (fun g => { g with late := false }) with cur := none }).groupCause e 0 0x11 0 0)
    else
      match s.fetch e.core e.team.ctx pc e.g.chooser.toNat with
      | .wait pages => .done (s.stallOn l .stalled (.walk pages))
      | .cause k d a h => .done (((if k = 0x12 then s.logLoss 0 e.team.serial e.core 0x12 else s).issued e).takeCause l k d a h)
      | .code ps =>
        match decode e.dc ps with
        | .notHead => .done ((s.issued e).takeCause l 0x02 0 pc e.g.chooser.toNat)
        | .illegal r => .done (s.groupCause e 0 0x01 r.code 0)
        | .instr i => .run i { s with cur := some l, disagree := disagree && !(s.ctx e.team.ctx).unchecked }

/-- Is the group at a place READY? -/
def State.readyAt (s : State) (l : Loc) : Bool := (s.group? l).elim false (fun g => g.st = .ready)

/-- A pairing closes, and its cycles pass; without one, groups found for a primary that did not issue are forgotten (R228). -/
def Quad.close (q : Quad) : Quad := { q with cyc := q.cyc + q.pair, pair := 0, seconds := [], scal := none }

/-- The second group of an open pairing issues (R228): the first of those found when the pairing was chosen that is READY still; with none left the pairing closes and its
cycles pass. -/
def State.issueSecond (s : State) (core quad : Nat) (disagree : Bool) : Ready :=
  let q := (s.core core).quad quad
  match q.seconds.dropWhile (fun x => !s.readyAt x.1) with
  | [] => .done (s.modQuad core quad Quad.close)
  | x :: r => (s.modQuad core quad (fun q => { q with at3 := x.2, seconds := x :: r })).issueAt x.1 disagree

/-- A quadrant issues (R223, R224, R228): the group of R224, and for an unchecked context the groups that may issue beside it in the same cycle are found with it. With no
group to choose the cycle passes. Groups of which a source is pending are STALLED by then (R220). DESIGN CHOICE, log entry 72. -/
def State.issueQuad (s0 : State) (core quad : Nat) (disagree : Bool) : Ready :=
  let q := (s0.core core).quad quad
  if q.pair != 0 then s0.issueSecond core quad disagree
  else
    let s := (s0.cands core quad).foldl (fun a c => (a.ldsDue c.loc.team).examine c.loc) s0
    let l := s.cands core quad
    match chooseGroup q.run3 l with
    | none => .done (s.modQuad core quad (fun q => { q with cyc := q.cyc + 1, seconds := [], scal := none }))
    | some (c, at3) =>
      let beside := if s.unchecked c then orderCands l.length (if at3 then q.run3 + 1 else 0) (l.filter (fun x => x.loc != c.loc && s.unchecked x)) else []
      let sc := if beside.isEmpty then none else (s.wave? c.loc.team c.loc.wave).map (fun w => (c.loc.team, c.loc.wave, w.s))
      (s.modQuad core quad (fun q => { q with at3 := at3, seconds := beside.map (fun x => (x.1.loc, x.2)), scal := sc })).issueAt c.loc disagree

/-! ## The debugger (R208, R235 to R237) -/

/-- DEBUG_STOP (R235). -/
def State.debugStop (s : State) (t : Nat) : State :=
  match s.team? t with
  | some x => if (s.ctx x.ctx).dbg then s.freezeTeam t else s
  | none => s

/-- DEBUG_RESUME (R237): time spent FROZEN counts toward neither the watchdog nor R230; a region that a step opened meanwhile is timed from now on. -/
def State.debugResume (s : State) (t : Nat) : State :=
  match s.team? t with
  | none => s
  | some x =>
    if !x.stopped then s
    else s.modTeam t (fun x =>
      { x with stopped := false, focus := none, idle := min s.clock.toNat (x.idle + (s.clock.toNat - x.stopCyc))
               waves := x.waves.map (fun w =>
                 { w with regionAt := w.regionAt + (s.ns - max x.stopAt w.regionAt) }.mapGroups (fun g => { g.thaw x.resident (s.cycOf x w) with breaking := false })) })

/-- What a step reports of a focus that is not ready: a state of R219 (R236). -/
def State.report (s : State) (st : GState) : State := { s with readOut := leBytes 4 st.code }

/-- The team stops again after a debugger's step, and the focus is found from the lanes of the old one (R236): the group of the lowest lane that neither faulted nor exited,
else the parked group, else none. A focus that has issued nothing, because the step found that it must wait, is reported with its state. -/
def State.refreeze (s : State) (t w : Nat) (mask : DWord) : State :=
  let s1 := s.stopTeam t
  match s1.wave? t w with
  | none => s1
  | some y =>
    if mask = 0 then s1
    else
      let bad (i : Nat) : Bool := y.slots.any (fun g => g.st != .free && g.recs.any (fun r => r.lane == i))
      let l := (maskLanes y.width mask).filter (fun i => !y.exited.getLsbD i)
      let next := ((l.filter (fun i => !bad i)).head?).orElse (fun _ => l.head?)
      let s2 := s1.modTeam t (fun x => { x with focus := next.map (fun i => (w, i)) })
      let waits (g : Group) : Bool := match g.wait with | .none => false | .stall _ => false | _ => g.under = .stalled && g.mask = mask
      if y.slots.any waits then s2.report .stalled else s2

/-- A frozen group that was READY may issue for the debugger. -/
def State.thawOne (s : State) (l : Loc) : State :=
  s.modGroup l (fun g => if g.st = .frozen && g.prior = .ready then { g with st := .ready, prior := .free, ready := 0 } else g)

/-- The team of a debugger's step: groups of which a source is pending are STALLED (R220), and the quadrant of the wave holds no group for a pairing (R228). -/
def State.stepReady (s : State) (t w : Nat) : State :=
  match s.team? t, s.wave? t w with
  | some x, some y => ((s.ldsDue t).examineTeam t).modQuad (x.coreOf y) y.quad Quad.close
  | _, _ => s

/-- SINGLE_STEP (R236): the focus is the group that holds a lane; when it is ready it issues one instruction, and the team stops again; else nothing issues, and the
debugger reads the group's state, a code of R219: DRAINED while its team is off the core. DEDUCED, log entry 82. -/
def State.singleStep (s0 : State) (t w lane : Nat) : State :=
  let s := s0.stepReady t w
  match s.team? t, s.wave? t w with
  | some x, some y =>
    if !x.stopped then s0
    else if !x.resident then
      (match (y.slotsWith (fun g => g.mask.getLsbD lane)).head? with
       | none => s0.modTeam t (fun x => { x with focus := none })
       | some k => (s0.modTeam t (fun x => { x with focus := some (w, (y.group k).low) })).report .drained)
    else
      match (y.slotsWith (fun g => g.mask.getLsbD lane)).head? with
      | none => s.modTeam t (fun x => { x with focus := none })
      | some k =>
        let g := y.group k; let l : Loc := { team := t, wave := w, slot := k }
        let s1 := s.modTeam t (fun x => { x with focus := some (w, g.low) })
        if g.st = .frozen && g.prior = .ready then
          let (v, s2) := s1.free
          { s2.thawOne l with agenda := .only l (v % 2 == 1) :: .refreeze t w g.mask :: s2.agenda }
        else s1.report g.under
  | _, _ => s0

/-- STEP_WAVE (R237): each group of a wave that is ready at the start issues once, in the order of R224, and the team stops again. -/
def State.stepWave (s0 : State) (t w : Nat) : State :=
  let s := s0.stepReady t w
  match s.team? t, s.wave? t w with
  | some x, some y =>
    if !x.stopped || !x.resident then s0
    else
      let l := x.waveCands y (s.cycOf x y) (fun g => g.st = .frozen && g.prior = .ready)
      let locs := (orderAll l.length ((s.core (x.coreOf y)).quad y.quad).run3 l).map (·.loc)
      let (v, s1) := s.free
      { locs.foldl (fun a l => a.thawOne l) s1 with
        agenda := locs.zipIdx.map (fun (l, i) => Act.only l (nbit v i)) ++ .refreeze t w 0 :: s1.agenda }
  | _, _ => s0

/-- The breaking group at a place with its `bkpt` (R208). -/
def State.breakAt (s : State) (l : Loc) : Option (Env × Head × Payload) :=
  match s.env? l [] with
  | none => none
  | some e =>
    if !e.g.breaking then none
    else
      match s.fetch e.core e.team.ctx e.g.pc.toNat e.g.chooser.toNat with
      | .code ps => (match decode e.dc ps with | .instr (.bkpt h p) => some (e, h, p) | _ => none)
      | _ => none

/-- DEBUG_PASS (R208): the breaking group goes on at the successor of the leaf of its `bkpt`, and its team stays stopped. -/
def State.debugPass (s : State) (t w slot : Nat) : State :=
  let l := locOf t w slot
  match s.breakAt l with
  | none => s
  | some (_, h, p) =>
    let s1 := { ((s.stepReady t w).modGroup l (fun g => { g with breaking := false })).thawOne l with cur := some l, disagree := false }
    (issueH (Tree.one .bkpt h p) s1 (fun a e _ _ => .commit a e.g.fmt)).stopTeam t

/-- DEBUG_DELIVER (R208): the breaking group takes cause 0x0F into the handler. -/
def State.debugDeliver (s : State) (t w slot : Nat) : State :=
  let l := locOf t w slot
  match s.breakAt l with
  | none => s
  | some (e, _, p) => (s.modGroup l (fun g => { g with breaking := false })).takeCause l 0x0F p.c.toNat 0 e.head.toNat

/-! ## What comes next -/

/-- Time passes: the arithmetic clock and the time since reset move on by free amounts (R5, R269), and the teams with a READY group are noted (R230). DESIGN CHOICE, log entry 2. -/
def State.tick (s : State) : State :=
  { s with clock := s.clock + BitVec.ofNat 64 (Config.clockStep s.draw), ns := s.ns + Config.nsStep s.draw, draw := s.draw + 1, disagree := false
           teams := s.teams.map (fun t => if t.ready then { t with idle := s.clock.toNat } else t) }

/-- The first quadrant with an open pairing or a READY group. DESIGN CHOICE, log entry 1. -/
def State.firstQuad (s : State) : Option (Nat × Nat) :=
  (s.cores.zipIdx.findSome? (fun (c, i) => (c.quads.zipIdx.find? (fun (q, _) => q.pair != 0)).map (fun (_, k) => (i, k)))).orElse (fun _ =>
    (s.teams.flatMap (fun t => t.waves.filterMap (fun w =>
      if t.resident && (w.slots.any (fun g => g.st = .ready) || w.handler.elim false (fun h => h.g.st = .ready)) then some (t.coreOf w, w.quad) else none))).foldl
      (fun (b : Option (Nat × Nat)) x => match b with | none => some x | some y => if lexLt [x.1, x.2] [y.1, y.2] then some x else some y) none)

/-- The groups of a team with their slots; 72 stands for the handler fragment. -/
def Team.places (t : Team) : List (Nat × Nat × Group) :=
  t.waves.flatMap (fun w => (w.slots.zipIdx.map (fun (g, k) => (w.idx, k, g))) ++ (match w.handler with | some h => [(w.idx, 72, h.g)] | none => []))

/-- The event that comes next when the agenda is empty and no group is READY: what a group or an entry waits for. DESIGN CHOICE, log entry 1. -/
def State.idleEvent (s : State) : Option Instr :=
  let flight : Option Instr := (s.flights.find? (fun f => (!f.sent || f.fixed.isSome) && !s.waitsTeam f && !s.heldBack f)).map (fun f =>
    if f.kind = .sred then .sredPerform f.id else if f.dest.isSome then .loadDataArrival f.id {} else .writePerformed (.flight f.id {}))
  let walk (_ : Unit) : Option Instr := s.teams.findSome? (fun t => t.places.findSome? (fun (w, _, g) =>
    match g.wait, t.waves[w]? with
    | .walk (p :: _), some y => some (.pageWalkComplete (t.coreOf y) t.ctx p)
    | .ats l, some y => (l.find? (fun (fn, p) => (s.hostPage fn (4096 * p)).isNone)).map (fun (_, p) => .pageWalkComplete (t.coreOf y) t.ctx (hostTag + p))
    | _, _ => none))
  let lds (_ : Unit) : Option Instr := s.teams.findSome? (fun t => t.lds.head?.map (fun p => .ldsWriteback t.id p.id))
  let group (_ : Unit) : Option Instr := s.teams.findSome? (fun t => t.places.findSome? (fun (w, k, g) =>
    match g.wait with
    | .stall _ => some (.stallExpiry t.id w k)
    | .sealRead i => some (.sealReadComplete i {})
    | .fetchAdd i => some (.fetchaddCompletion i true)
    | _ => none))
  let entry (_ : Unit) : Option Instr := s.teams.findSome? (fun t => t.halves.findSome? (fun h =>
    if !h.qwl.isEmpty then some (.worklistEngineTurn h.core)
    else if !h.qidx.isEmpty then some (.indexEngineTurn h.core)
    else if h.ring.elim false (fun r => !r.ents.isEmpty) then some (.copyEngineTurn h.core)
    else if !h.qstack.isEmpty then some (.stackEngineSmv t.id)
    else match h.qbin, h.qmat with
      | e :: _, _ => (match e.work with | .bplay _ _ => some (.bplayPerform h.core) | _ => some (.binEngineTurn h.core))
      | [], e :: _ => (match e.work with
        | .joint .. => some (.matrixJointOperation h.core) | .mmld .. => some (.mmldPerform h.core)
        | .mmst .. => some (.mmstPerform h.core) | _ => some (.cbldComplete h.core))
      | [], [] => if t.waves.all (·.left) then some (.worklistFrontDrain t.id) else none))
  let park (_ : Unit) : Option Instr := (s.teams.find? (fun t => t.draining && !s.awaits t.id)).map (fun t => .teamPark t.id)
  let retire (_ : Unit) : Option Instr := (s.launches.find? (fun l => (l.st = .started || l.st = .replayed) && !(s.teams.any (fun t => t.serial == l.serial)) &&
    decide (l.next ≥ entTeams l.ent))).map (fun l => .launchRetire l.serial)
  let mail (_ : Unit) : Option Instr := s.mx.cmd.map (fun c => match c with
    | 1 => .attestationReport | 2 => .extendRegister | 3 => .addContainerKey | 4 => .readCertificateChain | 5 => .ideKeyExchange | c => .mailboxBadCommand c)
  let out (_ : Unit) : Option Instr := (s.hostAdds.head?.map (fun x => .fetchaddCompletion x.1 true)).orElse (fun _ => s.outQ.head?.map (fun f => .fabricTransaction f))
  flight.orElse (fun _ => (walk ()).orElse (fun _ => (lds ()).orElse (fun _ => (group ()).orElse (fun _ => (entry ()).orElse (fun _ => (park ()).orElse (fun _ => (retire ()).orElse (fun _ => (mail ()).orElse out)))))))

/-- What comes next: the head of the agenda; with none, a quadrant that has a READY group, else an event that something waits for, else only time passes. DESIGN CHOICE, log entry 1. -/
def State.pick (s0 : State) : Ready :=
  let s := s0.tick
  match s.agenda with
  | .ev i :: r => .run i { s with agenda := r, cur := none }
  | .issue c q d :: r => { s with agenda := r }.issueQuad c q d
  | .only l d :: r =>
    (match s.group? l with
     | some g => if g.st = .ready then { s with agenda := r }.issueAt l d else .done { s with agenda := r }
     | none => .done { s with agenda := r })
  | .refreeze t w m :: r => .done ({ s with agenda := r }.refreeze t w m)
  | [] =>
    match s.firstQuad with
    | some (c, q) => s.issueQuad c q false
    | none => (match s.idleEvent with | some i => .run i { s with cur := none } | none => .done s)

end Sys2Proof.Machine
end

