-- ==== Sys2Proof/Machine/Fabric.lean ====
section
/-!
DEFINITION. The Lighthouse and the fabric: routing, forwarding, requests from other modules and answers to this one's, flits, retry, lanes,
ports and the island reset (R133, R307, R308, R337 to R345).
-/

namespace Sys2Proof.Machine

/-! ## Ports and routes -/

/-- A port's register. -/
def State.port (s : State) (p : Nat) : Port := nth {} s.ports p

/-- Change a port. -/
def State.modPort (s : State) (p : Nat) (f : Port → Port) : State := { s with ports := modNth s.ports p f }

/-- A port that carries nothing: EN = 0, or it cannot train (R342, R345). -/
def State.portDown (s : State) (p : Nat) : Bool := !(s.port p).en || !(s.port p).up

/-- The VALID and PORTS in force toward a module on a fabric lane (R339, R340). DEDUCED, log entry 57. -/
def State.routeFor (s : State) (m lane : Nat) : Bool × Nat :=
  let r := nth {} s.routes m
  match r.old.find? (fun (x : Nat × Bool × Nat) => x.1 == lane) with
  | some (_, v, p) => (v, p)
  | none => (r.valid, r.ports)

/-- The port by which a transaction leaves toward a module on a lane: rank LANE mod *n* of the *n* ports of the set; none when the module is not
reachable (R339, R345). -/
def State.outPort (s : State) (m lane : Nat) : Option Nat :=
  let (v, ps) := s.routeFor m lane
  let l := (List.range 32).filter (fun p => nbit ps p)
  if !v || l.all (fun p => s.portDown p) then none else l[lane % l.length]?

/-- Is a request toward a module on a lane without its response (R340): one that waits in the queue, or one that has left, be it this module's own, of a launch that has ended since, or
one forwarded for another module? DEDUCED, log entry 57. -/
def State.laneBusy (s : State) (m lane : Nat) : Bool :=
  s.transit.any (fun (x : Nat × Nat × Nat × Nat) => x.1 == m && x.2.1 == lane) || s.outQ.any (fun x => x.dst == m && x.lane == lane && decide (x.typ ≤ 2))

/-- A request leaves by a port: its response is awaited (R340). -/
def State.gone (s : State) (f : Txn) : State := if f.typ ≤ 2 then { s with transit := s.transit ++ [(f.dst, f.lane, f.src, f.tag)] } else s

/-- A response passes: its request, by lane, requester and tag, is awaited no longer (R340); an ENDPOINT-DOWN comes from whichever module gave it. -/
def State.back (s : State) (f : Txn) : State :=
  if f.typ ≤ 2 then s else { s with transit := s.transit.eraseP (fun (x : Nat × Nat × Nat × Nat) => x.2 == (f.lane, f.dst, f.tag)) }

/-- ROUTE_WRITE (R338 to R340): each lane with an outstanding request keeps what held before; the module's own entry is ignored, and under the Shutter's lock every write. DEDUCED, log entry 94. -/
def State.routeWrite (s : State) (i v : Nat) : State :=
  if i = s.mid || i ≥ 256 || s.islReset || s.mx.lock then s
  else
    let old := ((List.range 16).filter (fun k => s.laneBusy i k)).map (fun k => (k, s.routeFor i k))
    { s with routes := modNth s.routes i (fun _ => { valid := nbit v 32, ports := v % 2 ^ 32, old := old }) }

/-- PEND of a ROUTE register (R339). -/
def Route.pend (r : Route) : Bool := !r.old.isEmpty

/-- ROUTE_LANE_CHANGEOVER (R340). -/
def State.routeChange (s : State) (i lane : Nat) : State :=
  if s.laneBusy i lane then s
  else { s with routes := modNth s.routes i (fun r => { r with old := r.old.filter (fun (x : Nat × Bool × Nat) => x.1 != lane) }) }

/-! ## Flits and transactions as they are sent (R323, R343, R344) -/

/-- The header of a transaction (R344). -/
def txnHeader (f : Txn) : Nat :=
  f.cv % 2 ^ 32 * 2 ^ 96 + f.addr % 2 ^ 56 * 2 ^ 136 + f.status % 16 * 2 ^ 197 + f.aop % 2 ^ 13 * 2 ^ 201 + f.hops % 4 * 2 ^ 214 + f.tag % 2 ^ 16 * 2 ^ 216 + f.lane % 16 * 2 ^ 232 +
    f.typ % 16 * 2 ^ 236 + f.src % 256 * 2 ^ 240 + f.dst % 256 * 2 ^ 248

/-- The slots of a transaction (R344): the header, for a write the byte mask and the line, for a read response the line; an atomic carries its operands as a write does its line, and its response
the old value as a read response does. DEDUCED, log entry 57. -/
def txnSlots (f : Txn) : List Byte :=
  let h := leBytes 32 (txnHeader f); let d := leBytes 128 f.data
  match f.typ with
  | 1 | 2 => h ++ leBytes 16 f.mask ++ d
  | 3 | 5 => h ++ d
  | _ => h

/-- The slots that a transaction occupies in the request and in the response channel (R343, R344). -/
def slotUse (f : Txn) : Nat × Nat :=
  let n := match f.typ with | 1 | 2 => 11 | 3 | 5 => 10 | _ => 2
  if f.typ ≤ 2 then (n, 0) else (0, n)

/-- The slots of the transactions of a flit, by channel. -/
def slotsUse (l : List Txn) : Nat × Nat := l.foldl (fun a f => (a.1 + (slotUse f).1, a.2 + (slotUse f).2)) (0, 0)

/-- Bytes 0 to 251 of a flit (R343): link header, fifteen slots, the slot map with its poison bits. -/
def flitBody (f : Flit) : List Byte :=
  let sl := f.txns.flatMap txnSlots; let n := sl.length / 16
  let pois := (f.txns.foldl (fun (r : Nat × Nat) t => let k := (txnSlots t).length / 16; (r.1 + k, if t.pois then r.2 + (2 ^ k - 1) * 2 ^ r.1 else r.2)) (0, 0)).2
  leBytes 8 (f.seq % 4096 + f.ack % 4096 * 2 ^ 12 + f.kind % 8 * 2 ^ 24 + f.creq % 4096 * 2 ^ 27 + f.crsp % 4096 * 2 ^ 39) ++ (sl ++ List.replicate 240 0).take 240 ++
    leBytes 4 (2 ^ n - 1 + pois % 2 ^ 15 * 2 ^ 15)

/-- The 256 bytes of a flit (R343). -/
def flitBytes (f : Flit) : List Byte := flitBody f ++ leBytes 4 f.crc

/-- Is a flit good: its FEC codeword could be corrected and its CRC passes (R343)? -/
def flitGood (f : Flit) : Bool := f.ok && f.crc == (crc32c (flitBody f)).toNat

/-- A port puts a flit of a kind on its link: it names the last good flit received and returns the slot credits that are owed. -/
def Port.emit (x : Port) (kind : Nat) (l : List Txn) : Port × Flit :=
  let f := ({ ok := true, seq := x.txSeq, ack := x.ack, kind := kind, txns := l, creq := min 4095 x.owed.1, crsp := min 4095 x.owed.2 } : Flit)
  let f1 : Flit := { f with crc := (crc32c (flitBody f)).toNat }
  ({ x with owed := (x.owed.1 - f.creq, x.owed.2 - f.crsp), out := [flitBytes f1] }, f1)

/-- A data flit is put on the link and kept among the last 512 (R343); its slots take credits of their channel. -/
def Port.emitData (x : Port) (l : List Txn) : Port :=
  let (y, f) := x.emit 0 l; let n := slotsUse l
  { y with kept := (x.kept ++ [f]).drop (x.kept.length + 1 - 512), txSeq := (x.txSeq + 1) % 4096, credits := (x.credits.1 - n.1, x.credits.2 - n.2) }

/-- Has a port the credits for a transaction in its channel (R343)? -/
def Port.mayEmit (x : Port) (f : Txn) : Bool := decide ((slotUse f).1 ≤ x.credits.1 ∧ (slotUse f).2 ≤ x.credits.2)

/-! ## The way of a transaction (R308, R339, R341) -/

/-- A request that goes no further is answered ENDPOINT-DOWN; a response is dropped. -/
def State.endpointDown (s : State) (f : Txn) : State :=
  if f.typ ≤ 2 then
    let r := txnAnswer f s.mid 1 0 true
    if r.dst = s.mid then s.answerTxn r else s.send r
  else s

/-- A transaction arrives at this Lighthouse by its port: TYPEs 6 to 15 are discarded and counted in the port's RETRIES (R344), one for another module is forwarded within the hop limit. -/
def State.arriveTxn (s : State) (f : Txn) : State :=
  if f.typ ≥ 6 then s.modPort f.port (fun x => { x with retries := min (2 ^ 32 - 1) (x.retries + 1) })
  else
    let s1 := s.back f
    if f.dst = s.mid then s1.ownTxn f
    else if f.typ ≤ 2 && decide (f.hops ≥ 3) then s1.endpointDown f
    else s1.send { f with hops := min 3 (f.hops + 1), port := 0 }

/-- Do two transactions keep their order on the way out: one destination, lane and channel (R308, R343)? -/
def sameWay (f g : Txn) : Bool := f.dst == g.dst && f.lane == g.lane && (decide (f.typ ≤ 2) == decide (g.typ ≤ 2))

/-- The first transaction of the Lighthouse's queue on its way leaves it: to this module itself, by its port, or back as ENDPOINT-DOWN. It stays while its
port is down and another of the set is up, or has no credits for it. DEDUCED, log entry 57. DESIGN CHOICE, log entry 73. -/
def State.leaveTxn (s : State) (f : Txn) : State :=
  let s1 := { s with outQ := s.outQ.erase f }
  if f.dst = s.mid then s1.ownTxn f
  else
    match s.outPort f.dst f.lane with
    | none => s1.endpointDown f
    | some p => if s.portDown p || !(s.port p).mayEmit f then s else (s1.gone f).modPort p (fun x => x.emitData [f])

/-- FABRIC_TRANSACTION: the first of the queue on its way leaves, or one received by a port is performed, answered or forwarded. DESIGN CHOICE, log entry 71. -/
def State.fabricTxn (s : State) (f : Txn) : State :=
  if s.islReset then s
  else if s.outQ.find? (fun x => sameWay x f) == some f then s.leaveTxn f
  else s.arriveTxn f

/-! ## Flits and lanes (R342, R343, R345) -/

/-- A repair completes: the map, its copy in majority space and the log hold it (R321, R330). The kinds are the UKIND of the part. DESIGN CHOICE, log entry 83. -/
def State.repaired (s : State) (kind unit spare : Nat) : State :=
  let v := s.repairs.foldl (fun n x => max n x.version) 0 + 1
  (({ s with repairs := s.repairs ++ [⟨v, kind, unit, spare⟩] } : State).firmStore (repairAt + 16 * (s.repairs.length % 2048))
    (leBytes 16 (v + kind * 2 ^ 64 + unit * 2 ^ 80 + spare * 2 ^ 112))).logError ⟨s.ns, 0, 0, kind * 4096 + unit, 11, 5, 1, spare, 0⟩

/-- A link error of a port is logged (R321). -/
def State.linkError (s : State) (p detail : Nat) : State := s.logError ⟨s.ns, 0, 0, 3 * 4096 + p, 7, 0, 1, detail, 0⟩

/-- LANE_SPARE: a lane of a port fails, and its errors are logged (R321, R345): it failed training, or its symbol errors over 1 s exceed the threshold.
PRESUMED, log entry 53. -/
def State.laneSpare (s : State) (p : Nat) (l : LaneFail) : State :=
  if p ≥ 32 || l.lane ≥ 9 || l.errs.any (fun n => decide (n ≤ s.laneLimit)) then s
  else (s.modPort p (fun x => { x with bad := if x.bad.contains l.lane then x.bad else x.bad ++ [l.lane] })).linkError p l.lane

/-- A port trains with the lanes that are left: eight with the spare, else four, else none (R345). DESIGN CHOICE, log entry 65. -/
def Port.train (x : Port) : Port :=
  let left_ := 9 - x.bad.length
  if !x.en then { x with up := false, width := 0 }
  else { x with spared := x.spared || (x.bad.any (fun l => decide (l < 8)) && !x.bad.contains 8), width := if left_ ≥ 8 then 2 else if left_ ≥ 4 then 1 else 0, up := decide (left_ ≥ 4), row := [] }

/-- PORT_RETRAIN: the port trains again; a link that had errors is logged, and a lane spared is a repair (R321, R328, R345). -/
def State.portRetrain (s : State) (p : Nat) : State :=
  if p ≥ 32 then s
  else
    let s1 := (s.modPort p Port.train).linkError p 16
    if (s1.port p).spared && !(s.port p).spared then s1.repaired 3 p 0 else s1

/-- How far one sequence number lies behind another, mod 4096. -/
def seqFrom (a b : Nat) : Nat := (b % 4096 + 4096 - a % 4096) % 4096

/-- Is a flit that a port keeps one that comes after an ACK? -/
def afterAck (ack seq : Nat) : Bool := decide (seqFrom (ack + 1) seq < 2048)

/-- A good flit of a neighbour returns slot credits, and names the last good flit that it has received: what it has no longer counts as retried in a row. -/
def Port.heard (x : Port) (f : Flit) : Port :=
  { x with credits := (x.credits.1 + f.creq, x.credits.2 + f.crsp), row := x.row.filter (fun r => afterAck f.ack r.1) }

/-- Once more for each of some sequence numbers. -/
def retried (row : List (Nat × Nat)) (l : List Nat) : List (Nat × Nat) :=
  l.map (fun q => (q, (row.find? (fun r => r.1 == q)).elim 1 (fun r => r.2 + 1)))

/-- A retry request: the flits after its ACK are sent again and counted, and the port retrains when one of them has been retried 8 times in a row (R343, R345). -/
def State.flitRetry (s : State) (p : Nat) (f : Flit) : State :=
  let again := (s.port p).kept.filter (fun k => afterAck f.ack k.seq)
  let row := retried (s.port p).row (again.map (·.seq))
  let s1 := (s.modPort p (fun x => { x with retries := min (2 ^ 32 - 1) (x.retries + again.length), row := row, out := again.map flitBytes })).linkError p 17
  if row.any (fun r => decide (r.2 ≥ 8)) then s1.portRetrain p else s1

/-- A port asks its neighbour for the flits after the last good one (R343). -/
def Port.askRetry (x : Port) : Port := (x.emit 2 []).1

/-- A data flit: the next in order is accepted, and the slots of what it brings are owed as credits; one that has been accepted already is discarded; one that shows a gap is asked for
again (R343). -/
def State.flitData (s : State) (p : Nat) (f : Flit) : State :=
  let x := s.port p; let d := seqFrom (x.ack + 1) f.seq
  if d = 0 then
    let n := slotsUse f.txns
    f.txns.foldl (fun a t => a.arriveTxn { t with port := p }) (s.modPort p (fun x => { x.heard f with ack := f.seq % 4096, owed := (x.owed.1 + n.1, x.owed.2 + n.2) }))
  else if d < 2048 then s.modPort p Port.askRetry
  else s

/-- FLIT_RECEIVE: bad flits are discarded and asked for again, unlisted kinds are discarded, a data flit is accepted once and in order, and a retry request resends the flits after its
ACK. A bad flit is a link error (R321). DESIGN CHOICE, log entry 71. -/
def State.flitReceive (s : State) (p : Nat) (f : Flit) : State :=
  if p ≥ 32 || s.portDown p || s.islReset then s
  else if !flitGood f then (s.modPort p Port.askRetry).linkError p 18
  else
    match f.kind with
    | 0 => s.flitData p f
    | 1 | 3 => s.modPort p (fun x => x.heard f)
    | 2 => (s.modPort p (fun x => x.heard f)).flitRetry p f
    | _ => s

/-- EN of a port is written; 0 takes it down, and 1 trains it (R342). -/
def State.portEnable (s : State) (p : Nat) (en : Bool) : State := s.modPort p (fun x => ({ x with en := en } : Port).train)

/-! ## Drained dies and the island reset (R334, R337) -/

/-- Is a core of a die? -/
def coreOnDie (c d : Nat) : Bool := c / 24 == d

/-- Does a team hold a core of a die? -/
def Team.onDie (t : Team) (d : Nat) : Bool := t.onCore && t.halves.any (fun h => coreOnDie h.core d)

/-- Is a transaction one that a core of a die issued? Team 0 is the command processor. -/
def Flight.ofDie (f : Flight) (d : Nat) : Bool := f.team != 0 && coreOnDie f.core d

/-- DRAINED: no team or entry, no dirty line, no outstanding request of the die (R334). -/
def State.drained (s : State) (d : Nat) : Bool :=
  (nth {} s.eps d).st = .quiescing && !s.teams.any (fun t => t.onDie d) &&
  (s.cores.zipIdx.all (fun (c, i) => !coreOnDie i d || c.l1.all (fun l => l.dirty == 0))) &&
  !s.flights.any (fun f => f.ofDie d && f.fixed.isNone)

/-- ISLAND_RESET (R337): the island is quiet, and a failed crossbar plane gives way to the spare one, of which the module has one (R328). -/
def State.islandReset (s : State) : State :=
  if (List.range 4).all (fun d => (nth {} s.eps d).st = .dark || s.drained d) && s.ports.all (fun p => !p.en) then
    (if s.planeBad && s.sparePlane then { s with islReset := true, planeBad := false, sparePlane := false }.repaired 5 0 0 else { s with islReset := true })
  else { s with islRefused := true }

/-- ISLAND_RESET_COMPLETE (R337): the Lighthouse's registers are as after bring-up. DESIGN CHOICE, log entry 65. -/
def State.islandDone (s : State) : State :=
  if s.islReset then { s with islReset := false, islRefused := false, routes := List.replicate 256 {}, ports := List.replicate 32 {}, transit := [] } else s

end Sys2Proof.Machine
end

