-- ==== Sys2Proof/Machine/Die.lean ====
section
/-!
DEFINITION. The die endpoints of the Lighthouse: commands, watchdog, reset, power, and what a die that is lost takes with it (R326, R334 to R336, R338).
-/

namespace Sys2Proof.Machine

/-- A die's endpoint register. -/
def State.ep (s : State) (d : Nat) : Eps := nth {} s.eps d

/-- Change an endpoint register. -/
def State.modEp (s : State) (d : Nat) (f : Eps → Eps) : State := { s with eps := modNth s.eps d f }

/-- What becomes of a launch that takes a machine check or consumes poison, as an ACTION of the error log (R274, R331): 2 rolled back, 3 failed. -/
def Launch.fate (l : Launch) : Nat := if l.replaying && decide (l.repl < 2) then 2 else 3

/-- The ACTION of the error log for the launches of a list of serials: that of the first that is still live, or 0. DESIGN CHOICE, log entry 66. -/
def State.fateOf (s : State) (ns : List Nat) : Nat := ((ns.filterMap s.launch?).find? (fun l => !l.st.final)).elim 0 Launch.fate

/-! ## A die is lost (R326, R336) -/

/-- The launches with a team on a die. -/
def State.launchesOn (s : State) (d : Nat) : List Nat := ((s.teams.filter (fun t => t.onDie d)).map (·.serial)).eraseDups

/-- A request that was sent and is cancelled: it belongs to nobody, and its response will be dropped. -/
def Flight.ghost (f : Flight) : Flight := { f with team := 0, wave := 0, serial := 0, dest := none, eng := false, mark := cancelledMark }

/-- Is a transaction a request toward a die's memory that is outstanding? -/
def State.toward (s : State) (d : Nat) (f : Flight) : Bool :=
  f.fixed.isNone && !f.sent && f.space = .global && (match f.page with | some p => s.homeDie f.pa (p.kind == 2) == d | none => false)

/-- A die becomes ORPHANED or DARK: what its cores had outstanding is cancelled, and the responses to it that come from elsewhere are dropped and counted; requests toward it end
ENDPOINT-DOWN; the launches with a team on it take a machine check with DETAIL 0x0200; and its caches are gone. DESIGN CHOICE, log entry 11. -/
def State.loseDie (s : State) (d : Nat) (st : DieState) : State :=
  let hit := s.launchesOn d
  let s0 := s.modEp d (fun e => { e with st := st, held := none, cold := e.cold || decide (st = .dark) })
  let mine := s0.flights.filter (fun f => f.ofDie d && f.fixed.isNone && f.mark != cancelledMark)
  let sent := mine.filter (fun f => f.sent)
  let s1 := { s0 with flights := s0.flights.filter (fun f => !(mine.any (fun g => g.id == f.id))) }
  let s2 := (mine.filter (fun f => !f.sent && f.space != .remote && f.space != .scratch && f.space != .twin && !s0.toward d f)).foldl (fun a _ => a.drops d) s1
  let s3 := (((s2.flights.filter (s2.toward d)).map (·.id)).foldl (fun a i => (a.flight? i).elim a (fun f => a.perform1 f {} true)) s2).wakeFlights
  let s4 := hit.foldl (fun a n => a.meetFatal n 0x0D 0x0200) s3
  { s4 with
    cores := s4.cores.zipIdx.map (fun (c, i) => if coreOnDie i d then { c with l1 := [], tlb := [] } else c)
    dtlb := s4.dtlb.set d []
    flights := s4.flights ++ sent.map Flight.ghost }

/-! ## Commands (R335) -/

/-- A command that the table does not admit sets REFUSED. -/
def State.refuseCmd (s : State) (d : Nat) : State := s.modEp d (fun e => { e with refused := true })

/-- An admitted command: REFUSED says that the last command was not admitted (R338). DEDUCED, log entry 64. -/
def State.admitCmd (s : State) (d : Nat) : State := s.modEp d (fun e => { e with refused := false })

/-- Pre-empt what can be pre-empted of the teams on a core (R279, R332). -/
def State.preemptCore (s : State) (c : Nat) : State :=
  ((s.teams.filter (fun t => t.onCore && t.halves.any (fun h => h.core == c))).map (·.id)).foldl (fun a i => a.preempt i) s

/-- Write back and empty a core's L1 (R332). -/
def State.emptyL1 (s : State) (c : Nat) : State := ((s.core c).l1.map (·.line)).foldl (fun a ln => a.evict c ln) s

/-- Is a core free of teams? -/
def State.coreEmpty (s : State) (c : Nat) : Bool := !s.teams.any (fun t => t.onCore && t.halves.any (fun h => h.core == c))

/-- Draining a die: its teams are pre-empted, and the cores without a team write their L1 back (R334). -/
def State.drainDie (s : State) (d : Nat) : State :=
  ((List.range 24).map (fun i => 24 * d + i)).foldl (fun a c => let a1 := a.preemptCore c; if a1.coreEmpty c then a1.emptyL1 c else a1) s

/-- CMD quiesce (R335). -/
def State.cmdQuiesce (s : State) (d : Nat) : State :=
  if s.mx.lock || (s.ep d).st != .active then s.refuseCmd d
  else ((s.admitCmd d).modEp d (fun e => { e with st := .quiescing })).drainDie d

/-- CMD release (R335); a command that was held is given up. DEDUCED, log entry 64. -/
def State.cmdRelease (s : State) (d : Nat) : State :=
  if s.mx.lock || (s.ep d).st != .quiescing then s.refuseCmd d
  else (s.admitCmd d).modEp d (fun e => { e with st := .active, held := none })

/-- CMD compute reset (R335): at once, or held until the die is drained. -/
def State.cmdReset (s : State) (d : Nat) : State :=
  if s.mx.lock then s.refuseCmd d
  else
    match (s.ep d).st with
    | .active => (s.admitCmd d).loseDie d .orphaned
    | .quiescing => if s.drained d then (s.admitCmd d).loseDie d .orphaned else (s.admitCmd d).modEp d (fun e => { e with held := some false })
    | .orphaned => s.refuseCmd d
    | .dark => s.refuseCmd d

/-- CMD power off (R335). -/
def State.cmdPowerOff (s : State) (d : Nat) : State :=
  if s.mx.lock then s.refuseCmd d
  else
    match (s.ep d).st with
    | .active => s.refuseCmd d
    | .quiescing => if s.drained d then (s.admitCmd d).loseDie d .dark else (s.admitCmd d).modEp d (fun e => { e with held := some true })
    | .orphaned => (s.admitCmd d).loseDie d .dark
    | .dark => s.refuseCmd d

/-- CMD power on (R335). -/
def State.cmdPowerOn (s : State) (d : Nat) : State :=
  if s.mx.lock || (s.ep d).st != .dark then s.refuseCmd d
  else (s.admitCmd d).modEp d (fun e => { e with st := .orphaned })

/-- DIE_DRAINED: the drain goes on, and a held command proceeds once the die is drained (R335). -/
def State.dieDrained (s : State) (d : Nat) : State :=
  if (s.ep d).st != .quiescing then s
  else
    let s1 := s.drainDie d
    match (s1.ep d).held, s1.drained d with
    | some off, true => s1.loseDie d (if off then .dark else .orphaned)
    | _, _ => s1

/-- DIE_WATCHDOG: the die is ORPHANED with HANG set, and the hang is logged (R321, R335). DESIGN CHOICE, log entry 21. -/
def State.dieWatchdog (s : State) (d : Nat) : State :=
  if !s.served d || d ≥ 4 then s
  else
    let hit := s.launchesOn d; let act := s.fateOf hit
    ((s.loseDie d .orphaned).modEp d (fun e => { e with hang := true })).logError
      ⟨s.ns, 0, (hit.head?).getD 0 % 2 ^ 32, 4 * 4096 + d, 8, act, 1, if act = 0 then 0 else 0x0200, if act = 0 then 0 else 0x0D⟩

/-! ## The return to ACTIVE (R335, R336) -/

/-- The lines of a die's memory. -/
def State.dieLines (s : State) (d : Nat) : List Nat :=
  s.pools.flatMap (fun p =>
    let ls := (List.range (lineOf p.hi - lineOf p.lo)).map (fun i => lineOf p.lo + i)
    if p.plc = 0 then ls.filter (fun k => s.homeDie (128 * k) (s.trackFmt (128 * k)).isSome == d) else if p.die = d then ls else [])

/-- The memory of a die whose power was off: every line holds poison, and the entries of its tracked tiles read general with FIN 0 (R336). -/
def State.coldMemory (s : State) (d : Nat) : State :=
  let ls := s.dieLines d
  let tiles := s.tracked.flatMap (fun r => (List.range ((r.hi - r.lo) / 8192)).map (fun i => (r.lo / 8192 + i, r.fmt)))
  { s with
    poison := ls.foldl (fun l k => if l.contains k then l else k :: l) s.poison
    dir := tiles.foldl (fun m (k, f) => if s.homeDie (8192 * k) true = d then Sparse.write m k (dirEntry 0 0 f 0 0) else m) s.dir }

/-- The fault records that waited for a context's record to answer are written, and their groups go on (R276, R336). DEDUCED, log entry 106. -/
def State.recsAgain (s : State) : State :=
  (List.range 64).foldl (fun a c => if (a.ctx c).waiting.isEmpty then a else (a.drainRecs c (a.ctx c).waiting.length).recsReady c) s

/-- DIE_RESET_COMPLETE: the die is ACTIVE again when every core in service has passed its test and the Shutter lock does not hold (R335, R336, R354). -/
def State.dieResetDone (s : State) (d : Nat) (pass : Bool) : State :=
  if (s.ep d).st != .orphaned || s.mx.lock || s.halted || !pass || d ≥ 4 then s
  else
    let s1 := if (s.ep d).cold then s.coldMemory d else s
    ({ s1.modEp d (fun e => { e with st := .active, cold := false }) with
       cores := s1.cores.zipIdx.map (fun (c, i) => if coreOnDie i d && c.service then { c with test := s.ns } else c) } : State).recsAgain

/-- EPS_FLAG_CLEAR: writing 1 clears REFUSED (bit 4) or HANG (bit 3) (R338). -/
def State.epsClear (s : State) (d bits : Nat) : State :=
  s.modEp d (fun e => { e with refused := e.refused && !nbit bits 4, hang := e.hang && !nbit bits 3 })

end Sys2Proof.Machine
end

