-- ==== Sys2Proof/Machine/Repair.lean ====
section
/-!
DEFINITION. Errors, repair, in-field test, scrub, majority sets and tracking (R295 to R303, R321 to R332).
-/

namespace Sys2Proof.Machine

/-! ## Error reports (R297, R321, R322, R325) -/

/-- A channel is to be repaired (R303, R328). -/
def State.badChan (s : State) (c : Nat) : State := { s with badChans := if s.badChans.contains c || s.lostChans.contains c then s.badChans else s.badChans ++ [c] }

/-- One more corrected error at a line of a unit; and how many there have been there, and on the unit. -/
def State.countCorrected (s : State) (loc ln : Nat) : Nat × Nat × State :=
  let n := (s.corrected.find? (fun x => x.1 == loc && x.2.1 == ln)).elim 0 (·.2.2) + 1
  let l := (loc, ln, n) :: s.corrected.filter (fun x => !(x.1 == loc && x.2.1 == ln))
  (n, (l.filter (fun x => x.1 == loc)).foldl (fun a x => a + x.2.2) 0, { s with corrected := l })

/-- What repeated corrected errors lead to (R328): a core's row waits for its next drain, a channel at its threshold is to be repaired, a row of an L2 slice is repaired online.
DESIGN CHOICE, log entry 66. -/
def State.wear (s : State) (loc ln : Nat) : State :=
  let (n, total, s1) := s.countCorrected loc ln
  match loc / 4096 with
  | 0 => if n ≥ 2 then s1.modCore (loc % 4096) (fun c => { c with badRow := true }) else s1
  | 1 => if s.corrLimit != 0 && decide (total ≥ s.corrLimit) then s1.badChan (loc % 4096) else s1
  | 2 => if n = 2 then s1.repaired 2 (loc % 4096) 0 else s1
  | _ => s1

/-- CORRECTED_ERROR: a corrected error is logged and changes no data. Class 1 is an ECC correction and 7 a link error, on the I/O die a fault of a crossbar plane; 12 is the model's
own name for a directory entry that could not be corrected: it is replaced by general with FIN 0, and a corrected error is logged (R297); its row of the array beside an L2 slice gives way
to a spare row online (R328). `loc` holds UKIND and UNIT. DESIGN CHOICE, log entry 66. -/
def State.correctedError (s : State) (e : ErrInfo) : State :=
  let r (cls : Nat) : LogRec := ⟨s.ns, 128 * lineOf e.addr, 0, e.loc, cls, 0, 1, 0, 0⟩
  match e.cls with
  | 1 => (s.logError (r 1)).wear e.loc (lineOf e.addr)
  | 7 => { s with planeBad := s.planeBad || e.loc / 4096 == 5 }.logError (r 7)
  | 12 =>
    (match s.trackFmt e.addr with
     | some f =>
       let s1 := { s with dir := Sparse.write s.dir (e.addr / 8192) (dirEntry 0 0 f 0 0) }.logError (r 1)
       if e.loc / 4096 = 2 then s1.repaired 2 (e.loc % 4096) 0 else s1
     | none => s)
  | _ => s

/-- UNCORRECTED_MEMORY_ERROR: the line is stored poisoned, and its tile becomes general (R296, R321, R322, R324): class 2, or class 6 for a check value that failed as the line was about
to leave, to whatever exit. Its channel is to be repaired; a row of an L2 slice is repaired online (R328). -/
def State.memoryError (s : State) (e : ErrInfo) : State :=
  if (e.cls = 2 || e.cls = 6) && (s.poolOf e.addr).isSome then
    let pa := 128 * lineOf e.addr
    let s1 := (s.setPoison pa 128).logError ⟨s.ns, pa, 0, e.loc, e.cls, 1, 1, 0, 0⟩
    if e.cls = 2 && e.loc / 4096 = 1 then s1.badChan (e.loc % 4096) else if e.cls = 2 && e.loc / 4096 = 2 then s1.repaired 2 (e.loc % 4096) 0 else s1
  else s

/-- STATE_LOSS: the launch with serial `e.addr` has lost state of a team on this core; the failing row waits for the core's next drain (R325). -/
def State.stateLoss (s : State) (core : Nat) (e : ErrInfo) : State :=
  if s.teams.any (fun t => t.serial == e.addr && t.onCore && t.halves.any (fun h => h.core == core)) then
    ((s.meetFatal e.addr 0x0C 0x0100).modCore core (fun c => { c with badRow := true })).logError ⟨s.ns, 0, e.addr % 2 ^ 32, core, 3, s.fateOf [e.addr], 1, 0x0100, 0x0C⟩
  else s

/-! ## Spares (R328 to R330) -/

/-- A row of a drained core's arrays that had failed gives way to a spare row (R325, R328). -/
def State.rowRepair (s : State) (c : Nat) : State :=
  if (s.core c).badRow then (s.modCore c (fun x => { x with badRow := false })).repaired 0 c 0 else s

/-- A core's number is free for a spare, or leaves service: nothing of the core is left. -/
def CoreSt.replaced (x : CoreSt) (on : Bool) (test : Nat) : CoreSt :=
  { x with service := on, testing := false, marked := false, closed := false, mism := [], badRow := false, l1 := [], tlb := [], test := test }

/-- The record of class 9 of a core or spare that failed its test: its DETAIL is the time of its last passing test, in minutes since reset (R321, R332). DESIGN CHOICE, log entry 66. -/
def State.testRecord (s : State) (unit test : Nat) : LogRec := ⟨s.ns, 0, 0, unit, 9, 4, 1, test / 60000000000 % 65536, 0⟩

/-- The spares of a die are tried for a core's number in order (R2, R328): one that fails its own test, which a free value says, is retired in turn; with none left the number is out of
service. DESIGN CHOICE, log entry 65. -/
def State.trySpares (c : Nat) : List Nat → State → State
  | [], s => s.modCore c (fun x => x.replaced false x.test)
  | i :: l, s =>
    let (x, s1) := s.free
    let s2 : State := { s1 with spares := modNth s1.spares i (fun y => { y with free := false, testing := false }) }
    if x % 2 = 0 then (s2.modCore c (fun y => y.replaced true s.ns)).repaired 0 c (i % 2)
    else State.trySpares c l (s2.logError (s.testRecord (96 + i) (nth {} s.spares i).test))

/-- The numbers of the spares that a die has left. -/
def State.sparesOf (s : State) (d : Nat) : List Nat := [2 * d, 2 * d + 1].filter (fun i => (nth { free := false } s.spares i).free)

/-- A drained core leaves service: a tested spare takes its number, or the number is out of service when the die has none left (R2, R328). DESIGN CHOICE, log entry 65. -/
def State.retireCore (s : State) (c : Nat) : State := State.trySpares c (s.sparesOf (c / 24)) s

/-- Steps 1 to 3 of R332 for a core: it takes no new team, its teams are pre-empted, and once none is left its L1 is emptied and a failed row repaired (R325). -/
def State.drainCore (s : State) (c : Nat) : State :=
  let s1 := (s.modCore c (fun x => { x with closed := true })).preemptCore c
  if s1.coreEmpty c then (s1.emptyL1 c).rowRepair c else s1

/-- Has a core had 16 corrected mismatches within 24 h (R328)? -/
def CoreSt.worn (x : CoreSt) : Bool := decide (x.mism.length ≥ 16) && decide (nth 0 x.mism 0 - nth 0 x.mism 15 ≤ 86400000000000)

/-- CORE_RETIRE_DRAIN: a core with a machine check or 16 corrected mismatches in 24 h is drained and replaced (R227, R328). -/
def State.coreRetire (s : State) (c : Nat) : State :=
  let x := s.core c
  if c ≥ 96 || s.halted || !x.service || !(x.marked || x.worn) then s
  else
    let s1 := s.drainCore c
    if s1.coreEmpty c then s1.retireCore c else s1

/-- Is a core or spare of a die under test, or being drained for one, other than `c` (R332)? -/
def State.testsOn (s : State) (d c : Nat) : Bool :=
  s.cores.zipIdx.any (fun (y, i) => i != c && coreOnDie i d && (y.testing || (y.closed && y.service && !y.marked))) ||
  s.spares.zipIdx.any (fun (y, i) => 96 + i != c && i / 2 == d && y.testing)

/-- INFIELD_TEST: a core is drained, and its test begins; one core of a die at a time; the numbers from 96 on are those of the spares, two for each die (R332). -/
def State.fieldTest (s : State) (c : Nat) : State :=
  if s.halted then s
  else if c ≥ 96 then
    (if s.testsOn ((c - 96) / 2) c || !(nth { free := false } s.spares (c - 96)).free then s else { s with spares := modNth s.spares (c - 96) (fun y => { y with testing := true }) })
  else
    let x := s.core c
    if !x.service || x.testing || s.testsOn (c / 24) c then s
    else
      let s1 := s.drainCore c
      if s1.coreEmpty c then s1.modCore c (fun x => { x with testing := true }) else s1

/-- A spare's test ends (R328, R332). -/
def State.spareTested (s : State) (i : Nat) (pass : Bool) : State :=
  let y := nth {} s.spares i
  if !y.testing then s
  else if pass then { s with spares := modNth s.spares i (fun y => { y with testing := false, test := s.ns }) }
  else { s with spares := modNth s.spares i (fun y => { y with testing := false, free := false }) }.logError (s.testRecord (96 + i) y.test)

/-- INFIELD_TEST_COMPLETE: the core returns to service, or a class 9 record carries the minutes of its last passing test and the core is retired (R328, R332). DESIGN CHOICE, log entry 66. -/
def State.fieldTestDone (s : State) (c : Nat) (pass : Bool) : State :=
  if c ≥ 96 then s.spareTested (c - 96) pass
  else
    let x := s.core c
    if !x.testing then s
    else if pass then s.modCore c (fun x => { x with testing := false, closed := x.marked, test := s.ns })
    else (s.logError (s.testRecord c x.test)).retireCore c

/-- CHANNEL_REPAIR: a channel that failed moves to a spare of its stack, and no access sees it; with no spare left its lines stay on it, and the copies of majority lines there no longer
respond (R328, R329). -/
def State.channelRepair (s : State) (stack chan : Nat) : State :=
  let n := nth 0 s.spareChans stack; let c := 32 * stack + chan
  if stack ≥ 16 || chan ≥ 30 || !s.badChans.contains c then s
  else
    let s1 : State := { s with badChans := s.badChans.filter (· != c) }
    if n = 0 then { s1 with lostChans := s1.lostChans ++ [c] }
    else { s1 with spareChans := modNth s1.spareChans stack (fun n => n - 1), corrected := s1.corrected.filter (fun x => x.1 != 4096 + c) }.repaired 1 c (2 - n)

/-- L2_WAY_REPAIR: one spare way for each 16 ways of a die's slice (R328). -/
def State.wayRepair (s : State) (die way : Nat) : State :=
  if die ≥ 4 || s.sparedWays.any (fun x => x.1 == die && x.2 / 16 == way / 16) then s
  else { s with sparedWays := s.sparedWays ++ [(die, way)] }.repaired 2 die way

/-! ## Majority sets (R298, R303, R329) -/

/-- The first byte of line `i` of a set, as copy 0 numbers it. -/
def setLine (e i : Nat) : Nat := nbits e 32 48 + 128 * i

/-- The lines of a set of `n` pages of 64 KiB. -/
def setLines (n : Nat) : List Nat := List.range (512 * n)

/-- Do the stacks of a set keep the die rule (R298)? -/
def dieRule (nc : Nat) (stks : List Nat) : Bool :=
  stks.eraseDups.length == nc &&
  (let dies := (stks.map (fun k => k / 4)).eraseDups.length
   if nc = 3 then dies == 3 else nc == 5 && dies == 4)

/-- Does a base lie in its stack's pool, 64 KiB aligned, with `n` bytes? -/
def State.baseOk (s : State) (b stk n : Nat) : Bool :=
  b % 65536 == 0 && s.pools.any (fun p => p.plc == 2 && 4 * p.die + p.stk == stk && decide (p.lo ≤ b ∧ b + n ≤ p.hi))

/-- May a set entry become valid (R298)? -/
def State.setOk (s : State) (e pages : Nat) : Bool :=
  let nc := nbits e 0 3
  (nc == 3 || nc == 5) && dieRule nc ((setCopies e).map (·.2)) && (setCopies e).all (fun (b, k) => s.baseOk b k (65536 * pages)) &&
  (nc == 5 || (nbits e 20 8 == 0 && nbits e 176 96 == 0)) && nbits e 4 4 == 0 && nbits e 28 4 == 0 && e / 2 ^ 272 == 0 && decide (0 < pages)

/-- MAJORITY_SET_WRITE: entry `k` is written with the eight words of `e`; the ninth is the length of the set in 64 KiB pages. Making it valid writes zero data and tags
to every copy. A valid set can only be released. DESIGN CHOICE, log entry 54. DESIGN CHOICE, log entry 95. -/
def State.setWrite (s : State) (k : Nat) (e : List Nat) : State :=
  let v := (List.range 8).foldl (fun n i => n + nth 0 e i % 2 ^ 64 * 2 ^ (64 * i)) 0
  let pages := nth 0 e 8
  if k ≥ 128 || s.halted then s
  else if !nbit v 3 then { s with msets := s.msets.set k v, msetLen := s.msetLen.set k 0 }
  else if nbit (nth 0 s.msets k) 3 || !s.setOk v pages then s
  else
    (setCopies v).foldl (fun a (b, _) =>
      let a1 := a.devWrite 0 b (List.replicate (65536 * pages) 0) false
      { a1 with mtags := Sparse.splice a1.mtags (lineOf b) (lineOf (b + 65536 * pages)) [] })
      { s with msets := s.msets.set k v, msetLen := s.msetLen.set k pages }

/-- A copy with an uncorrectable error is reported to repair (R303): a record of class 2, and its channel is to be repaired. -/
def State.reportCopy (s : State) (e pa i : Nat) : State :=
  let a := copyAddr e i pa; let c := 32 * (nth (0, 0) (setCopies e) i).2 + channelOf a 0
  (s.badChan c).logError ⟨s.ns, 128 * lineOf a, 0, 4096 + c, 2, 1, 1, 0, 0⟩

/-- The copies that respond to firmware's own access to a line of a set, and the state after it: those that answer within 20 µs (R300). -/
def State.responding (s : State) (e pa : Nat) : List Nat × State := ((s.answering pa).filter (fun i => s.copyOk e i pa), { s with draw := s.draw + 1 })

/-- Scrub one line of a set: the greatest tag goes to every other responding copy that holds a lower one, with SCR set; without a majority the loss is logged; a copy with an
uncorrectable error is reported. -/
def State.scrubLine (s0 : State) (e pa : Nat) : State :=
  let (l, s1) := s0.responding e pa
  let s := ((List.range 5).filter (fun i => s0.copyUp e i && !s0.copyOk e i pa)).foldl (fun a i => a.reportCopy e pa i) s1
  if l.length < setMaj e then s.logLoss pa 0 ioUnit 0
  else
    let b := s.newest e pa l; let t := s.copyTag e b pa; let d := s.copyData e b pa
    (l.filter (fun i => decide (s.copyTag e i pa < t))).foldl (fun a i => a.putCopy e i pa t 2 d) s

/-- SCRUB: every line of a valid set (R303). -/
def State.scrub (s : State) (k : Nat) : State :=
  let e := nth 0 s.msets k
  if !nbit e 3 || s.halted then s else (setLines (nth 0 s.msetLen k)).foldl (fun a i => a.scrubLine e (setLine e i)) s

/-- A set entry with copy `i` at another base and stack. -/
def moveCopy (e i b stk : Nat) : Nat :=
  e - nbits e (32 + 48 * i) 48 * 2 ^ (32 + 48 * i) + b * 2 ^ (32 + 48 * i) - nbits e (8 + 4 * i) 4 * 2 ^ (8 + 4 * i) + stk * 2 ^ (8 + 4 * i)

/-- The stack whose pool holds a base. -/
def State.stackAt (s : State) (b : Nat) : Option Nat := (s.pools.find? (fun p => p.plc == 2 && decide (p.lo ≤ b ∧ b < p.hi))).map (fun p => 4 * p.die + p.stk)

/-- MAJORITY_COPY_MOVE: every line is written at the new base from the greatest tag among the responding copies, with REP set, and the entry changes in one step (R329). -/
def State.copyMove (s : State) (k i base : Nat) : State :=
  let e := nth 0 s.msets k; let n := nth 0 s.msetLen k
  match s.stackAt base with
  | none => s
  | some stk =>
    let e1 := moveCopy e i base stk
    if !nbit e 3 || i ≥ nbits e 0 3 || !s.setOk e1 n || s.halted then s
    else
      let s1 := (setLines n).foldl (fun a j =>
        let pa := setLine e j
        match a.responding e pa with
        | ([], a0) => (a0.setPoison (base + 128 * j) 128).logLoss (base + 128 * j) 0 ioUnit 0
        | (l, a0) =>
          let b := a.newest e pa l
          let a1 := a0.rawWrite 0 (base + 128 * j) (leBytes 128 (a.copyData e b pa)) false
          { a1 with mtags := Sparse.write a1.mtags (lineOf (base + 128 * j)) (BitVec.ofNat 64 (a.copyTag e b pa * 16 + 1)) }) s
      { s1 with msets := s1.msets.set k e1 }.logError ⟨s.ns, base % 2 ^ 56, 0, 5 * 4096, 11, 6, 1, k, 0⟩

/-! ## Tracking (R295) -/

/-- What is left of tracked ranges outside `[lo, hi)`. -/
def trackedOutside (l : List Tracked) (lo hi : Nat) : List Tracked :=
  l.flatMap (fun r =>
    if r.hi ≤ lo || hi ≤ r.lo then [r]
    else (if r.lo < lo then [⟨r.lo, lo, r.fmt⟩] else []) ++ (if hi < r.hi then [⟨hi, r.hi, r.fmt⟩] else []))

/-- TRACK_RANGE: the entries of a range take its format, whatever format they had, and each tile is classified. -/
def State.trackRange (s : State) (lo hi fmt : Nat) : State :=
  if s.halted || lo % 65536 != 0 || hi % 65536 != 0 || lo ≥ hi || fmt > 10 || !s.pools.any (fun p => decide (p.lo ≤ lo ∧ hi ≤ p.hi)) then s
  else
    { s with
      tracked := trackedOutside s.tracked lo hi ++ [⟨lo, hi, fmt⟩]
      dir := (List.range ((hi - lo) / 8192)).foldl (fun m i =>
        let a := lo + 8192 * i
        Sparse.write m (a / 8192) (if s.poisoned a 8192 then dirEntry 0 0 fmt 0 0 else classify s.mem a fmt)) s.dir }

/-- UNTRACK_RANGE: the entries of a range are released. -/
def State.untrackRange (s : State) (lo hi : Nat) : State :=
  if s.halted || lo % 65536 != 0 || hi % 65536 != 0 || lo ≥ hi then s
  else
    { s with
      tracked := trackedOutside s.tracked lo hi
      dir := Sparse.splice s.dir (lo / 8192) (hi / 8192) [] }

end Sys2Proof.Machine
end

