-- ==== Sys2Proof/Machine/Board.lean ====
section
/-!
DEFINITION. The host's and the board's side of the module: BAR2, control registers, the mailbox, the Shutter, throttling and the module reset (R144, R311, R312,
R330, R346 to R357).
-/

namespace Sys2Proof.Machine

/-! ## BAR2 (R311, R312, R322, R336, R347) -/

/-- The window that maps an offset of a function's BAR2, within its size (R347). Where none does, a write is dropped and a read completes with EP. DEDUCED, log entry 63. -/
def State.window? (s : State) (fn off : Nat) : Option Window :=
  if off < 2 ^ nth 0 s.barSizes fn then s.windows.find? (fun w => w.fn == fn && decide (w.lo ≤ off ∧ off < w.lo + w.size)) else none

/-- The entries of a page table of a level. -/
def tableSize (lvl : Nat) : Nat := if lvl ≥ 2 then 512 else if lvl = 1 then 256 else 32

/-- Does a page table, or one below it, map a physical address executable (R54, R286)? -/
def State.mapsX (s : State) (pa : Nat) : Nat → Nat → Bool
  | lvl, tbl => (List.range (tableSize lvl)).any (fun i =>
    let e := Mem.nat s.mem (tbl + 8 * i) 8
    if !nbit e 63 then false
    else if nbit e 0 then (match lvl with | 0 => false | k + 1 => s.mapsX pa k (nbits e 12 36 * 4096))
    else match s.leafPage 0 e lvl with
      | some p => p.x && decide (p.pa ≤ pa ∧ pa < p.pa + p.size)
      | none => false)

/-- Does a physical address lie on an executable page: one that holds translated code, or that a context maps executable (R54, R290)? DEDUCED, log entry 58. -/
def State.codePage (s : State) (pa : Nat) : Bool :=
  s.codes.any (fun c => c.at_.any (fun b => decide (b / 65536 * 65536 ≤ pa ∧ pa < (b + c.size + 65535) / 65536 * 65536))) ||
  (List.range 64).any (fun c => (s.ctx c).reg && s.mapsX pa 4 (s.root c))

/-- A host write within one line: performed at device scope, or dropped and counted while its home is not served; one to an executable page fails (R54, R312, R336). DEDUCED, log entry 58. -/
def State.hostPiece (s : State) (fn off : Nat) (bs : List Byte) : State :=
  match s.window? fn off with
  | none => s
  | some w =>
    let pa := w.pa + (off - w.lo)
    if s.codePage pa then s
    else
      match w.mset with
      | some k => { (s.majStore 0 0xF00 (nth 0 s.msets k) pa bs (s.answering pa)).getD (s.logLoss pa 0 ioUnit 0x12) with draw := s.draw + 1 }
      | none => if !s.served (s.dieOf pa) then s.drops (s.dieOf pa) else s.devWrite 0 pa bs false

/-- The operation of a host AtomicOp by its number: FetchAdd, Swap, CAS (R136, R346). PRESUMED, log entry 107. -/
def hostAtomOp (k : Nat) : Nat := match k with | 0 => 0 | 1 => 6 | _ => 7

/-- A host AtomicOp of 4 or 8 bytes as the module completes it (R346): a CAS brings its compare value before its swap value. It is performed at device scope, and its completion brings the old
value; one that is misaligned, of another size, to no window, to a majority or executable page, to poison, or to a home that is not served has no effect and completes with EP. PRESUMED,
log entry 107. -/
def State.hostAtomic (s0 : State) (fn off k : Nat) (data : List Nat) : State :=
  let n := if k = 2 then data.length / 2 else data.length
  let s : State := { s0 with readOut := [], readEp := true }
  let v := leNat (data.map (BitVec.ofNat 8)); let x := v % 256 ^ n; let y := v / 256 ^ n
  match s.window? fn off with
  | none => s
  | some w =>
    let pa := w.pa + (off - w.lo)
    if k > 2 || !(n == 4 || n == 8) || off % n != 0 || pa % n != 0 || w.mset.isSome || s.codePage pa || s.poisoned pa n then s
    else if !s.served (s.dieOf pa) then s.drops (s.dieOf pa)
    else
      let old := s.devRead pa n
      let s1 := match atomOp (hostAtomOp k) (if n = 8 then 3 else 1) old (if k = 2 then y else x) x with
        | some z => s.devWrite 0 pa (leBytes n z) false
        | none => s
      { s1 with readOut := leBytes n old, readEp := false }

/-- BAR2_WRITE: in arrival order, line by line, or an AtomicOp (R346). -/
def State.bar2Write (s : State) (x : HostAccess) (data : List Nat) : State :=
  if s.halted then s
  else
    match x.atom with
    | some k => s.hostAtomic x.fn x.off k data
    | none =>
      let m : Mem := Sparse.writeList [] x.off (data.map (BitVec.ofNat 8))
      (linePieces x.off data.length).foldl (fun a (o, n) => a.hostPiece x.fn o (Sparse.readList m o n)) s

/-- A host read within one line: its bytes and whether they are poisoned. The line comes from the read buffer as it was taken, or is taken now. DEDUCED, log entry 63. -/
def State.readPiece (s : State) (fn off n : Nat) : List Byte × Bool × State :=
  match s.window? fn off with
  | none => (List.replicate n 0, true, s)
  | some w =>
    let pa := w.pa + (off - w.lo); let ln := lineOf pa
    match w.mset with
    | some k =>
      (match s.majLoad (nth 0 s.msets k) pa (s.answering pa) with
       | some (d, _, s1) => (((leBytes 128 d).drop (pa % 128)).take n, false, { s1 with draw := s1.draw + 1 })
       | none => (List.replicate n 0, true, s.logLoss pa 0 ioUnit 0x12))
    | none =>
      let (x, s1) := s.free
      match s1.readBuf.find? (fun b => b.line == ln), x % 2 == 0 with
      | some b, true => ((b.bytes.drop (pa % 128)).take n, b.poison, s1)
      | _, _ =>
        if !s1.served (s1.dieOf pa) then (List.replicate n 0, true, s1)
        else
          let b : BufLine := ⟨ln, Sparse.readList s1.mem (128 * ln) 128, s1.poison.contains ln⟩
          ((b.bytes.drop (pa % 128)).take n, b.poison, { s1 with readBuf := s1.readBuf.filter (fun y => y.line != ln) ++ [b] })

/-- BAR2_READ: the bytes and EP of the completion. -/
def State.bar2Read (s : State) (fn off size : Nat) : State :=
  (linePieces off size).foldl (fun a (o, n) =>
    let (bs, ep, a1) := a.readPiece fn o n
    { a1 with readOut := a1.readOut ++ bs, readEp := a1.readEp || ep }) { s with readOut := [], readEp := false }

/-! ## Vectors and configuration space (R144, R346, R348) -/

/-- Mask a vector. -/
def State.maskVec (s : State) (v : Nat) : State := { s with vecMask := if s.vecMask.contains v then s.vecMask else s.vecMask ++ [v] }

/-- VECTOR_UNMASK: a notice held by the pending bit is sent (R348). -/
def State.vectorUnmask (s : State) (v : Nat) : State :=
  let s1 : State := { s with vecMask := s.vecMask.filter (fun x => x != v) }
  if s1.vecPend.contains v then ({ s1 with vecPend := s1.vecPend.filter (fun x => x != v) } : State).sendVec v else s1

/-- PCIE_CONFIG_WRITE: bit 6 of register 0x28 is a function's AtomicOp Requester Enable, bits [13:8] of register 0x208 the size of its BAR2 from 1 GiB (10) to 1 TiB (20), bit 0 of register
0x1000 + *v* the mask of its vector *v*; other registers hold nothing that the module's behaviour depends on here. PRESUMED, log entry 53. -/
def State.configWrite (s : State) (fn reg v : Nat) : State :=
  if fn ≥ 64 then s
  else if reg = 0x28 then { s with atomEn := if nbit v 6 then (if s.atomEn.contains fn then s.atomEn else s.atomEn ++ [fn]) else s.atomEn.filter (fun x => x != fn) }
  else if reg = 0x208 then (let n := nbits v 8 6; if 10 ≤ n ∧ n ≤ 20 then { s with barSizes := s.barSizes.set fn (20 + n) } else s)
  else if 0x1000 ≤ reg ∧ reg < 0x1000 + vecCount fn then
    (if nbit v 0 then s.maskVec (vecNo fn (reg - 0x1000)) else s.vectorUnmask (vecNo fn (reg - 0x1000)))
  else s

/-! ## The mailbox (R349, R351 to R354) -/

/-- A command ends with a STATUS and a number of result bytes. -/
def Malox.finish (m : Malox) (st len : Nat) : Malox := { m with cmd := none, status := st, len := len }

/-- Bytes of the buffer. -/
def Malox.bytes (m : Malox) (n : Nat) : List Byte := Sparse.readList m.buf 0 n

/-- Put result bytes into the buffer. -/
def Malox.result (m : Malox) (bs : List Byte) : Malox := { m with buf := Sparse.writeList m.buf 0 bs }.finish 0 bs.length

/-- A command ends (R352): the one that runs under the number, or one written and run in one step. While another runs it is ignored and sets REFUSED; under the Shutter's lock it is answered
STATUS 4; else `f`. DESIGN CHOICE, log entry 56. -/
def State.mailbox (s : State) (n : Nat) (f : Malox → Malox) : State :=
  { s with mx := if s.mx.cmd.any (· != n) then { s.mx with refused := true } else if s.mx.lock then s.mx.finish 4 0 else f s.mx }

/-- The mailbox control word is written (R352): bit 9 clears REFUSED; a CMD runs from now on, is answered STATUS 4 under the Shutter's lock, or sets REFUSED while one runs. A zero CMD beside
bit 9 is none. DESIGN CHOICE, log entry 56. -/
def State.mailWrite (s : State) (v : Nat) : State :=
  let m : Malox := { s.mx with refused := s.mx.refused && !nbit v 9 }
  { s with mx :=
      if nbit v 9 && v % 256 = 0 then m
      else if m.cmd.isSome then { m with refused := true }
      else if m.lock then m.finish 4 0
      else { m with cmd := some (v % 256) } }

/-- The signed part of the report (R353). -/
def State.reportBody (s : State) : List Byte :=
  leBytes 4 1 ++ leBytes 4 capClass ++ leBytes 2 Config.stepping.toNat ++ leBytes 2 (s.mid % 256) ++ leBytes 4 Config.securityVersion.toNat ++ leBytes 4 s.mx.count ++
  List.replicate 44 0 ++ s.mx.m.flatMap (fun x => leBytes 64 x.toNat) ++ s.mx.bytes 64

/-- ATTESTATION_REPORT. -/
def State.attestation (s : State) : State :=
  let body := s.reportBody
  s.mailbox 1 (fun m => if !m.identity then m.finish 3 0 else m.result (body ++ (List.range 4627).map (fun i => nth 0 (Config.sign body) i)))

/-- EXTEND_REGISTER: register 6 is extended by the digest in the buffer. -/
def State.extend6 (s : State) : State := s.mailbox 2 (fun m => (m.extend 6 (BitVec.ofNat 512 (leNat (m.bytes 64)))).finish 0 0)

/-- ADD_CONTAINER_KEY: up to eight keys. -/
def State.addKey (s : State) : State :=
  s.mailbox 3 (fun m => if m.keys.length ≥ 8 then m.finish 5 0 else { m with keys := m.keys ++ [m.bytes 2592] }.finish 0 0)

/-- READ_CERTIFICATE_CHAIN. -/
def State.certificate (s : State) : State := s.mailbox 4 (fun m => m.result Config.certificate)

/-- The IDE streams (R346): number 0 is the Link stream, 1 + 4 × function + *k* a function's Selective stream *k* of four. DESIGN CHOICE, log entry 12. -/
def ideStreams : Nat := 257

/-- A stream has a key and is in the Secure state (R346, R352, R354); a number that names no stream gets none. -/
def Malox.keyed (m : Malox) (k : Option (Nat × List Byte)) : Malox :=
  match k with
  | some (n, key) =>
    if n < ideStreams then { m with ide := m.ide.filter (fun (x : Nat × List Byte) => x.1 != n) ++ [(n, key)], secure := if m.secure.contains n then m.secure else m.secure ++ [n] } else m
  | none => m

/-- IDE_KEY_EXCHANGE: an SPDM message over a session that the identity key authenticates. -/
def State.ideExchange (s : State) : State :=
  s.mailbox 5 (fun m =>
    if !m.identity then m.finish 3 0
    else
      let (r, k) := Config.spdm (m.bytes 8192)
      (m.keyed k).result r)

/-- MAILBOX_BAD_COMMAND. DESIGN CHOICE, log entry 56. -/
def State.badCommand (s : State) (cmd : Nat) : State := if 1 ≤ cmd ∧ cmd ≤ 5 then s else s.mailbox cmd (fun m => m.finish 1 0)

/-- MAILBOX_REFUSED_CLEAR. -/
def State.refusedClear (s : State) : State := { s with mx := { s.mx with refused := false } }

/-! ## BAR0 registers with no event of their own (R303, R328, R312, R332, R342, R345, R347, R352, R357) -/

/-- Set a BAR2 window: lo [63:0], size [127:64], physical address [191:128], majority set plus 1 [207:192], function [223:208]. PRESUMED, log entry 53. -/
def State.setWindow (s : State) (i v : Nat) : State :=
  let w : Window := { lo := nbits v 0 64, size := nbits v 64 64, pa := nbits v 128 64, mset := if nbits v 192 16 = 0 then none else some (nbits v 192 16 - 1), fn := nbits v 208 16 }
  { s with windows := (s.windows ++ List.replicate (i + 1 - s.windows.length) ({ lo := 0, size := 0, pa := 0 } : Window)).set i w }

/-- CONTROL_REGISTER_WRITE: after a Shutter only the mailbox takes a write (DEDUCED, log entry 94). Offsets within a region that the manual does not place are the model's. PRESUMED, log entry 53. DEDUCED, log entry 94. -/
def State.registerWrite (s : State) (off v : Nat) : State :=
  if off = 0x80000 then s.mailWrite v
  else if 0x81000 ≤ off ∧ off < 0x83000 then { s with mx := { s.mx with buf := s.mx.buf.putNat (off - 0x81000) 8 (v % 2 ^ 64) } }
  else if s.mx.lock then s
  else if 0x71000 ≤ off ∧ off < 0x71100 ∧ off % 8 = 0 then (if s.islReset then s else s.portEnable ((off - 0x71000) / 8) (nbit v 0))
  else if 0x40000 ≤ off ∧ off < 0x41000 ∧ off % 32 = 0 then s.setWindow ((off - 0x40000) / 32) v
  else if off = 0x50008 then (if v = 0 then s else { s with scrubHours := v })
  else if off = 0x50010 then (if 1 ≤ v ∧ v ≤ 168 then { s with testHours := v } else s)
  else if off = 0x50018 then { s with cap := v }
  else if off = 0x50020 then { s with corrLimit := v }
  else if off = 0x50028 then { s with laneLimit := v }
  else s

/-! ## The Shutter (R354) -/

/-- SHUTTER: the keys are erased and every IDE stream is insecure, a command that runs ends with STATUS 4, the command processor stops, the dies that were served become ORPHANED with the launches on them (R326), every team is gone, and the lock
holds until module reset. -/
def State.shutter (s : State) (alarm : Nat) : State :=
  if s.mx.lock || alarm = 0 || alarm > 5 then s
  else
    let mx0 := if s.mx.cmd.isSome then s.mx.finish 4 0 else s.mx
    let mx1 := { mx0 with identity := false, keys := [], ide := [], secure := [], lock := true, shut := true, alrm := alarm, count := s.mx.count + 1 }
    let s1 := (List.range 4).foldl (fun a d => if a.served d then a.loseDie d .orphaned else a) { s with mx := mx1, halted := true, cur := none }
    { s1 with teams := [], flights := s1.flights.filter (fun f => f.sent) }

/-! ## Throttling (R357) -/

/-- What the module's power sensor shows, averaged over 10 ms, in units of 0.5 W (R355): a free value. DESIGN CHOICE, log entry 68. -/
def State.sensePower (s : State) : Nat := Config.freeValue s.draw % 65536

/-- What the temperature sensors of the four dies show, in °C (R355, R357): free values. DESIGN CHOICE, log entry 68. -/
def State.senseTemps (s : State) : List Nat := (List.range 4).map (fun d => Config.freeValue (s.draw + 1 + d) % 256)

/-- Does a throttling trigger hold: module power above 4.6 kW or above a cap that is set, in watts, or a die above 105 °C (R357)? -/
def State.hot (s : State) : Bool :=
  decide (s.sensePower > 9200) || s.senseTemps.any (fun t => decide (t > 105)) || (s.cap != 0 && decide (s.sensePower > 2 * s.cap))

/-- THROTTLE_STEP_DOWN: while a trigger holds, one step of 20 MHz each millisecond, 22 at most. -/
def State.throttleDown (s : State) : State :=
  let s1 := { s with draw := s.draw + 5 }
  if !s.hot then s1
  else if s.throttle = 0 || s.ns ≥ s.stepAt + 1000000 then { s1 with hotAt := s.ns, throttle := min 22 (s.throttle + 1), stepAt := s.ns }
  else { s1 with hotAt := s.ns }

/-- May the clock rise: no trigger has held for 10 ms, every die is below 100 °C, and the last step is 10 ms past (R357)? -/
def State.cooled (s : State) : Bool :=
  !s.hot && s.senseTemps.all (fun t => decide (t < 100)) && decide (s.ns ≥ s.hotAt + 10000000 ∧ s.ns ≥ s.stepAt + 10000000)

/-- THROTTLE_STEP_UP: one step when the clock may rise. -/
def State.throttleUp (s : State) : State :=
  let s1 := { s with draw := s.draw + 5 }
  if s.hot then { s1 with hotAt := s.ns } else if s.cooled then { s1 with throttle := s.throttle - 1, stepAt := s.ns } else s1

/-- The arithmetic clock in MHz. -/
def State.clockMHz (s : State) : Nat := 940 - 20 * s.throttle

/-- POWER_CAP_WRITE. -/
def State.powerCap (s : State) (w : Nat) : State := { s with cap := w }

/-! ## Module reset and bring-up (R330, R350, R351, R354, R356) -/

/-- Does a part of bring-up succeed (R350, R356): an image that is signed and not older than the fused minimum, the work of a step? -/
def Boot.ok (p : Boot) (draw : Nat) : Bool :=
  match p with
  | .image i k => Config.imageSigned i k && decide (Config.imageVersion i k ≥ Config.securityVersion.toNat)
  | .work n => Config.stepOk draw n
  | .map => true
  | .zero => true

/-- The parts of bring-up that are done: those before the first that fails (R356). DEDUCED, log entry 55. -/
def bootDone (draw : Nat) : List Boot := bootOrder.takeWhile (fun p => p.ok draw)

/-- The STATUS of a bring-up that stopped (R350, R356): 2 for an image; that of other work is a free value. -/
def bootStatus (done : List Boot) : Option Nat :=
  match bootOrder[done.length]? with
  | some (.work n) => some (Config.stepStatus n % 256)
  | some _ => some 2
  | none => none

/-- MODULE_RESET: every field as after bring-up, but for what lies in memory, fuses, the fabric of spares, and the model's own counters. What a bring-up that stops does not reach stays undone:
the ports are down before step 3, the repair map is not applied before step 4, after a Shutter device memory is not zeroed before step 5, and no die is ACTIVE before step 6. Zeroing takes
device memory, the Logbook and the error log; a die whose power was off comes back with poison. DEDUCED, log entry 55. -/
def State.moduleReset (s : State) : State :=
  let done := bootDone s.draw; let bad := bootStatus done
  let map := if done.contains .map then applyMap s.fuses s.repairs else s.repairs
  let sh := s.mx.shut && done.contains .zero
  let mx0 : Malox := { ({} : Malox).boot map done with identity := s.mx.identity, count := s.mx.count, shut := s.mx.shut && !sh, alrm := if s.mx.shut && !sh then s.mx.alrm else 0 }
  let cold (d : Nat) : Bool := (s.ep d).cold || decide ((s.ep d).st = .dark)
  let s1 : State := { State.reset with
    mem := if sh then [] else s.mem
    poison := if sh then [] else s.poison
    mtags := if sh then [] else s.mtags
    launches := if sh then [] else s.launches.filter (fun l => l.st.final)
    errLog := if sh then [] else s.errLog
    errCount := if sh then 0 else s.errCount
    logBase := if sh then 0 else s.errCount
    hostMem := s.hostMem
    pools := s.pools
    mid := s.mid
    cores := s.cores.map (fun c => { ({} : CoreSt) with service := c.service })
    repairs := map
    fuses := if done.contains .map then map else s.fuses
    spares := s.spares
    spareChans := s.spareChans
    badChans := s.badChans
    lostChans := s.lostChans
    planeBad := s.planeBad
    sparePlane := s.sparePlane
    sparedWays := s.sparedWays
    nextSerial := s.nextSerial
    mx := bad.elim mx0 (fun st => mx0.finish st 0)
    halted := bad.isSome
    eps := (List.range 4).map (fun d => if bad.isSome then { st := .orphaned, cold := cold d && !sh } else {})
    ports := List.replicate 32 (if done.contains (.work 3) then {} else { up := false, width := 0 })
    agenda := s.agenda
    draw := s.draw + 1
    nextId := s.nextId
    seqNo := s.seqNo
    admitNo := s.admitNo }
  if sh || bad.isSome then s1 else ((List.range 4).filter cold).foldl State.coldMemory s1

end Sys2Proof.Machine
end

