-- ==== Sys2Proof/Machine/BoardEvents.lean ====
section
/-!
DEFINITION. The meanings of the events of the table: the host, the mailbox, the Shutter, power and the module reset.
-/

namespace Sys2Proof.Machine

/-- PORT_RETRAIN (R345). A port retrains after repeated retries or a lane failure, with flits held in the retry buffer. -/
def execPortRetrain (port : Nat) (s : State) : Host.Outcome State Fault Refusal :=
  .next (s.portRetrain port)

/-- BAR2_WRITE (R312). A host BAR2 write, or AtomicOp (R346), is performed at device scope in arrival order. -/
def execBar2Write (a : HostAccess) (data : List Nat) (s : State) : Host.Outcome State Fault Refusal :=
  .next (s.bar2Write a data)

/-- BAR2_READ (R311). A host BAR2 read is served through the I/O die's read buffer. -/
def execBar2Read (a : HostAccess) (size : Nat) (s : State) : Host.Outcome State Fault Refusal :=
  .next (s.bar2Read a.fn a.off size)

/-- CONTROL_REGISTER_WRITE (R347). A BAR0 write to a register with no row of its own is applied. -/
def execControlRegisterWrite (off v : Nat) (s : State) : Host.Outcome State Fault Refusal :=
  .next (s.registerWrite off v)

/-- PCIE_CONFIG_WRITE (R144). The host writes PCIe configuration space, for example the AtomicOp Requester Enable bit that publish tests. -/
def execPcieConfigWrite (fn reg v : Nat) (s : State) : Host.Outcome State Fault Refusal :=
  .next (s.configWrite fn reg v)

/-- VECTOR_UNMASK (R348). Unmasking an MSI-X vector whose pending bit is set sends the held completion notice. -/
def execVectorUnmask (vec : Nat) (s : State) : Host.Outcome State Fault Refusal :=
  .next (s.vectorUnmask vec)

/-- POWER_CAP_WRITE (R357). The board controller sets the module power cap over the I3C management interface. -/
def execPowerCapWrite (w : Nat) (s : State) : Host.Outcome State Fault Refusal :=
  .next (s.powerCap w)

/-- ATTESTATION_REPORT (R353). Mailbox command 1 returns a signed report of the measurement registers and the nonce. -/
def execAttestationReport (s : State) : Host.Outcome State Fault Refusal :=
  .next s.attestation

/-- EXTEND_REGISTER (R351). Mailbox command 2 extends measurement register 6 with a digest. -/
def execExtendRegister (s : State) : Host.Outcome State Fault Refusal :=
  .next s.extend6

/-- ADD_CONTAINER_KEY (R351). Mailbox command 3 installs a container key. -/
def execAddContainerKey (s : State) : Host.Outcome State Fault Refusal :=
  .next s.addKey

/-- READ_CERTIFICATE_CHAIN (R349). Mailbox command 4 returns the device certificate chain. -/
def execReadCertificateChain (s : State) : Host.Outcome State Fault Refusal :=
  .next s.certificate

/-- IDE_KEY_EXCHANGE (R352). Mailbox command 5 carries SPDM IDE_KM messages that establish IDE keys. -/
def execIdeKeyExchange (s : State) : Host.Outcome State Fault Refusal :=
  .next s.ideExchange

/-- MAILBOX_BAD_COMMAND (R352). An unlisted mailbox command ends with STATUS 1. -/
def execMailboxBadCommand (cmd : Nat) (s : State) : Host.Outcome State Fault Refusal :=
  .next (s.badCommand cmd)

/-- MAILBOX_REFUSED_CLEAR (R352). Writing 1 clears REFUSED in the mailbox control word. -/
def execMailboxRefusedClear (s : State) : Host.Outcome State Fault Refusal :=
  .next s.refusedClear

/-- SHUTTER (R354). An alarm erases the key store, stops the command processor, orphans the dies and locks the mailbox. -/
def execShutter (alarm : Nat) (s : State) : Host.Outcome State Fault Refusal :=
  .next (s.shutter alarm)

/-- THROTTLE_STEP_DOWN (R357). While a trigger holds, the arithmetic clock drops by 20 MHz each millisecond. -/
def execThrottleStepDown (s : State) : Host.Outcome State Fault Refusal :=
  .next s.throttleDown

/-- THROTTLE_STEP_UP (R357). After 10 ms without a trigger, with every die below 100 °C, the clock rises by one step. -/
def execThrottleStepUp (s : State) : Host.Outcome State Fault Refusal :=
  .next s.throttleUp

/-- MODULE_RESET (R356). A module reset runs bring-up: firmware verification, training, repair map, and dies tested to ACTIVE. -/
def execModuleReset (s : State) : Host.Outcome State Fault Refusal :=
  .next s.moduleReset

end Sys2Proof.Machine
end

