-- ==== Sys2Proof/Machine/ConvertOps.lean ====
section
/-!
DEFINITION. The meanings of conversions and class tests (R106 to R110).
-/

namespace Sys2Proof.Machine

/-- CVT (R106). Converts one element between two format codes. -/
def execCvt (h : Head) (p : Payload) (s : State) : Host.Outcome State Fault Refusal :=
  .next (issueTree (Tree.one .cvt h p) s)

/-- CVTPK (R107). Converts two FP32 values and inserts both into D. -/
def execCvtpk (h : Head) (p : Payload) (s : State) : Host.Outcome State Fault Refusal :=
  .next (issueTree (Tree.one .cvtpk h p) s)

/-- CVTUN (R108). Widens one element of A exactly to FP32. -/
def execCvtun (h : Head) (p : Payload) (s : State) : Host.Outcome State Fault Refusal :=
  .next (issueTree (Tree.one .cvtun h p) s)

/-- CVTMX (R109). Computes an MX block scale, or encodes an element under a given scale. -/
def execCvtmx (h : Head) (p : Payload) (s : State) : Host.Outcome State Fault Refusal :=
  .next (issueTree (Tree.one .cvtmx h p) s)

/-- FCLASS (R110). Writes a one-hot class mask of raw A. -/
def execFclass (h : Head) (p : Payload) (s : State) : Host.Outcome State Fault Refusal :=
  .next (issueTree (Tree.one .fclass h p) s)

end Sys2Proof.Machine
end

