-- ==== Sys2Proof/Machine/EndpointEvents.lean ====
section
/-!
DEFINITION. The meanings of the events of the table: the die endpoints.
-/

namespace Sys2Proof.Machine

/-- CMD_QUIESCE (R335). An ACTIVE die becomes QUIESCING. -/
def execCmdQuiesce (die : Nat) (s : State) : Host.Outcome State Fault Refusal :=
  .next (s.cmdQuiesce die)

/-- CMD_RELEASE (R335). A QUIESCING die returns to ACTIVE. -/
def execCmdRelease (die : Nat) (s : State) : Host.Outcome State Fault Refusal :=
  .next (s.cmdRelease die)

/-- CMD_COMPUTE_RESET (R335). A die is reset to ORPHANED, immediately or once drained. -/
def execCmdComputeReset (die : Nat) (s : State) : Host.Outcome State Fault Refusal :=
  .next (s.cmdReset die)

/-- CMD_POWER_OFF (R335). A die is powered off to DARK, immediately or once drained. -/
def execCmdPowerOff (die : Nat) (s : State) : Host.Outcome State Fault Refusal :=
  .next (s.cmdPowerOff die)

/-- CMD_POWER_ON (R335). A DARK die is powered on into reset. -/
def execCmdPowerOn (die : Nat) (s : State) : Host.Outcome State Fault Refusal :=
  .next (s.cmdPowerOn die)

/-- DIE_DRAINED (R335). A held reset or power-off of a QUIESCING die proceeds once the die is drained. -/
def execDieDrained (die : Nat) (s : State) : Host.Outcome State Fault Refusal :=
  .next (s.dieDrained die)

/-- DIE_WATCHDOG (R335). A die that misses its heartbeat for 1 ms becomes ORPHANED with HANG set. -/
def execDieWatchdog (die : Nat) (s : State) : Host.Outcome State Fault Refusal :=
  .next (s.dieWatchdog die)

/-- DIE_RESET_COMPLETE (R335). A reset completes, and the die becomes ACTIVE once its cores pass test. -/
def execDieResetComplete (die : Nat) (pass : Bool) (s : State) : Host.Outcome State Fault Refusal :=
  .next (s.dieResetDone die pass)

/-- EPS_FLAG_CLEAR (R338). Writing 1 clears REFUSED or HANG in EPS. -/
def execEpsFlagClear (die bits : Nat) (s : State) : Host.Outcome State Fault Refusal :=
  .next (s.epsClear die bits)

end Sys2Proof.Machine
end

