-- ==== Sys2Proof/Machine/EngineEvents.lean ====
section
/-!
DEFINITION. The meanings of the events of the table: the turns of the engines, the stack engine and the array.
-/

namespace Sys2Proof.Machine

/-- COPY_ENGINE_TURN (R250). The copy engine takes one line in turn from the head entry of a team's copy ring. -/
def execCopyEngineTurn (core : Nat) (s : State) : Host.Outcome State Fault Refusal :=
  .next (s.copyTurn core)

/-- INDEX_ENGINE_TURN (R254). The index engine performs one entry's element gathers or scatters and credits the slot bytes. -/
def execIndexEngineTurn (core : Nat) (s : State) : Host.Outcome State Fault Refusal :=
  .next (s.indexTurn core)

/-- BIN_ENGINE_TURN (R257). The binning engine moves staged pairs into their bins by fetch-add of TAIL. -/
def execBinEngineTurn (core : Nat) (s : State) : Host.Outcome State Fault Refusal :=
  .next (s.binTurn core false)

/-- BPLAY_PERFORM (R203). Under the replay lock, the pairs of a region are applied, DONE advances, and BAR is credited. -/
def execBplayPerform (core : Nat) (s : State) : Host.Outcome State Fault Refusal :=
  .next (s.binTurn core true)

/-- WORKLIST_ENGINE_TURN (R205). The work-list engine performs a push, insertion, pop or status entry. -/
def execWorklistEngineTurn (core : Nat) (s : State) : Host.Outcome State Fault Refusal :=
  .next (s.listTurn core)

/-- WORKLIST_FRONT_DRAIN (R259). When every wave of a team has exited, the front's remaining coordinates move to the spill area before the team leaves. -/
def execWorklistFrontDrain (t : Nat) (s : State) : Host.Outcome State Fault Refusal :=
  .next (s.frontDrain t)

/-- STACK_ENGINE_SMV (R141). A qstack entry updates the rows of y, invalidates cached lines, credits BAR and adds to CTR. -/
def execStackEngineSmv (t : Nat) (s : State) : Host.Outcome State Fault Refusal :=
  .next (s.smvTurn t)

/-- MATRIX_JOINT_OPERATION (R157). A joint mma or mmx entry fetches its operands, applies the elision rules, and computes and checks the bands. -/
def execMatrixJointOperation (core : Nat) (s : State) : Host.Outcome State Fault Refusal :=
  .next (s.arrayTurn core .joint)

/-- MMLD_PERFORM (R169). An mmld entry reads rows into the band and fills D with its status. -/
def execMmldPerform (core : Nat) (s : State) : Host.Outcome State Fault Refusal :=
  .next (s.arrayTurn core .mmld)

/-- MMST_PERFORM (R170). An mmst entry writes the band's rows in row order as plain stores. -/
def execMmstPerform (core : Nat) (s : State) : Host.Outcome State Fault Refusal :=
  .next (s.arrayTurn core .mmst)

/-- CBLD_COMPLETE (R173). A codebook load completes and the issuing group becomes ready. -/
def execCbldComplete (core : Nat) (s : State) : Host.Outcome State Fault Refusal :=
  .next (s.arrayTurn core .cbld)

end Sys2Proof.Machine
end

