-- ==== Sys2Proof/Machine/ExchangeOps.lean ====
section
/-!
DEFINITION. The meanings of lane exchanges (R111 to R113).
-/

namespace Sys2Proof.Machine

/-- SHFL (R113). Exchanges a value between the participants named by a mask. -/
def execShfl (h : Head) (p : Payload) (s : State) : Host.Outcome State Fault Refusal :=
  .next (issueMeet (Tree.one .shfl h p) .shfl h p s)

/-- VOTE (R113). Computes all, any, ballot or eq over the participants. -/
def execVote (h : Head) (p : Payload) (s : State) : Host.Outcome State Fault Refusal :=
  .next (issueMeet (Tree.one .vote h p) .vote h p s)

/-- REDUX (R113). Reduces A over the participants. -/
def execRedux (h : Head) (p : Payload) (s : State) : Host.Outcome State Fault Refusal :=
  .next (issueMeet (Tree.one .redux h p) .redux h p s)

/-- BCAST (R113). Broadcasts A of one lane to the participants. -/
def execBcast (h : Head) (p : Payload) (s : State) : Host.Outcome State Fault Refusal :=
  .next (issueMeet (Tree.one .bcast h p) .bcast h p s)

end Sys2Proof.Machine
end

