-- ==== Sys2Proof/Machine/FabricEvents.lean ====
section
/-!
DEFINITION. The meanings of the events of the table: the island, routes, flits and ports.
-/

namespace Sys2Proof.Machine

/-- ISLAND_RESET (R337). The Lighthouse alone is reset when every die is DARK or drained and every port disabled. -/
def execIslandReset (s : State) : Host.Outcome State Fault Refusal :=
  .next s.islandReset

/-- ISLAND_RESET_COMPLETE (R337). The island reset completes and the Lighthouse region reads again. -/
def execIslandResetComplete (s : State) : Host.Outcome State Fault Refusal :=
  .next s.islandDone

/-- ROUTE_WRITE (R340). A ROUTE entry is written and PEND set. -/
def execRouteWrite (k v : Nat) (s : State) : Host.Outcome State Fault Refusal :=
  .next (s.routeWrite k v)

/-- ROUTE_LANE_CHANGEOVER (R340). A fabric lane changes to its new route once its outstanding requests are answered. -/
def execRouteLaneChangeover (k lane : Nat) (s : State) : Host.Outcome State Fault Refusal :=
  .next (s.routeChange k lane)

/-- FLIT_RECEIVE (R343). A flit is checked, accepted once in order, or discarded, and a retry is requested. -/
def execFlitReceive (port : Nat) (f : Flit) (s : State) : Host.Outcome State Fault Refusal :=
  .next (s.flitReceive port f)

/-- FABRIC_TRANSACTION (R344). A received transaction is performed, answered, or forwarded within the hop limit. -/
def execFabricTransaction (f : Txn) (s : State) : Host.Outcome State Fault Refusal :=
  .next (s.fabricTxn f)

/-- LANE_SPARE (R345). A lane whose error count over 1 s exceeds the threshold is replaced by the spare at the next retrain. -/
def execLaneSpare (port : Nat) (lane : LaneFail) (s : State) : Host.Outcome State Fault Refusal :=
  .next (s.laneSpare port lane)

end Sys2Proof.Machine
end

