-- ==== Sys2Proof/Machine/FaultEvents.lean ====
section
/-!
DEFINITION. The meanings of the events of the table: the fault queue, verdicts, invalidation and the watchdog.
-/

namespace Sys2Proof.Machine

/-- FQHEAD_ADVANCE (R276). System software advances FQHEAD, and waiting fault records are written. -/
def execFqheadAdvance (ctx head : Nat) (s : State) : Host.Outcome State Fault Refusal :=
  .next (s.fqAdvance ctx head)

/-- FAULT_VERDICT_RESOLVED (R278). The fault service resolves a page, and parked groups and held entries walk again and resume. -/
def execFaultVerdictResolved (ctx page : Nat) (replay : List Nat) (s : State) : Host.Outcome State Fault Refusal :=
  .next (s.resolved ctx page replay)

/-- FAULT_VERDICT_REFUSED (R278). The fault service refuses a page; waiting lanes enter the handler and held copies complete. -/
def execFaultVerdictRefused (ctx page : Nat) (s : State) : Host.Outcome State Fault Refusal :=
  .next (s.refused ctx page)

/-- TLB_INVALIDATE (R277). An invalidation of a range completes once no earlier translation can be used, and cached lines of changed pages are written back and dropped. -/
def execTlbInvalidate (ctx lo hi : Nat) (s : State) : Host.Outcome State Fault Refusal :=
  .next (s.invalidate ctx lo hi)

/-- REGION_WATCHDOG (R209). A non-preemptible region reaches the watchdog limit; depth becomes 0 and the groups take cause 0x11 at their next issue. -/
def execRegionWatchdog (t w : Nat) (s : State) : Host.Outcome State Fault Refusal :=
  .next (s.watchdog t w)

end Sys2Proof.Machine
end

