-- ==== Sys2Proof/Machine/FloatOps.lean ====
section
/-!
DEFINITION. The meanings of the floating-point operations (R103, R104).
-/

namespace Sys2Proof.Machine

/-- FMA (R103). Writes A × B + C with one rounding. -/
def execFma (h : Head) (p : Payload) (s : State) : Host.Outcome State Fault Refusal :=
  .next (issueTree (Tree.one .fma h p) s)

/-- DOT2 (R103). Writes a two-element packed dot product plus an FP32 C, with one rounding. -/
def execDot2 (h : Head) (p : Payload) (s : State) : Host.Outcome State Fault Refusal :=
  .next (issueTree (Tree.one .dot2 h p) s)

/-- FMIN (R103). Writes the IEEE minimumNumber of A and B. -/
def execFmin (h : Head) (p : Payload) (s : State) : Host.Outcome State Fault Refusal :=
  .next (issueTree (Tree.one .fmin h p) s)

/-- FMAX (R103). Writes the IEEE maximumNumber of A and B. -/
def execFmax (h : Head) (p : Payload) (s : State) : Host.Outcome State Fault Refusal :=
  .next (issueTree (Tree.one .fmax h p) s)

/-- RCP (R104). Writes an approximate reciprocal of A, within 1 ulp. -/
def execRcp (h : Head) (p : Payload) (s : State) : Host.Outcome State Fault Refusal :=
  .next (issueTree (Tree.one .rcp h p) s)

/-- RSQ (R104). Writes an approximate reciprocal square root of A. -/
def execRsq (h : Head) (p : Payload) (s : State) : Host.Outcome State Fault Refusal :=
  .next (issueTree (Tree.one .rsq h p) s)

/-- SQRT (R104). Writes the correctly rounded square root of A. -/
def execSqrt (h : Head) (p : Payload) (s : State) : Host.Outcome State Fault Refusal :=
  .next (issueTree (Tree.one .sqrt h p) s)

/-- EXP2 (R104). Writes an approximate 2^A. -/
def execExp2 (h : Head) (p : Payload) (s : State) : Host.Outcome State Fault Refusal :=
  .next (issueTree (Tree.one .exp2 h p) s)

/-- LOG2 (R104). Writes an approximate log2 of A. -/
def execLog2 (h : Head) (p : Payload) (s : State) : Host.Outcome State Fault Refusal :=
  .next (issueTree (Tree.one .log2 h p) s)

/-- SIN (R104). Writes an approximate sine of A. -/
def execSin (h : Head) (p : Payload) (s : State) : Host.Outcome State Fault Refusal :=
  .next (issueTree (Tree.one .sin h p) s)

/-- COS (R104). Writes an approximate cosine of A. -/
def execCos (h : Head) (p : Payload) (s : State) : Host.Outcome State Fault Refusal :=
  .next (issueTree (Tree.one .cos h p) s)

/-- TANH (R104). Writes an approximate hyperbolic tangent of A. -/
def execTanh (h : Head) (p : Payload) (s : State) : Host.Outcome State Fault Refusal :=
  .next (issueTree (Tree.one .tanh h p) s)

/-- RND (R103). Rounds A to an integral value in its own format, in a selected mode. -/
def execRnd (h : Head) (p : Payload) (s : State) : Host.Outcome State Fault Refusal :=
  .next (issueTree (Tree.one .rnd h p) s)

/-- FRAC (R103). Writes A − trunc(A). -/
def execFrac (h : Head) (p : Payload) (s : State) : Host.Outcome State Fault Refusal :=
  .next (issueTree (Tree.one .frac h p) s)

/-- LDEXP (R103). Writes A × 2^B with one rounding. -/
def execLdexp (h : Head) (p : Payload) (s : State) : Host.Outcome State Fault Refusal :=
  .next (issueTree (Tree.one .ldexp h p) s)

/-- SGN (R103). Writes −1, +1 or A itself when A is zero. -/
def execSgn (h : Head) (p : Payload) (s : State) : Host.Outcome State Fault Refusal :=
  .next (issueTree (Tree.one .sgn h p) s)

end Sys2Proof.Machine
end

