-- ==== Sys2Proof/Machine/GroupEvents.lean ====
section
/-!
DEFINITION. The meanings of the events of the table: what groups and transactions wait for.
-/

namespace Sys2Proof.Machine

/-- STALL_EXPIRY (R56). The STALL count of a group runs out and the group may become READY. -/
def execStallExpiry (t w slot : Nat) (s : State) : Host.Outcome State Fault Refusal :=
  .next (s.stallExpiry t w slot)

/-- YIELD_EXPIRY (R215). The 64-issue-cycle exclusion of a yielded group ends. -/
def execYieldExpiry (t w slot : Nat) (s : State) : Host.Outcome State Fault Refusal :=
  .next (s.yieldExpiry t w slot)

/-- LDS_WRITEBACK (R128). An lds destination is written 8 issue cycles after issue. -/
def execLdsWriteback (t id : Nat) (s : State) : Host.Outcome State Fault Refusal :=
  .next (s.ldsWriteback t id)

/-- LOAD_DATA_ARRIVAL (R21). Load or returned data arrives, fills the destination and sets it full, with an error mark when an error is found. -/
def execLoadDataArrival (id : Nat) (r : Resp) (s : State) : Host.Outcome State Fault Refusal :=
  .next (s.loadArrival id r)

/-- PAGE_WALK_COMPLETE (R126). A pending page walk or host translation ends and the waiting group becomes ready. -/
def execPageWalkComplete (core ctx page : Nat) (s : State) : Host.Outcome State Fault Refusal :=
  .next (s.walkComplete core ctx page)

/-- WRITE_PERFORMED (R243). A store, atomic or engine write is taken at its home slice, stack engine or majority, taking its place in coherence order. -/
def execWritePerformed (w : WSel) (s : State) : Host.Outcome State Fault Refusal :=
  .next (s.writePerformed w)

/-- MAJORITY_RESPONSE_TIMEOUT (R300). A majority copy that has not responded within 20 µs counts as not responding. -/
def execMajorityResponseTimeout (id copy : Nat) (s : State) : Host.Outcome State Fault Refusal :=
  .next (s.majTimeout id copy)

/-- SRED_PERFORM (R139). The stack engine reduces the range and fills D. -/
def execSredPerform (id : Nat) (s : State) : Host.Outcome State Fault Refusal :=
  .next (s.sredPerform id)

/-- SEAL_READ_COMPLETE (R154). The 64-byte record read of seal returns; the record is checked and D receives a handle or status, or every lane faults precisely on poison. -/
def execSealReadComplete (id : Nat) (r : Resp) (s : State) : Host.Outcome State Fault Refusal :=
  .next (s.sealComplete id r)

/-- FETCHADD_COMPLETION (R311). The completion of a publish FetchAdd returns from the host, and the waiting group continues. -/
def execFetchaddCompletion (id : Nat) (ok : Bool) (s : State) : Host.Outcome State Fault Refusal :=
  .next (s.fetchAddDone id ok)

end Sys2Proof.Machine
end

