-- ==== Sys2Proof/Machine/IntegerOps.lean ====
section
/-!
DEFINITION. The meanings of the integer, logic, shift and bit operations (R100 to R102).
-/

namespace Sys2Proof.Machine

/-- MOV (R100). Copies A after modifiers to D. -/
def execMov (h : Head) (p : Payload) (s : State) : Host.Outcome State Fault Refusal :=
  .next (issueTree (Tree.one .mov h p) s)

/-- ADD (R100). Writes A + B. -/
def execAdd (h : Head) (p : Payload) (s : State) : Host.Outcome State Fault Refusal :=
  .next (issueTree (Tree.one .add h p) s)

/-- SUB (R100). Writes A − B. -/
def execSub (h : Head) (p : Payload) (s : State) : Host.Outcome State Fault Refusal :=
  .next (issueTree (Tree.one .sub h p) s)

/-- MUL (R100). Writes the low bits of the integer product, or the rounded float product. -/
def execMul (h : Head) (p : Payload) (s : State) : Host.Outcome State Fault Refusal :=
  .next (issueTree (Tree.one .mul h p) s)

/-- MULHI (R100). Writes the high n bits of the exact 2n-bit product. -/
def execMulhi (h : Head) (p : Payload) (s : State) : Host.Outcome State Fault Refusal :=
  .next (issueTree (Tree.one .mulhi h p) s)

/-- MAD (R100). Writes the low n bits of A × B + C. -/
def execMad (h : Head) (p : Payload) (s : State) : Host.Outcome State Fault Refusal :=
  .next (issueTree (Tree.one .mad h p) s)

/-- DIV (R101). Writes the truncated integer quotient or the correctly rounded float quotient. -/
def execDiv (h : Head) (p : Payload) (s : State) : Host.Outcome State Fault Refusal :=
  .next (issueTree (Tree.one .div h p) s)

/-- REM (R101). Writes the integer remainder, with the sign of A. -/
def execRem (h : Head) (p : Payload) (s : State) : Host.Outcome State Fault Refusal :=
  .next (issueTree (Tree.one .rem h p) s)

/-- MIN (R103). Writes the lesser value; floats use the IEEE minimum, which propagates NaN. -/
def execMin (h : Head) (p : Payload) (s : State) : Host.Outcome State Fault Refusal :=
  .next (issueTree (Tree.one .min h p) s)

/-- MAX (R103). Writes the greater value; floats use the IEEE maximum, which propagates NaN. -/
def execMax (h : Head) (p : Payload) (s : State) : Host.Outcome State Fault Refusal :=
  .next (issueTree (Tree.one .max h p) s)

/-- ADD_SAT (R100). Writes the exact sum clamped to the type range. -/
def execAddSat (h : Head) (p : Payload) (s : State) : Host.Outcome State Fault Refusal :=
  .next (issueTree (Tree.one .addSat h p) s)

/-- SUB_SAT (R100). Writes the exact difference clamped to the type range. -/
def execSubSat (h : Head) (p : Payload) (s : State) : Host.Outcome State Fault Refusal :=
  .next (issueTree (Tree.one .subSat h p) s)

/-- LEA (R100). Writes A + ext(B) × 2^sh, modulo 2^64. -/
def execLea (h : Head) (p : Payload) (s : State) : Host.Outcome State Fault Refusal :=
  .next (issueTree (Tree.one .lea h p) s)

/-- PRMT (R100). Builds D byte by byte from the bytes of B:A under the nibbles of C. -/
def execPrmt (h : Head) (p : Payload) (s : State) : Host.Outcome State Fault Refusal :=
  .next (issueTree (Tree.one .prmt h p) s)

/-- SEL (R100). Writes A when C is nonzero, otherwise B. -/
def execSel (h : Head) (p : Payload) (s : State) : Host.Outcome State Fault Refusal :=
  .next (issueTree (Tree.one .sel h p) s)

/-- AND (R102). Writes the bitwise and of A and B. -/
def execAnd (h : Head) (p : Payload) (s : State) : Host.Outcome State Fault Refusal :=
  .next (issueTree (Tree.one .and h p) s)

/-- OR (R102). Writes the bitwise or of A and B. -/
def execOr (h : Head) (p : Payload) (s : State) : Host.Outcome State Fault Refusal :=
  .next (issueTree (Tree.one .or h p) s)

/-- XOR (R102). Writes the bitwise exclusive or of A and B. -/
def execXor (h : Head) (p : Payload) (s : State) : Host.Outcome State Fault Refusal :=
  .next (issueTree (Tree.one .xor h p) s)

/-- ANDN (R102). Writes A and not B. -/
def execAndn (h : Head) (p : Payload) (s : State) : Host.Outcome State Fault Refusal :=
  .next (issueTree (Tree.one .andn h p) s)

/-- NOT (R102). Writes the complement of A. -/
def execNot (h : Head) (p : Payload) (s : State) : Host.Outcome State Fault Refusal :=
  .next (issueTree (Tree.one .not h p) s)

/-- SHL (R102). Shifts A left by B. -/
def execShl (h : Head) (p : Payload) (s : State) : Host.Outcome State Fault Refusal :=
  .next (issueTree (Tree.one .shl h p) s)

/-- SHR (R102). Shifts A right by B, logically or arithmetically as the type says. -/
def execShr (h : Head) (p : Payload) (s : State) : Host.Outcome State Fault Refusal :=
  .next (issueTree (Tree.one .shr h p) s)

/-- ROT (R102). Rotates A left by B mod n. -/
def execRot (h : Head) (p : Payload) (s : State) : Host.Outcome State Fault Refusal :=
  .next (issueTree (Tree.one .rot h p) s)

/-- BFE (R102). Extracts the bit field of A that B describes. -/
def execBfe (h : Head) (p : Payload) (s : State) : Host.Outcome State Fault Refusal :=
  .next (issueTree (Tree.one .bfe h p) s)

/-- BFI (R102). Inserts the low bits of B into the field of A that C describes. -/
def execBfi (h : Head) (p : Payload) (s : State) : Host.Outcome State Fault Refusal :=
  .next (issueTree (Tree.one .bfi h p) s)

/-- POPC (R102). Writes the number of set bits of A. -/
def execPopc (h : Head) (p : Payload) (s : State) : Host.Outcome State Fault Refusal :=
  .next (issueTree (Tree.one .popc h p) s)

/-- CLZ (R102). Writes the number of leading zeros of A. -/
def execClz (h : Head) (p : Payload) (s : State) : Host.Outcome State Fault Refusal :=
  .next (issueTree (Tree.one .clz h p) s)

/-- CTZ (R102). Writes the number of trailing zeros of A. -/
def execCtz (h : Head) (p : Payload) (s : State) : Host.Outcome State Fault Refusal :=
  .next (issueTree (Tree.one .ctz h p) s)

/-- BREV (R102). Writes A with its bits reversed. -/
def execBrev (h : Head) (p : Payload) (s : State) : Host.Outcome State Fault Refusal :=
  .next (issueTree (Tree.one .brev h p) s)

end Sys2Proof.Machine
end

