-- ==== Sys2Proof/Machine/LaunchEvents.lean ====
section
/-!
DEFINITION. The meanings of the events of the table: queues, contexts, launches, teams and containers.
-/

namespace Sys2Proof.Machine

/-- LAUNCH_ACCEPT (R265). An observed TAIL entry gets a serial, its parameters copied, checks and a Logbook record, and HEAD advances. -/
def execLaunchAccept (q : Nat) (s : State) : Host.Outcome State Fault Refusal :=
  .next (s.accept q)

/-- QUEUE_RESTART (R263). System software restarts a stopped queue, which re-reads its block. -/
def execQueueRestart (q : Nat) (s : State) : Host.Outcome State Fault Refusal :=
  .next (s.queueRestart q)

/-- QUEUE_REGISTER (R263). System software registers a queue-block address in BAR0. -/
def execQueueRegister (q addr : Nat) (s : State) : Host.Outcome State Fault Refusal :=
  .next (s.queueRegister q addr)

/-- CONTEXT_REGISTER (R275). System software registers a context record and its function assignment in BAR0. -/
def execContextRegister (ctx addr fn : Nat) (s : State) : Host.Outcome State Fault Refusal :=
  .next (s.contextRegister ctx addr fn)

/-- WAIT_COUNTER_CHECK (R266). A write to a wait counter is read, and makes the next entry eligible or fails it. -/
def execWaitCounterCheck (q : Nat) (s : State) : Host.Outcome State Fault Refusal :=
  .next (s.waitCheck q)

/-- QUEUE_AGE_BOOST (R267). An eligible head not started within AGE raises its queue's boost by one. -/
def execQueueAgeBoost (q : Nat) (s : State) : Host.Outcome State Fault Refusal :=
  .next (s.ageBoost q)

/-- TEAM_DISPATCH (R267). When a core has room, the next team is taken from pre-empted, undispatched or queue-head items and placed. -/
def execTeamDispatch (core : Nat) (quads : List Nat) (s : State) : Host.Outcome State Fault Refusal :=
  .next (s.dispatch core quads)

/-- PREEMPT_TEAM (R279). Once the region depth is 0, a team stops at instruction boundaries and its image is written to a save slot. -/
def execPreemptTeam (t : Nat) (s : State) : Host.Outcome State Fault Refusal :=
  .next (s.preemptDue t)

/-- PREEMPT_REQUEST (R279). The host requests pre-emption through BAR0. -/
def execPreemptRequest (ctx : Nat) (s : State) : Host.Outcome State Fault Refusal :=
  .next (s.preemptCtx ctx)

/-- LAUNCH_RETIRE (R268). When all teams have exited and all entries completed, staged writes are released, the record becomes RETIRED, SIG is added and a notice is sent. -/
def execLaunchRetire (serial : Nat) (s : State) : Host.Outcome State Fault Refusal :=
  .next (s.retire serial)

/-- LAUNCH_CANCEL (R374). The host cancels a launch through BAR0, and it ends as CANCELLED. -/
def execLaunchCancel (serial : Nat) (s : State) : Host.Outcome State Fault Refusal :=
  .next (s.cancel serial)

/-- CONTEXT_MIGRATE (R282). A context is moved to another module of the same class. -/
def execContextMigrate (ctx : Migration) (s : State) : Host.Outcome State Fault Refusal :=
  .next (s.migrate ctx)

/-- CONTAINER_LOAD (R284). A container is verified, measured and translated, and a handle is returned. -/
def execContainerLoad (addr size : Nat) (s : State) : Host.Outcome State Fault Refusal :=
  .next (s.containerLoad addr size)

/-- CONTAINER_UNLOAD (R290). Unloading a container increments its slot's generation. -/
def execContainerUnload (h : Nat) (s : State) : Host.Outcome State Fault Refusal :=
  .next (s.containerUnload h)

end Sys2Proof.Machine
end

