-- ==== Sys2Proof/Machine/LoadOps.lean ====
section
/-!
DEFINITION. The meanings of loads and stores of every space (R121 to R134).
-/

namespace Sys2Proof.Machine

/-- LDS (R128). Loads from the team's scratchpad, with a fixed latency of 8 cycles. -/
def execLds (h : Head) (p : Payload) (s : State) : Host.Outcome State Fault Refusal :=
  .next (issueTree (Tree.one .lds h p) s)

/-- STS (R128). Stores to the team's scratchpad. -/
def execSts (h : Head) (p : Payload) (s : State) : Host.Outcome State Fault Refusal :=
  .next (issueTree (Tree.one .sts h p) s)

/-- LDT (R129). Loads from the other half's scratchpad of a twin team. -/
def execLdt (h : Head) (p : Payload) (s : State) : Host.Outcome State Fault Refusal :=
  .next (issueTree (Tree.one .ldt h p) s)

/-- STT (R129). Stores to the other half's scratchpad of a twin team. -/
def execStt (h : Head) (p : Payload) (s : State) : Host.Outcome State Fault Refusal :=
  .next (issueTree (Tree.one .stt h p) s)

/-- LDG (R130). Loads from device global memory. -/
def execLdg (h : Head) (p : Payload) (s : State) : Host.Outcome State Fault Refusal :=
  .next (issueTree (Tree.one .ldg h p) s)

/-- STG (R130). Stores to device global memory. -/
def execStg (h : Head) (p : Payload) (s : State) : Host.Outcome State Fault Refusal :=
  .next (issueTree (Tree.one .stg h p) s)

/-- LDM (R131). Loads from majority space and repairs laggards. -/
def execLdm (h : Head) (p : Payload) (s : State) : Host.Outcome State Fault Refusal :=
  .next (issueTree (Tree.one .ldm h p) s)

/-- STM (R131). Stores a merged 128-byte line to every majority copy. -/
def execStm (h : Head) (p : Payload) (s : State) : Host.Outcome State Fault Refusal :=
  .next (issueTree (Tree.one .stm h p) s)

/-- LDR (R133). Loads from a remote module. -/
def execLdr (h : Head) (p : Payload) (s : State) : Host.Outcome State Fault Refusal :=
  .next (issueTree (Tree.one .ldr h p) s)

/-- STR (R133). Stores to a remote module. -/
def execStr (h : Head) (p : Payload) (s : State) : Host.Outcome State Fault Refusal :=
  .next (issueTree (Tree.one .str h p) s)

/-- LDH (R134). Loads from host space. -/
def execLdh (h : Head) (p : Payload) (s : State) : Host.Outcome State Fault Refusal :=
  .next (issueTree (Tree.one .ldh h p) s)

/-- STH (R134). Stores to host space. -/
def execSth (h : Head) (p : Payload) (s : State) : Host.Outcome State Fault Refusal :=
  .next (issueTree (Tree.one .sth h p) s)

end Sys2Proof.Machine
end

