-- ==== Sys2Proof/Machine/MatrixOps.lean ====
section
/-!
DEFINITION. The meanings of matrix instructions, handles and formats (R151 to R174).
-/

namespace Sys2Proof.Machine

/-- GANG (R158). Writes the wave's gang register. -/
def execGang (h : Head) (p : Payload) (s : State) : Host.Outcome State Fault Refusal :=
  .next (issueH (Tree.one .gang h p) s (gangIssue p))

/-- MMA (R159). Arrives at the gang latch for a plus-times matrix operation. -/
def execMma (h : Head) (p : Payload) (s : State) : Host.Outcome State Fault Refusal :=
  .next (issueH (Tree.one .mma h p) s (mmaIssue .mma h p))

/-- MMX (R159). Arrives at the gang latch for an other-semiring matrix operation. -/
def execMmx (h : Head) (p : Payload) (s : State) : Host.Outcome State Fault Refusal :=
  .next (issueH (Tree.one .mmx h p) s (mmaIssue .mmx h p))

/-- MMLD (R169). Enters a qmat entry that loads 32 rows into a band. -/
def execMmld (h : Head) (p : Payload) (s : State) : Host.Outcome State Fault Refusal :=
  .next (issueH (Tree.one .mmld h p) s (mmldIssue p))

/-- MMST (R170). Enters a qmat entry that stores a band, or delivers a pending suspect trap. -/
def execMmst (h : Head) (p : Payload) (s : State) : Host.Outcome State Fault Refusal :=
  .next (issueH (Tree.one .mmst h p) s (mmstIssue p))

/-- MMZ (R168). Enters a qmat entry that zeroes a band and its flags. -/
def execMmz (h : Head) (p : Payload) (s : State) : Host.Outcome State Fault Refusal :=
  .next (issueH (Tree.one .mmz h p) s (mmzIssue p))

/-- MMSTAT (R171). Enters a qmat entry that reports a band's flags and ELQ once earlier entries complete. -/
def execMmstat (h : Head) (p : Payload) (s : State) : Host.Outcome State Fault Refusal :=
  .next (issueH (Tree.one .mmstat h p) s (mmstatIssue p))

/-- CBLD (R173). Loads 16 BF16 codebook values into cbN. -/
def execCbld (h : Head) (p : Payload) (s : State) : Host.Outcome State Fault Refusal :=
  .next (issueH (Tree.one .cbld h p) s (cbldIssue .cbld h p))

/-- SEAL (R154). Checks a tensor record and returns a handle or a status. -/
def execSeal (h : Head) (p : Payload) (s : State) : Host.Outcome State Fault Refusal :=
  .next (issueH (Tree.one .seal h p) s (sealIssue .seal h p))

/-- HDROP (R155). Releases a handle and bumps its slot's generation. -/
def execHdrop (h : Head) (p : Payload) (s : State) : Host.Outcome State Fault Refusal :=
  .next (issueH (Tree.one .hdrop h p) s hdropIssue)

/-- FMT (R174). Sets the fragment's fmt copy. -/
def execFmt (h : Head) (p : Payload) (s : State) : Host.Outcome State Fault Refusal :=
  .next (issueH (Tree.one .fmt h p) s (fmtIssue p))

/-- FMT_M (R174). Sets the masked bits of the fragment's fmt copy. -/
def execFmtM (h : Head) (p : Payload) (s : State) : Host.Outcome State Fault Refusal :=
  .next (issueH (Tree.one .fmtM h p) s (fmtIssue p))

end Sys2Proof.Machine
end

