-- ==== Sys2Proof/Machine/OrderOps.lean ====
section
/-!
DEFINITION. The meanings of ordering instructions (R143 to R145).
-/

namespace Sys2Proof.Machine

/-- PHASE_REL (R143). Holds the group until its earlier stores and atomics are performed at the scope. -/
def execPhaseRel (h : Head) (p : Payload) (s : State) : Host.Outcome State Fault Refusal :=
  .next (issueH (Tree.one .phaseRel h p) s (phaseRelIssue p))

/-- PHASE_ACQ (R143). Invalidates stale L1 lines and orders later loads after it. -/
def execPhaseAcq (h : Head) (p : Payload) (s : State) : Host.Outcome State Fault Refusal :=
  .next (issueH (Tree.one .phaseAcq h p) s (phaseAcqIssue p))

/-- PUBLISH (R144). Waits for the team's host-visible writes, then sends a PCIe FetchAdd to a version counter. -/
def execPublish (h : Head) (p : Payload) (s : State) : Host.Outcome State Fault Refusal :=
  .next (issueH (Tree.one .publish h p) s (publishIssue .publish h p))

/-- QFENCE (R145). Orders later entries of the named queues after earlier ones. -/
def execQfence (h : Head) (p : Payload) (s : State) : Host.Outcome State Fault Refusal :=
  .next (issueH (Tree.one .qfence h p) s (qfenceIssue p))

end Sys2Proof.Machine
end

