-- ==== Sys2Proof/Machine/PostOps.lean ====
section
/-!
DEFINITION. The meanings of posts to the engines (R176 to R207).
-/

namespace Sys2Proof.Machine

/-- CPY_1D (R192). Builds and posts a 1-D copy entry to the copy ring. -/
def execCpy1d (h : Head) (p : Payload) (s : State) : Host.Outcome State Fault Refusal :=
  .next (issueTree (Tree.one .cpy1d h p) s)

/-- CPY_E (R192). Posts a checked 32-byte copy-entry image to the copy ring. -/
def execCpyE (h : Head) (p : Payload) (s : State) : Host.Outcome State Fault Refusal :=
  .next (issueTree (Tree.one .cpyE h p) s)

/-- IDXG (R198). Posts an index-engine gather of one element per lane. -/
def execIdxg (h : Head) (p : Payload) (s : State) : Host.Outcome State Fault Refusal :=
  .next (issueTree (Tree.one .idxg h p) s)

/-- IDXG_ST (R198). Posts a gather and writes a per-lane status. -/
def execIdxgSt (h : Head) (p : Payload) (s : State) : Host.Outcome State Fault Refusal :=
  .next (issueTree (Tree.one .idxgSt h p) s)

/-- IDXS (R198). Posts an index-engine scatter of one element per lane. -/
def execIdxs (h : Head) (p : Payload) (s : State) : Host.Outcome State Fault Refusal :=
  .next (issueTree (Tree.one .idxs h p) s)

/-- IDXS_ST (R198). Posts a scatter and writes a per-lane status. -/
def execIdxsSt (h : Head) (p : Payload) (s : State) : Host.Outcome State Fault Refusal :=
  .next (issueTree (Tree.one .idxsSt h p) s)

/-- FQPLAY (R200). Replays up to n records of the element fault queue. -/
def execFqplay (h : Head) (p : Payload) (s : State) : Host.Outcome State Fault Refusal :=
  .next (issueTree (Tree.one .fqplay h p) s)

/-- BPUT (R202). Appends per-lane index-value pairs to their bins through bin staging. -/
def execBput (h : Head) (p : Payload) (s : State) : Host.Outcome State Fault Refusal :=
  .next (issueTree (Tree.one .bput h p) s)

/-- BPLAY (R203). Replays the pairs of one bin region into the target tensor. -/
def execBplay (h : Head) (p : Payload) (s : State) : Host.Outcome State Fault Refusal :=
  .next (issueTree (Tree.one .bplay h p) s)

/-- WLPUSH (R205). Appends coordinates to a work-list front, spilling or dropping when full. -/
def execWlpush (h : Head) (p : Payload) (s : State) : Host.Outcome State Fault Refusal :=
  .next (issueTree (Tree.one .wlpush h p) s)

/-- WLINS (R205). Appends coordinates whose bitmap bit a test-and-set finds clear. -/
def execWlins (h : Head) (p : Payload) (s : State) : Host.Outcome State Fault Refusal :=
  .next (issueTree (Tree.one .wlins h p) s)

/-- WLPOP (R206). Takes up to one coordinate per committing lane from the front and the spill area. -/
def execWlpop (h : Head) (p : Payload) (s : State) : Host.Outcome State Fault Refusal :=
  .next (issueTree (Tree.one .wlpop h p) s)

/-- WLSTAT (R207). Reports the front count, the spill count and OVF. -/
def execWlstat (h : Head) (p : Payload) (s : State) : Host.Outcome State Fault Refusal :=
  .next (issueTree (Tree.one .wlstat h p) s)

/-- QWORD (R182). Writes a queue control word and makes it the team's active queue of that kind. -/
def execQword (h : Head) (p : Payload) (s : State) : Host.Outcome State Fault Refusal :=
  .next (issueTree (Tree.one .qword h p) s)

end Sys2Proof.Machine
end

