-- ==== Sys2Proof/Machine/RepairEvents.lean ====
section
/-!
DEFINITION. The meanings of the events of the table: tracking, majority sets, errors, repair and test.
-/

namespace Sys2Proof.Machine

/-- TRACK_RANGE (R295). A range is tracked in a format, and its tile entries are reserved and classified. -/
def execTrackRange (lo hi fmt : Nat) (s : State) : Host.Outcome State Fault Refusal :=
  .next (s.trackRange lo hi fmt)

/-- UNTRACK_RANGE (R295). A range's tile entries are released. -/
def execUntrackRange (lo hi : Nat) (s : State) : Host.Outcome State Fault Refusal :=
  .next (s.untrackRange lo hi)

/-- MAJORITY_SET_WRITE (R298). A majority set entry is written and, if valid, its copies are established. -/
def execMajoritySetWrite (k : Nat) (e : List Nat) (s : State) : Host.Outcome State Fault Refusal :=
  .next (s.setWrite k e)

/-- MAJORITY_COPY_MOVE (R329). A majority copy is rewritten to a new base and the set entry is updated. -/
def execMajorityCopyMove (k copy base : Nat) (s : State) : Host.Outcome State Fault Refusal :=
  .next (s.copyMove k copy base)

/-- SCRUB (R303). Each scrub period, every copy is read and lower copies are repaired from the greatest tag. -/
def execScrub (k : Nat) (s : State) : Host.Outcome State Fault Refusal :=
  .next (s.scrub k)

/-- CORRECTED_ERROR (R321). An ECC error is corrected in place and logged. -/
def execCorrectedError (e : ErrInfo) (s : State) : Host.Outcome State Fault Refusal :=
  .next (s.correctedError e)

/-- UNCORRECTED_MEMORY_ERROR (R322). An uncorrectable memory-side error stores the line poisoned. -/
def execUncorrectedMemoryError (e : ErrInfo) (s : State) : Host.Outcome State Fault Refusal :=
  .next (s.memoryError e)

/-- STATE_LOSS (R325). An uncorrectable error in a core array holding team state stops that launch's teams. -/
def execStateLoss (core : Nat) (e : ErrInfo) (s : State) : Host.Outcome State Fault Refusal :=
  .next (s.stateLoss core e)

/-- CORE_RETIRE_DRAIN (R328). A core marked for retirement is drained and replaced by a tested spare. -/
def execCoreRetireDrain (core : Nat) (s : State) : Host.Outcome State Fault Refusal :=
  .next (s.coreRetire core)

/-- CHANNEL_REPAIR (R329). A channel's lines are copied online to a spare channel and the repair map is updated. -/
def execChannelRepair (stack chan : Nat) (s : State) : Host.Outcome State Fault Refusal :=
  .next (s.channelRepair stack chan)

/-- INFIELD_TEST (R332). Each test interval, a core is drained and receives a structural test. -/
def execInfieldTest (core : Nat) (s : State) : Host.Outcome State Fault Refusal :=
  .next (s.fieldTest core)

/-- INFIELD_TEST_COMPLETE (R332). The test ends, and the core returns to service or is retired. -/
def execInfieldTestComplete (core : Nat) (pass : Bool) (s : State) : Host.Outcome State Fault Refusal :=
  .next (s.fieldTestDone core pass)

/-- L2_WAY_REPAIR (R328). After a failing L2 way, or an L2 or directory row, has been written back and emptied, it is replaced online by its spare and a repair record is written. -/
def execL2WayRepair (die way : Nat) (s : State) : Host.Outcome State Fault Refusal :=
  .next (s.wayRepair die way)

end Sys2Proof.Machine
end

