-- ==== Sys2Proof/Machine/SystemOps.lean ====
section
/-!
DEFINITION. The meanings of system and handler instructions (R208 to R215).
-/

namespace Sys2Proof.Machine

/-- TRAP (R208). Raises cause 0x10 with detail n. -/
def execTrap (h : Head) (p : Payload) (s : State) : Host.Outcome State Fault Refusal :=
  .next (issueH (Tree.one .trap h p) s (trapIssue p))

/-- BKPT (R208). Raises cause 0x0F, going to the debugger or the handler. -/
def execBkpt (h : Head) (p : Payload) (s : State) : Host.Outcome State Fault Refusal :=
  .next (issueH (Tree.one .bkpt h p) s (bkptIssue p))

/-- NOPRE (R209). Increments the wave's non-preemptible region depth. -/
def execNopre (h : Head) (p : Payload) (s : State) : Host.Outcome State Fault Refusal :=
  .next (issueH (Tree.one .nopre h p) s nopreIssue)

/-- PRE (R209). Decrements the wave's region depth. -/
def execPre (h : Head) (p : Payload) (s : State) : Host.Outcome State Fault Refusal :=
  .next (issueH (Tree.one .pre h p) s preIssue)

/-- CAPQ (R210). Returns the capability class, stepping and instance. -/
def execCapq (h : Head) (p : Payload) (s : State) : Host.Outcome State Fault Refusal :=
  .next (issueH (Tree.one .capq h p) s (capqIssue p))

/-- SREAD (R214). Reads a special register into a scalar register or pair. -/
def execSread (h : Head) (p : Payload) (s : State) : Host.Outcome State Fault Refusal :=
  .next (issueH (Tree.one .sread h p) s (sreadIssue p))

/-- SWRITE (R214). Writes a writable special register. -/
def execSwrite (h : Head) (p : Payload) (s : State) : Host.Outcome State Fault Refusal :=
  .next (issueH (Tree.one .swrite h p) s (swriteIssue p))

/-- ERET (R213). Resumes the named trapped lanes at a target or at the trapped head. -/
def execEret (h : Head) (p : Payload) (s : State) : Host.Outcome State Fault Refusal :=
  .next (issueH (Tree.one .eret h p) s (eretIssue p))

/-- ERET_EXIT (R213). Makes the named trapped lanes exit. -/
def execEretExit (h : Head) (p : Payload) (s : State) : Host.Outcome State Fault Refusal :=
  .next (issueH (Tree.one .eretExit h p) s eretExitIssue)

/-- LGET (R212). Reads a lane's register, register state or fault-record word in handler mode. -/
def execLget (h : Head) (p : Payload) (s : State) : Host.Outcome State Fault Refusal :=
  .next (issueH (Tree.one .lget h p) s (lgetIssue p))

/-- LSET (R212). Writes a lane's register and sets it full in handler mode. -/
def execLset (h : Head) (p : Payload) (s : State) : Host.Outcome State Fault Refusal :=
  .next (issueH (Tree.one .lset h p) s (lsetIssue p))

/-- YIELD (R215). Deprioritises the group for up to 64 issue cycles. -/
def execYield (h : Head) (p : Payload) (s : State) : Host.Outcome State Fault Refusal :=
  .next (issueH (Tree.one .yield h p) s (yieldIssue (Tree.one .yield h p)))

end Sys2Proof.Machine
end

