-- ==== Sys2Proof/Machine/TableOps.lean ====
section
/-!
DEFINITION. The meanings of feature tables and data trees (R114 to R120).
-/

namespace Sys2Proof.Machine

/-- FBIN (R114). Counts the scratchpad table boundaries that are at most x. -/
def execFbin (h : Head) (p : Payload) (s : State) : Host.Outcome State Fault Refusal :=
  .next (issueTree (Tree.one .fbin h p) s)

/-- FSCALE (R115). Standardises x with a scratchpad record and clamps the result. -/
def execFscale (h : Head) (p : Payload) (s : State) : Host.Outcome State Fault Refusal :=
  .next (issueTree (Tree.one .fscale h p) s)

/-- FCROSS (R116). Crosses two bins modulo T. -/
def execFcross (h : Head) (p : Payload) (s : State) : Host.Outcome State Fault Refusal :=
  .next (issueTree (Tree.one .fcross h p) s)

/-- NODE (R118). Descends up to k levels of a scratchpad data tree. -/
def execNode (h : Head) (p : Payload) (s : State) : Host.Outcome State Fault Refusal :=
  .next (issueTree (Tree.one .node h p) s)

/-- LACC (R119). Adds the value of a reached leaf to a score. -/
def execLacc (h : Head) (p : Payload) (s : State) : Host.Outcome State Fault Refusal :=
  .next (issueTree (Tree.one .lacc h p) s)

/-- LINK (R120). Applies a link function to A. -/
def execLink (h : Head) (p : Payload) (s : State) : Host.Outcome State Fault Refusal :=
  .next (issueTree (Tree.one .link h p) s)

end Sys2Proof.Machine
end

