-- ==== Sys2Proof/Machine/TeamEvents.lean ====
section
/-!
DEFINITION. The meanings of the events of the table: parking and the debugger.
-/

namespace Sys2Proof.Machine

/-- TEAM_PARK (R230). A resident team with nothing ready for 4096 cycles is drained and its storage saved to L2 when another team waits for room. -/
def execTeamPark (t : Nat) (s : State) : Host.Outcome State Fault Refusal :=
  .next (s.park t)

/-- TEAM_RESTORE_PARKED (R232). A parked team's storage is restored as soon as it fits, and its pending watch fires are applied. -/
def execTeamRestoreParked (t : Nat) (s : State) : Host.Outcome State Fault Refusal :=
  .next (s.unparkTeam t)

/-- DEBUG_STOP (R235). A debugger stop freezes every group of a team at its next instruction boundary. -/
def execDebugStop (t : Nat) (s : State) : Host.Outcome State Fault Refusal :=
  .next (s.debugStop t)

/-- DEBUG_RESUME (R237). Every frozen group returns to its prior state. -/
def execDebugResume (t : Nat) (s : State) : Host.Outcome State Fault Refusal :=
  .next (s.debugResume t)

/-- SINGLE_STEP (R236). One tree instruction of the focus group issues. -/
def execSingleStep (t w lane : Nat) (s : State) : Host.Outcome State Fault Refusal :=
  .next (s.singleStep t w lane)

/-- STEP_WAVE (R237). Each group of the focus wave that is ready at the start issues once. -/
def execStepWave (t w : Nat) (s : State) : Host.Outcome State Fault Refusal :=
  .next (s.stepWave t w)

/-- DEBUG_PASS (R208). A breaking group continues at the bkpt's successor. -/
def execDebugPass (t w slot : Nat) (s : State) : Host.Outcome State Fault Refusal :=
  .next (s.debugPass t w slot)

/-- DEBUG_DELIVER (R208). A breaking group takes cause 0x0F into the handler. -/
def execDebugDeliver (t w slot : Nat) (s : State) : Host.Outcome State Fault Refusal :=
  .next (s.debugDeliver t w slot)

/-- DEBUGGER_ATTACH (R208). A debugger attaches to or detaches from a context, which decides whether cause 0x0F goes to the debugger or to the handler. -/
def execDebuggerAttach (ctx : Nat) (on : Bool) (s : State) : Host.Outcome State Fault Refusal :=
  .next (s.attach ctx on)

end Sys2Proof.Machine
end

