-- ==== Sys2Proof/Machine/TreeOps.lean ====
section
/-!
DEFINITION. The meaning of a tree that is not one row of the operations alone (R77).
-/

namespace Sys2Proof.Machine

/-- TREE_INSTRUCTION (R77). A group issues a legal tree instruction; each lane runs the entry arc, its tests and arc operations, and a leaf, and the instruction then commits as a whole. -/
def execTreeInstruction (t : Tree) (s : State) : Host.Outcome State Fault Refusal :=
  .next (issueTree t s)

end Sys2Proof.Machine
end

