-- ==== Sys2Proof/Machine/Dispatch.lean ====
section
/-!
DEFINITION. One arm for each row of the table.
-/

namespace Sys2Proof.Machine

def exec (i : Instr) (s : State) : Host.Outcome State Fault Refusal :=
  match i with
  | .treeInstruction t => Sys2Proof.Machine.execTreeInstruction t s
  | .stallExpiry t w slot => Sys2Proof.Machine.execStallExpiry t w slot s
  | .yieldExpiry t w slot => Sys2Proof.Machine.execYieldExpiry t w slot s
  | .mov h p => Sys2Proof.Machine.execMov h p s
  | .add h p => Sys2Proof.Machine.execAdd h p s
  | .sub h p => Sys2Proof.Machine.execSub h p s
  | .mul h p => Sys2Proof.Machine.execMul h p s
  | .mulhi h p => Sys2Proof.Machine.execMulhi h p s
  | .mad h p => Sys2Proof.Machine.execMad h p s
  | .div h p => Sys2Proof.Machine.execDiv h p s
  | .rem h p => Sys2Proof.Machine.execRem h p s
  | .min h p => Sys2Proof.Machine.execMin h p s
  | .max h p => Sys2Proof.Machine.execMax h p s
  | .addSat h p => Sys2Proof.Machine.execAddSat h p s
  | .subSat h p => Sys2Proof.Machine.execSubSat h p s
  | .lea h p => Sys2Proof.Machine.execLea h p s
  | .prmt h p => Sys2Proof.Machine.execPrmt h p s
  | .sel h p => Sys2Proof.Machine.execSel h p s
  | .and h p => Sys2Proof.Machine.execAnd h p s
  | .or h p => Sys2Proof.Machine.execOr h p s
  | .xor h p => Sys2Proof.Machine.execXor h p s
  | .andn h p => Sys2Proof.Machine.execAndn h p s
  | .not h p => Sys2Proof.Machine.execNot h p s
  | .shl h p => Sys2Proof.Machine.execShl h p s
  | .shr h p => Sys2Proof.Machine.execShr h p s
  | .rot h p => Sys2Proof.Machine.execRot h p s
  | .bfe h p => Sys2Proof.Machine.execBfe h p s
  | .bfi h p => Sys2Proof.Machine.execBfi h p s
  | .popc h p => Sys2Proof.Machine.execPopc h p s
  | .clz h p => Sys2Proof.Machine.execClz h p s
  | .ctz h p => Sys2Proof.Machine.execCtz h p s
  | .brev h p => Sys2Proof.Machine.execBrev h p s
  | .fma h p => Sys2Proof.Machine.execFma h p s
  | .dot2 h p => Sys2Proof.Machine.execDot2 h p s
  | .fmin h p => Sys2Proof.Machine.execFmin h p s
  | .fmax h p => Sys2Proof.Machine.execFmax h p s
  | .rcp h p => Sys2Proof.Machine.execRcp h p s
  | .rsq h p => Sys2Proof.Machine.execRsq h p s
  | .sqrt h p => Sys2Proof.Machine.execSqrt h p s
  | .exp2 h p => Sys2Proof.Machine.execExp2 h p s
  | .log2 h p => Sys2Proof.Machine.execLog2 h p s
  | .sin h p => Sys2Proof.Machine.execSin h p s
  | .cos h p => Sys2Proof.Machine.execCos h p s
  | .tanh h p => Sys2Proof.Machine.execTanh h p s
  | .rnd h p => Sys2Proof.Machine.execRnd h p s
  | .frac h p => Sys2Proof.Machine.execFrac h p s
  | .ldexp h p => Sys2Proof.Machine.execLdexp h p s
  | .sgn h p => Sys2Proof.Machine.execSgn h p s
  | .cvt h p => Sys2Proof.Machine.execCvt h p s
  | .cvtpk h p => Sys2Proof.Machine.execCvtpk h p s
  | .cvtun h p => Sys2Proof.Machine.execCvtun h p s
  | .cvtmx h p => Sys2Proof.Machine.execCvtmx h p s
  | .fclass h p => Sys2Proof.Machine.execFclass h p s
  | .fbin h p => Sys2Proof.Machine.execFbin h p s
  | .fscale h p => Sys2Proof.Machine.execFscale h p s
  | .fcross h p => Sys2Proof.Machine.execFcross h p s
  | .node h p => Sys2Proof.Machine.execNode h p s
  | .lacc h p => Sys2Proof.Machine.execLacc h p s
  | .link h p => Sys2Proof.Machine.execLink h p s
  | .lds h p => Sys2Proof.Machine.execLds h p s
  | .ldsWriteback t id => Sys2Proof.Machine.execLdsWriteback t id s
  | .sts h p => Sys2Proof.Machine.execSts h p s
  | .ldt h p => Sys2Proof.Machine.execLdt h p s
  | .stt h p => Sys2Proof.Machine.execStt h p s
  | .ldg h p => Sys2Proof.Machine.execLdg h p s
  | .stg h p => Sys2Proof.Machine.execStg h p s
  | .ldm h p => Sys2Proof.Machine.execLdm h p s
  | .stm h p => Sys2Proof.Machine.execStm h p s
  | .ldr h p => Sys2Proof.Machine.execLdr h p s
  | .str h p => Sys2Proof.Machine.execStr h p s
  | .ldh h p => Sys2Proof.Machine.execLdh h p s
  | .sth h p => Sys2Proof.Machine.execSth h p s
  | .atms h p => Sys2Proof.Machine.execAtms h p s
  | .atmg h p => Sys2Proof.Machine.execAtmg h p s
  | .atmr h p => Sys2Proof.Machine.execAtmr h p s
  | .mcas h p => Sys2Proof.Machine.execMcas h p s
  | .sred h p => Sys2Proof.Machine.execSred h p s
  | .smv h p => Sys2Proof.Machine.execSmv h p s
  | .cpy1d h p => Sys2Proof.Machine.execCpy1d h p s
  | .cpyE h p => Sys2Proof.Machine.execCpyE h p s
  | .idxg h p => Sys2Proof.Machine.execIdxg h p s
  | .idxgSt h p => Sys2Proof.Machine.execIdxgSt h p s
  | .idxs h p => Sys2Proof.Machine.execIdxs h p s
  | .idxsSt h p => Sys2Proof.Machine.execIdxsSt h p s
  | .fqplay h p => Sys2Proof.Machine.execFqplay h p s
  | .bput h p => Sys2Proof.Machine.execBput h p s
  | .bplay h p => Sys2Proof.Machine.execBplay h p s
  | .wlpush h p => Sys2Proof.Machine.execWlpush h p s
  | .wlins h p => Sys2Proof.Machine.execWlins h p s
  | .wlpop h p => Sys2Proof.Machine.execWlpop h p s
  | .wlstat h p => Sys2Proof.Machine.execWlstat h p s
  | .barInit h p => Sys2Proof.Machine.execBarInit h p s
  | .barArr h p => Sys2Proof.Machine.execBarArr h p s
  | .barArrM h p => Sys2Proof.Machine.execBarArrM h p s
  | .barExp h p => Sys2Proof.Machine.execBarExp h p s
  | .watchA h p => Sys2Proof.Machine.execWatchA h p s
  | .watchC h p => Sys2Proof.Machine.execWatchC h p s
  | .qword h p => Sys2Proof.Machine.execQword h p s
  | .tfill h p => Sys2Proof.Machine.execTfill h p s
  | .tcls h p => Sys2Proof.Machine.execTcls h p s
  | .tqry h p => Sys2Proof.Machine.execTqry h p s
  | .gang h p => Sys2Proof.Machine.execGang h p s
  | .mma h p => Sys2Proof.Machine.execMma h p s
  | .mmx h p => Sys2Proof.Machine.execMmx h p s
  | .mmld h p => Sys2Proof.Machine.execMmld h p s
  | .mmst h p => Sys2Proof.Machine.execMmst h p s
  | .mmz h p => Sys2Proof.Machine.execMmz h p s
  | .mmstat h p => Sys2Proof.Machine.execMmstat h p s
  | .cbld h p => Sys2Proof.Machine.execCbld h p s
  | .seal h p => Sys2Proof.Machine.execSeal h p s
  | .hdrop h p => Sys2Proof.Machine.execHdrop h p s
  | .fmt h p => Sys2Proof.Machine.execFmt h p s
  | .fmtM h p => Sys2Proof.Machine.execFmtM h p s
  | .shfl h p => Sys2Proof.Machine.execShfl h p s
  | .vote h p => Sys2Proof.Machine.execVote h p s
  | .redux h p => Sys2Proof.Machine.execRedux h p s
  | .bcast h p => Sys2Proof.Machine.execBcast h p s
  | .barWait h p => Sys2Proof.Machine.execBarWait h p s
  | .phaseRel h p => Sys2Proof.Machine.execPhaseRel h p s
  | .phaseAcq h p => Sys2Proof.Machine.execPhaseAcq h p s
  | .publish h p => Sys2Proof.Machine.execPublish h p s
  | .qfence h p => Sys2Proof.Machine.execQfence h p s
  | .trap h p => Sys2Proof.Machine.execTrap h p s
  | .bkpt h p => Sys2Proof.Machine.execBkpt h p s
  | .nopre h p => Sys2Proof.Machine.execNopre h p s
  | .pre h p => Sys2Proof.Machine.execPre h p s
  | .capq h p => Sys2Proof.Machine.execCapq h p s
  | .sread h p => Sys2Proof.Machine.execSread h p s
  | .swrite h p => Sys2Proof.Machine.execSwrite h p s
  | .eret h p => Sys2Proof.Machine.execEret h p s
  | .eretExit h p => Sys2Proof.Machine.execEretExit h p s
  | .lget h p => Sys2Proof.Machine.execLget h p s
  | .lset h p => Sys2Proof.Machine.execLset h p s
  | .yield h p => Sys2Proof.Machine.execYield h p s
  | .loadDataArrival id r => Sys2Proof.Machine.execLoadDataArrival id r s
  | .pageWalkComplete core ctx page => Sys2Proof.Machine.execPageWalkComplete core ctx page s
  | .writePerformed w => Sys2Proof.Machine.execWritePerformed w s
  | .majorityResponseTimeout id copy => Sys2Proof.Machine.execMajorityResponseTimeout id copy s
  | .copyEngineTurn core => Sys2Proof.Machine.execCopyEngineTurn core s
  | .indexEngineTurn core => Sys2Proof.Machine.execIndexEngineTurn core s
  | .binEngineTurn core => Sys2Proof.Machine.execBinEngineTurn core s
  | .bplayPerform core => Sys2Proof.Machine.execBplayPerform core s
  | .worklistEngineTurn core => Sys2Proof.Machine.execWorklistEngineTurn core s
  | .worklistFrontDrain t => Sys2Proof.Machine.execWorklistFrontDrain t s
  | .stackEngineSmv t => Sys2Proof.Machine.execStackEngineSmv t s
  | .sredPerform id => Sys2Proof.Machine.execSredPerform id s
  | .matrixJointOperation core => Sys2Proof.Machine.execMatrixJointOperation core s
  | .mmldPerform core => Sys2Proof.Machine.execMmldPerform core s
  | .mmstPerform core => Sys2Proof.Machine.execMmstPerform core s
  | .cbldComplete core => Sys2Proof.Machine.execCbldComplete core s
  | .fqheadAdvance ctx head => Sys2Proof.Machine.execFqheadAdvance ctx head s
  | .faultVerdictResolved ctx page replay => Sys2Proof.Machine.execFaultVerdictResolved ctx page replay s
  | .faultVerdictRefused ctx page => Sys2Proof.Machine.execFaultVerdictRefused ctx page s
  | .tlbInvalidate ctx lo hi => Sys2Proof.Machine.execTlbInvalidate ctx lo hi s
  | .regionWatchdog t w => Sys2Proof.Machine.execRegionWatchdog t w s
  | .teamPark t => Sys2Proof.Machine.execTeamPark t s
  | .teamRestoreParked t => Sys2Proof.Machine.execTeamRestoreParked t s
  | .debugStop t => Sys2Proof.Machine.execDebugStop t s
  | .debugResume t => Sys2Proof.Machine.execDebugResume t s
  | .singleStep t w lane => Sys2Proof.Machine.execSingleStep t w lane s
  | .stepWave t w => Sys2Proof.Machine.execStepWave t w s
  | .debugPass t w slot => Sys2Proof.Machine.execDebugPass t w slot s
  | .debugDeliver t w slot => Sys2Proof.Machine.execDebugDeliver t w slot s
  | .launchAccept q => Sys2Proof.Machine.execLaunchAccept q s
  | .queueRestart q => Sys2Proof.Machine.execQueueRestart q s
  | .queueRegister q addr => Sys2Proof.Machine.execQueueRegister q addr s
  | .contextRegister ctx addr fn => Sys2Proof.Machine.execContextRegister ctx addr fn s
  | .waitCounterCheck q => Sys2Proof.Machine.execWaitCounterCheck q s
  | .queueAgeBoost q => Sys2Proof.Machine.execQueueAgeBoost q s
  | .teamDispatch core quads => Sys2Proof.Machine.execTeamDispatch core quads s
  | .preemptTeam t => Sys2Proof.Machine.execPreemptTeam t s
  | .preemptRequest ctx => Sys2Proof.Machine.execPreemptRequest ctx s
  | .launchRetire serial => Sys2Proof.Machine.execLaunchRetire serial s
  | .launchCancel serial => Sys2Proof.Machine.execLaunchCancel serial s
  | .contextMigrate ctx => Sys2Proof.Machine.execContextMigrate ctx s
  | .containerLoad addr size => Sys2Proof.Machine.execContainerLoad addr size s
  | .containerUnload h => Sys2Proof.Machine.execContainerUnload h s
  | .trackRange lo hi fmt => Sys2Proof.Machine.execTrackRange lo hi fmt s
  | .untrackRange lo hi => Sys2Proof.Machine.execUntrackRange lo hi s
  | .majoritySetWrite k e => Sys2Proof.Machine.execMajoritySetWrite k e s
  | .majorityCopyMove k copy base => Sys2Proof.Machine.execMajorityCopyMove k copy base s
  | .scrub k => Sys2Proof.Machine.execScrub k s
  | .correctedError e => Sys2Proof.Machine.execCorrectedError e s
  | .uncorrectedMemoryError e => Sys2Proof.Machine.execUncorrectedMemoryError e s
  | .stateLoss core e => Sys2Proof.Machine.execStateLoss core e s
  | .coreRetireDrain core => Sys2Proof.Machine.execCoreRetireDrain core s
  | .channelRepair stack chan => Sys2Proof.Machine.execChannelRepair stack chan s
  | .infieldTest core => Sys2Proof.Machine.execInfieldTest core s
  | .infieldTestComplete core pass => Sys2Proof.Machine.execInfieldTestComplete core pass s
  | .cmdQuiesce die => Sys2Proof.Machine.execCmdQuiesce die s
  | .cmdRelease die => Sys2Proof.Machine.execCmdRelease die s
  | .cmdComputeReset die => Sys2Proof.Machine.execCmdComputeReset die s
  | .cmdPowerOff die => Sys2Proof.Machine.execCmdPowerOff die s
  | .cmdPowerOn die => Sys2Proof.Machine.execCmdPowerOn die s
  | .dieDrained die => Sys2Proof.Machine.execDieDrained die s
  | .dieWatchdog die => Sys2Proof.Machine.execDieWatchdog die s
  | .dieResetComplete die pass => Sys2Proof.Machine.execDieResetComplete die pass s
  | .epsFlagClear die bits => Sys2Proof.Machine.execEpsFlagClear die bits s
  | .islandReset => Sys2Proof.Machine.execIslandReset s
  | .islandResetComplete => Sys2Proof.Machine.execIslandResetComplete s
  | .routeWrite k v => Sys2Proof.Machine.execRouteWrite k v s
  | .routeLaneChangeover k lane => Sys2Proof.Machine.execRouteLaneChangeover k lane s
  | .flitReceive port f => Sys2Proof.Machine.execFlitReceive port f s
  | .fabricTransaction f => Sys2Proof.Machine.execFabricTransaction f s
  | .laneSpare port lane => Sys2Proof.Machine.execLaneSpare port lane s
  | .portRetrain port => Sys2Proof.Machine.execPortRetrain port s
  | .bar2Write off data => Sys2Proof.Machine.execBar2Write off data s
  | .bar2Read off size => Sys2Proof.Machine.execBar2Read off size s
  | .controlRegisterWrite off v => Sys2Proof.Machine.execControlRegisterWrite off v s
  | .attestationReport => Sys2Proof.Machine.execAttestationReport s
  | .extendRegister => Sys2Proof.Machine.execExtendRegister s
  | .addContainerKey => Sys2Proof.Machine.execAddContainerKey s
  | .readCertificateChain => Sys2Proof.Machine.execReadCertificateChain s
  | .ideKeyExchange => Sys2Proof.Machine.execIdeKeyExchange s
  | .mailboxBadCommand cmd => Sys2Proof.Machine.execMailboxBadCommand cmd s
  | .mailboxRefusedClear => Sys2Proof.Machine.execMailboxRefusedClear s
  | .shutter alarm => Sys2Proof.Machine.execShutter alarm s
  | .throttleStepDown => Sys2Proof.Machine.execThrottleStepDown s
  | .throttleStepUp => Sys2Proof.Machine.execThrottleStepUp s
  | .moduleReset => Sys2Proof.Machine.execModuleReset s
  | .fetchaddCompletion id ok => Sys2Proof.Machine.execFetchaddCompletion id ok s
  | .sealReadComplete id r => Sys2Proof.Machine.execSealReadComplete id r s
  | .debuggerAttach ctx on => Sys2Proof.Machine.execDebuggerAttach ctx on s
  | .pcieConfigWrite fn reg v => Sys2Proof.Machine.execPcieConfigWrite fn reg v s
  | .vectorUnmask vec => Sys2Proof.Machine.execVectorUnmask vec s
  | .powerCapWrite w => Sys2Proof.Machine.execPowerCapWrite w s
  | .l2WayRepair die way => Sys2Proof.Machine.execL2WayRepair die way s

end Sys2Proof.Machine
end

