-- ==== Sys2Proof/Machine/Step.lean ====
section
/-!
DEFINITION. One step of the module: what comes next is picked, and the instruction or event that it names is executed.
-/

namespace Sys2Proof.Machine

/-- A step: the act at the head of the agenda, or what the module goes on with when the agenda is empty (R223, R224). DESIGN CHOICE, log entry 1. -/
def step (s : State) : Host.Outcome State Fault Refusal :=
  match s.pick with
  | .done s1 => .next s1
  | .run i s1 => exec i s1

/-- The page of the instruction that `withFetchWord` places: virtual `0x1_0000`, physical 0, executable. -/
def probePage : Page :=
  { va := 0x10000, pa := 0, size := 65536, w := true, x := true, kind := 0, plc := 0, die := 0, stk := 0, cgr := 0, fmt := 0, mset := 0 }

/-- A team of a twin kernel on cores 0 and 1 with every register and band of the widest allocation: one wave of 32 lanes, one group READY at the page's first
byte. -/
def probeTeam (id : Nat) : Team :=
  { id := id, ctx := 0, serial := 0, prio := 0, t := 0, xyz := (0, 0, 0), grid := (1, 1, 1), teamsz := 32, width := 32, alloc := 192, bandsN := 256
    scrSize := coreScr, twin := true, unpark := false
    waves := [{ idx := 0, half := 0, quad := 0, width := 32, active := fullMask 32
                lanes := List.replicate 32 { v := List.replicate 192 {} }
                slots := ({ mask := fullMask 32, pc := 0x10000, st := .ready, chooser := 0x10000 } : Group) :: List.replicate 71 {} }]
    halves := [{ core := 0, bands := List.replicate 256 {} }, { core := 1, bands := List.replicate 256 {} }] }

/-- The state in which the very next step fetches and runs the instruction of the given bits: its bytes stand in device memory, a translation of their page is held
by core 0, the home die answers, a team of context 0 stands at their address, and its group is the next to issue. DESIGN CHOICE, log entry 1. -/
def State.withFetchWord (s : State) (nbits w : Nat) : State :=
  { s with
    mem := Sparse.writeList s.mem 0 (leBytes 128 (w % 2 ^ nbits))
    poison := s.poison.filter (fun k => k != 0)
    eps := modNth s.eps 0 (fun e => { e with st := .active })
    cores := modNth s.cores 0 (fun c => { c with tlb := ⟨0, 1, .page probePage⟩ :: c.tlb })
    teams := probeTeam s.nextId :: s.teams
    nextId := s.nextId + 1
    agenda := .only { team := s.nextId, wave := 0, slot := 0 } false :: s.agenda }

end Sys2Proof.Machine
end

