-- ==== Sys2Proof/Machine/Registers.lean ====
section
/-!
DEFINITION. How the registers of BAR0 and the management status word read: the words that the fields of the state make (R331, R338, R339, R342, R352, R355).
-/

namespace Sys2Proof.Machine

/-- The code of an endpoint state (R338). -/
def DieState.code : DieState → Nat
  | .active => 0 | .quiescing => 1 | .orphaned => 2 | .dark => 3

/-- EPS *d* (R338). -/
def State.epsWord (s : State) (d : Nat) : Nat :=
  let e := s.ep d
  e.st.code + 4 * b2n (s.drained d) + 8 * b2n e.hang + 16 * b2n e.refused + 2 ^ 32 * e.drops

/-- ROUTE *m* (R339). -/
def State.routeWord (s : State) (m : Nat) : Nat :=
  let r := nth {} s.routes m
  r.ports + 2 ^ 32 * b2n r.valid + 2 ^ 33 * b2n r.pend

/-- PORT *p* (R342). -/
def State.portWord (s : State) (p : Nat) : Nat :=
  let x := s.port p
  b2n x.en + 2 * b2n x.up + 4 * x.width + 16 * b2n x.spared + 2 ^ 32 * x.retries

/-- ISL (R338): RESET reads 0. -/
def State.islWord (s : State) : Nat := 2 * b2n s.islRefused

/-- A 64-bit register of the Lighthouse region at an offset of BAR0 (R337, R338): zero during an island reset and under the Shutter's lock. -/
def State.lighthouseRead (s : State) (off : Nat) : Nat :=
  if s.islReset || s.mx.lock then 0
  else
    let o := off - 0x70000
    if o = 0 then s.mid % 256
    else if 0x10 ≤ o ∧ o < 0x30 then s.epsWord ((o - 0x10) / 8)
    else if 0x100 ≤ o ∧ o < 0x900 then s.routeWord ((o - 0x100) / 8)
    else if 0x1000 ≤ o ∧ o < 0x1100 then s.portWord ((o - 0x1000) / 8)
    else if o = 0x2000 then s.islWord
    else 0

/-- The mailbox control word (R352): CMD reads 0. -/
def State.mailboxWord (s : State) : Nat :=
  256 * b2n s.mx.cmd.isSome + 512 * b2n s.mx.refused + 2 ^ 32 * s.mx.status + 2 ^ 48 * s.mx.len

/-! ## The regions of BAR0 (R288, R295, R298, R331, R347) -/

/-- `n` bytes of firmware's majority pages, from the greatest tag of a majority; zero when none responds. -/
def State.firmRead (s : State) (pa n : Nat) : Nat :=
  if !s.firmOk pa then 0
  else s.copyData firmSet (s.newest firmSet pa (s.firmCopies pa)) pa / 256 ^ (pa % 128) % 256 ^ n

/-- Placement pools, tracked ranges, majority sets and BAR2 windows at region 0x4_0000 (R347). The places within the region are the model's. PRESUMED, log entry 53. -/
def State.poolsRead (s : State) (o : Nat) : Nat :=
  let words (i n : Nat) (l : List Nat) : Nat := if i % n < l.length then nth 0 l (i % n) else 0
  if o < 0x1000 then
    (match s.windows[o / 32]? with | some w => words (o / 8) 4 [w.lo, w.size, w.pa, w.mset.elim 0 (· + 1) + 2 ^ 16 * w.fn] | none => 0)
  else if o < 0x2000 then
    (match s.pools[(o - 0x1000) / 32]? with | some p => words (o / 8) 4 [p.lo, p.hi, p.plc + 4 * p.die + 16 * p.stk, 0] | none => 0)
  else if o < 0x4000 then nbits (nth 0 s.msets ((o - 0x2000) / 64)) (8 * ((o - 0x2000) % 64)) 64
  else match s.tracked[(o - 0x4000) / 32]? with | some t => words (o / 8) 4 [t.lo, t.hi, t.fmt, 0] | none => 0

/-- The error log, at 0x5_8000, and the intervals of region 0x5_0000 (R331, R347). PRESUMED, log entry 53. -/
def State.logRead (s : State) (o : Nat) : Nat :=
  if 0x8000 ≤ o then s.firmRead (errLogAt + (o - 0x8000)) 8
  else if o = 8 then s.scrubHours
  else if o = 0x10 then s.testHours
  else if o = 0x18 then s.cap
  else if o = 0x20 then s.corrLimit
  else if o = 0x28 then s.laneLimit
  else 0

/-- Is a queue or context visible to a function (R347)? The physical function sees all. -/
def State.sees (s : State) (fn c : Nat) : Bool := fn == 0 || ((s.ctx c).reg && (s.ctx c).fn == fn)

/-- An 8-byte read of a register of BAR0 by a function (R347): a virtual function sees its own queues and contexts, and zero elsewhere; under the Shutter's lock only the identity
region and the mailbox answer (R354). PRESUMED, log entry 53. -/
def State.bar0Read (s : State) (fn off : Nat) : Nat :=
  let o := off % 0x10000
  match off / 0x10000 with
  | 0 => if fn != 0 then 0 else if o = 0 then capClass + Config.stepping.toNat * 2 ^ 32 else if o = 8 then s.mid % 256 else 0
  | 1 => let q := o / 8; if s.mx.lock || q ≥ 256 || !s.sees fn (s.queue q).ctx then 0 else (s.queue q).addr
  | 2 =>
    let c := o / 8
    if s.mx.lock then 0
    else if c < 64 then (if s.sees fn c then (s.ctx c).addr else 0)
    else if c < 128 then (if s.sees fn (c - 64) then (s.ctx (c - 64)).fn else 0) else 0
  | 4 => if fn != 0 || s.mx.lock then 0 else s.poolsRead o
  | 5 => if fn != 0 || s.mx.lock then 0 else s.logRead o
  | 7 => if fn != 0 then 0 else s.lighthouseRead off
  | 8 => if fn != 0 then 0 else if o = 0 then s.mailboxWord else if 0x1000 ≤ o ∧ o < 0x3000 then s.mx.buf.nat (o - 0x1000) 8 else 0
  | _ => 0

/-- The management status word (R355): the throttle steps, the Shutter and its alarm, the clock, the hottest die and the power as the sensors show them. DESIGN CHOICE, log entry 68. -/
def State.statusWord (s : State) : Nat :=
  s.throttle % 128 + 128 * b2n s.mx.shut + 256 * s.mx.alrm + 2 ^ 30 * (s.clockMHz / 2) + 2 ^ 40 * s.senseTemps.foldl max 0 + 2 ^ 48 * s.sensePower

end Sys2Proof.Machine
end

