-- ==== Sys2Proof/Safety.lean ====
section
/-!
DEFINITION. What a safe run is: every step answers a next state, and the memories of the states on the way are canonical. The words in which statements speak of an
issue: the lane at a place, an issue that completes, an issue whose checks pass, and what an issue leaves alone.
-/

namespace Sys2Proof.Safety

open Sys2Proof.Machine

/-- The memories of a state are in canonical form: device memory, and the maps of tile directory entries, version tags and host bytes. -/
def Canonical (s : State) : Prop :=
  Memory.wf s.mem = true ∧ Sparse.wf s.dir = true ∧ Sparse.wf s.mtags = true ∧ Sparse.wf s.hostMem = true

/-- A step that answers a next state. -/
def Steps (s t : State) : Prop := step s = .next t

/-- The states that a run reaches from a state. -/
inductive Reaches (s : State) : State → Prop where
  | refl : Reaches s s
  | step {t u : State} : Reaches s t → Steps t u → Reaches s u

/-- A state is safe when every state that a run reaches from it is canonical and has a next state. -/
def Safe (s : State) : Prop := ∀ t, Reaches s t → Canonical t ∧ ∃ u, Steps t u

/-! ## Issues -/

/-- The registers of a lane of the wave at a place, or of the handler fragment's lane. -/
def laneAt (s : State) (l : Loc) (j : Nat) : Option Lane :=
  (s.wave? l.team l.wave).bind (fun w => if l.handler then (if j = 0 then w.handler.map (·.lane) else none) else w.lanes[j]?)

/-- The scalar registers of the wave at a place, or of its handler fragment. -/
def scalarsAt (s : State) (l : Loc) : Option (List Word) :=
  (s.wave? l.team l.wave).bind (fun w => if l.handler then w.handler.map (·.s) else some w.s)

/-- Do a lane's checks pass? -/
def passes : Chk → Bool
  | .ok _ => true
  | .fault .. => false
  | .wait _ => false

/-- The issuing group is not kept from issuing, the two datapaths agree (R227), none of its lanes faults on its path, and none exits. -/
def goes (s : State) (t : Tree) (e : Env) : Bool :=
  !s.disagree && (e.blocked t).isNone && (e.runs s.draw t).all (fun r => r.fault.isNone && r.succ.isSome)

/-- The accesses of the operations of a tree, one list for each. -/
def asked (s : State) (t : Tree) (e : Env) : List (List MAcc) := opAccesses t (s.checks e t)

/-- The state in which the class-M operations of an issue act: the free values drawn, and the earlier writes performed when a release-ordered atomic is among them. -/
def before (s : State) (t : Tree) (e : Env) : State := (s.drawn e).released e (asked s t e)

/-- The issuing group goes, its loads need not wait for an acquire-ordered atomic on another module, every check of its lanes passes, and it waits neither for queue room
nor for a miss-status entry nor for an answer. -/
def accepted (s : State) (t : Tree) (e : Env) : Bool :=
  goes s t e && !(treeLoads t && !(s.acqOpen e).isEmpty) && (s.checks e t).all (fun x => passes x.2) &&
    (s.issueWait (before s t e) e t (asked s t e)).isNone

/-- The state with the record of a disagreement of the two datapaths, when the group that issues had met one and now agrees (R227, R321, R331). -/
def noted (s : State) (e : Env) : State :=
  if e.g.retried then s.logError ⟨s.ns, 0, e.team.serial % 2 ^ 32, e.core, 4, 0, 1, 0, 0⟩ else s

/-- Apart from that record, nothing of the module differs but teams, cores, the counter of free values, and the failed host translations, which are used once (R126). -/
def IssueOnly (s : State) (e : Env) (t : State) : Prop :=
  t = { noted s e with teams := t.teams, cores := t.cores, draw := t.draw, ats := t.ats }

end Sys2Proof.Safety
end

