-- ==== Sys2Proof/Certificates/Slice0/Obligations.lean ====
section
/-!
DEFINITION. The statements about the module, from the numbered rules of the spec.
-/

namespace Sys2Proof.Claims

open Sys2Proof.Machine Sys2Proof.Safety

/-- The run of an instruction answers a next state of which something holds. -/
def Answers (i : Instr) (s : State) (p : State → Prop) : Prop := ∃ u, exec i s = .next u ∧ p u

/-- An instruction whose fields are those of a tree, with the row that its opcode and VAR name (R74), is issued by the group that is issuing, which is not kept from issuing, and none of whose lanes faults or exits. -/
def Goes (i : Instr) (t : Tree) (s : State) (e : Env) : Prop :=
  i.tree? = some t ∧ Instr.ofTree t = i ∧ s.issuing t = some e ∧ goes s t e = true

/-- Such an issue, where moreover every check of the lanes passes and every post has room (R75, R177). -/
def Accepted (i : Instr) (t : Tree) (s : State) (e : Env) : Prop :=
  i.tree? = some t ∧ Instr.ofTree t = i ∧ s.issuing t = some e ∧ accepted s t e = true

/-- The operations of a tree are of class A (R71). -/
def classAOps (t : Tree) : Bool := t.ops.all (fun o => decide (opClass o.opc.toNat = .A))

/-- The destination registers of the operations and leaves of a tree: the selectors of R70, with the return-address pair of a call (R84). -/
def dests (x : DecodeCtx) (t : Tree) : List Nat :=
  t.ops.flatMap (fun o => Tree.Item.dest x (.op o)) ++ t.leaves.flatMap (fun l => if l.kind = .call || l.kind = .callInd then [0xCE, 0xCF] else [])

/-- What a class-A operation of the issuing group reads besides its sources: `fmt`, the scratchpad and the codebooks. -/
def inputs (e : Env) (a b c d : Nat) : AIn := { a := a, b := b, c := c, d := d, fmt := e.g.fmt, scr := e.scr, scrSize := e.team.scrSize, cbs := e.half.cbs }

/-- A lane before its path. -/
def start (e : Env) (j : Nat) : LRun := { lane := j, l := e.lane j, sc := e.scalars }

/-- Of the teams, only the issuing wave and the `lds` results of its team may differ. -/
def TeamOnly (s u : State) (e : Env) : Prop :=
  (∀ t, t ≠ e.loc.team → u.team? t = s.team? t) ∧
  (∀ x, s.team? e.loc.team = some x → ∃ y, u.team? e.loc.team = some y ∧ y = { x with waves := y.waves, lds := y.lds }) ∧
  (∀ w, w ≠ e.loc.wave → u.wave? e.loc.team w = s.wave? e.loc.team w)

/-- Of the state of the module, only the issuing wave, the `lds` results of its team, the cores, the counter of free values and failed host translations may differ, apart
from the record of a disagreement that a retried issue makes. -/
def WaveOnly (s u : State) (e : Env) : Prop := IssueOnly s e u ∧ TeamOnly s u e

/-- As `WaveOnly`, and the transactions in flight may differ: no byte of any memory, no context, launch or queue. -/
def FlightOnly (s u : State) (e : Env) : Prop :=
  u = { noted s e with teams := u.teams, cores := u.cores, draw := u.draw, ats := u.ats, flights := u.flights, nextId := u.nextId } ∧ TeamOnly s u e

/-- The kind, space, size, data and destination with which a lane's access starts as a transaction (R127): loads, stores, atomics, `mcas` and the tile instructions. -/
def starts (k : Opcode) (m : MAcc) : Option (FKind × Space × Nat × Nat × Option Nat) :=
  let n := widthBytes m.q.p.v; let t := typeBytes m.q.p.v; let d := some m.q.p.d.toNat; let ret := if m.q.p.m.getLsbD 4 then d else none
  match k with
  | .ldt => some (.load, .twin, n, 0, d) | .ldg => some (.load, .global, n, 0, d) | .ldm => some (.load, .majority, n, 0, d)
  | .ldr => some (.load, .remote, n, 0, d) | .ldh => some (.load, .host, n, 0, d)
  | .stt => some (.store, .twin, n, m.q.c % 2 ^ (8 * n), none) | .stg => some (.store, .global, n, m.q.c % 2 ^ (8 * n), none)
  | .stm => some (.store, .majority, n, m.q.c % 2 ^ (8 * n), none) | .str => some (.store, .remote, n, m.q.c % 2 ^ (8 * n), none)
  | .sth => some (.store, .host, n, m.q.c % 2 ^ (8 * n), none)
  | .atmg => some (.atomic, .global, t, m.q.b % 2 ^ (8 * t), ret) | .atmr => some (.atomic, .remote, t, m.q.b % 2 ^ (8 * t), ret)
  | .mcas => some (.mcas, .majority, t, m.q.c % 2 ^ (8 * t), d)
  | .tfill => some (.tfill, .global, 8192, m.q.b, none) | .tcls => some (.tcls, .global, 8192, 0, d) | .tqry => some (.tqry, .global, 8192, 0, d)
  | _ => none

/-- The forms whose accesses all start as transactions: a store to plain device memory goes to the L1 instead, an acquire-ordered atomic is performed at once, and a
replayable launch stages what leaves the module. -/
def startsAll (s : State) (e : Env) (k : Opcode) (ms : List MAcc) : Bool :=
  match k with
  | .stg => ms.all (fun m => m.page.elim true (fun p => p.kind != 0))
  | .atmg => ms.all (fun m => !atomAcq m.q)
  | .str | .sth | .atmr => !s.replaying e.team.serial
  | _ => true

/-- Is the destination of an access 64 bits wide? -/
def wideDest (k : Opcode) (p : Payload) : Bool :=
  match k with
  | .atmg | .atmr => typeBytes p.v == 8
  | .mcas | .tcls | .tqry => true
  | _ => p.v == 5

/-- A lane whose destination is marked empty (R21). -/
def emptied (l : Lane) (d : Option Nat) (wide : Bool) : Lane :=
  match d with
  | some i => if wide then (l.setEmpty i).setEmpty (i + 1) else l.setEmpty i
  | none => l

/-- Of a wave, only its registers, scalars, slots, landing records, handler fragment and the cycle of its last issue may differ. -/
def WaveMoves (w v : Wave) : Prop :=
  v = { w with lanes := v.lanes, s := v.s, slots := v.slots, recs := v.recs, handler := v.handler, lastIssue := v.lastIssue }

/-- The exact value of an integer operation as D receives it (R47, R66): wrapped to the type, or with CLP clamped to its range first. -/
def written (p : Payload) (x : Int) : Nat :=
  let n := tyBits p.v
  let lo : Int := if tySigned p.v then -(2 ^ (n - 1)) else 0
  let hi : Int := if tySigned p.v then 2 ^ (n - 1) - 1 else 2 ^ n - 1
  ((if p.clp then max lo (min hi x) else x) % 2 ^ n).toNat

end Sys2Proof.Claims

open Sys2Proof Sys2Proof.Machine Sys2Proof.Safety Sys2Proof.Claims

/-! ## Steps, encoding, reset, memory -/

/-- R54, R98, R223: a group whose words at its fetch address decode to an instruction executes exactly that instruction. `v` is the state that the step makes of `s`
before it: the clock has moved, the act is taken from the agenda, `lds` results that are due are written, the group is named as the one that issues, and in checked
issue the act says whether the two datapaths will disagree (R227). The agenda of acts is log entry 1, the model's choice. -/
def Obligations.StepRunsDecodedInstruction : Prop :=
  ∀ (s : State) (l : Loc) (d : Bool) (r : List Act) (g : Group) (e : Env) (ps : List Word) (i : Instr),
    s.agenda = .only l d :: r → s.tick.group? l = some g → g.st = .ready →
    (({ s.tick with agenda := r } : State).ldsDue l.team).env? l [] = some e →
    (e.g.late = false ∨ l.handler = true) →
    (({ s.tick with agenda := r } : State).ldsDue l.team).fetch e.core e.team.ctx e.g.pc.toNat e.g.chooser.toNat = .code ps →
    decode e.dc ps = .instr i →
    let v := ({ s.tick with agenda := r } : State).ldsDue l.team
    step s = exec i { v with cur := some l, disagree := d && !(v.ctx e.team.ctx).unchecked }

/-- An event at the head of the agenda is executed; with an empty agenda and no READY group the step executes what something waits for (log entry 1, the model's choice). -/
def Obligations.StepRunsAgendaEvents : Prop :=
  (∀ (s : State) (i : Instr) (r : List Act), s.agenda = .ev i :: r → step s = exec i { s.tick with agenda := r, cur := none }) ∧
  (∀ (s : State) (i : Instr), s.agenda = [] → s.tick.firstQuad = none → s.tick.idleEvent = some i → step s = exec i { s.tick with cur := none }) ∧
  (∀ s : State, s.agenda = [] → s.tick.firstQuad = none → s.tick.idleEvent = none → step s = .next s.tick)

/-- R54: every word of an instruction is read at its address, in ascending order, and its four parcels are the 32-bit words of its bytes, least significant first
(R7). Of translated code a core reads the copy of its own die (R290). -/
def Obligations.FetchedParcelsAreBytes : Prop :=
  ∀ (s : State) (core c pc chooser : Nat) (p : Page),
    let a := s.codePa core (p.phys pc)
    pc % 16 = 0 → pc < 2 ^ 56 → s.fetchPage core c pc = .ok p → s.up p a = true → s.poisoned a 16 = false → p.kind = 0 →
    headWords (BitVec.ofNat 32 (Mem.nat s.mem a 4)) = 1 → isHead (BitVec.ofNat 32 (Mem.nat s.mem a 4)) = true →
    s.fetch core c pc chooser = .code ((List.range 4).map (fun i => BitVec.ofNat 32 (Mem.nat s.mem (a + 4 * i) 4)))

/-- R55, R57, R63, R68, R74: words written out bit by bit decode to the instructions they stand for: one of each family, with its head, operation and leaf words.
R75, R76: of words that are no instruction, one for each reason: LEN one too many, a nonzero header bit, an arc that does not exist, the unassigned opcode 0x00, a written D
of 0xD0, and a nonzero C of `add`, which has no source C. -/
def Obligations.DecodedWords : Prop :=
  (∀ x ∈ ([
    ([0b1_000_0000_0000000_0001_000_0_000000000, 0b0_00000010_00000000_0010001000_000_00, 0b0_0000_00000010_000_00000011_00000001, 0b0_001_0000_111111111111111111111110], .add ⟨0, false, ⟨.branch, 0, 16777214⟩, []⟩ ⟨0, 0, 0x03, 0x01, 0x02, 0x00, 0x88, false, false, false⟩),
    ([0b1_000_0000_0000000_0001_000_0_000000000, 0b0_00000010_00000100_1000000101_000_00, 0b0_0000_00100000_100_00000011_00000001, 0b0_000_0000_000000000000000000000000], .fma ⟨0, false, ⟨.next, 0, 0⟩, []⟩ ⟨0, 4, 0x03, 0x01, 0x02, 0x04, 0x205, false, false, false⟩),
    ([0b1_000_0000_0000000_0001_000_0_000000000, 0b0_00000010_00000000_1111111000_000_00, 0b0_0000_10000000_100_00000011_00000001, 0b0_000_0000_000000000000000000000000], .lds ⟨0, false, ⟨.next, 0, 0⟩, []⟩ ⟨0, 4, 0x03, 0x01, 0x02, 0x00, 0x3F8, false, false, false⟩),
    ([0b1_000_0000_0000000_0001_000_0_000000000, 0b0_00001010_00001100_1101110111_000_00, 0b0_0000_10001101_011_00001000_00000110, 0b0_000_0000_000000000000000000000000], .atmg ⟨0, false, ⟨.next, 0, 0⟩, []⟩ ⟨0, 3, 0x08, 0x06, 0x0A, 0x0C, 0x377, false, false, false⟩),
    ([0b1_000_0000_0000000_0001_000_0_000000000, 0b0_11100010_00110100_0000000101_000_00, 0b0_0000_11000001_000_00000000_11100000, 0b0_000_0000_000000000000000000000000], .mma ⟨0, false, ⟨.next, 0, 0⟩, []⟩ ⟨0, 0, 0x00, 0xE0, 0xE2, 0x34, 0x5, false, false, false⟩),
    ([0b1_000_0000_0000000_0001_000_0_000000000, 0b0_00000010_00000000_0000000000_000_00, 0b0_0000_10011100_000_00000000_00000001, 0b0_000_0000_000000000000000000000000], .barInit ⟨0, false, ⟨.next, 0, 0⟩, []⟩ ⟨0, 0, 0x00, 0x01, 0x02, 0x00, 0x0, false, false, false⟩),
    ([0b1_000_0000_0000000_0001_000_0_000000000, 0b0_00000000_00000111_0000000000_000_00, 0b0_0000_11100000_000_00000000_00000000, 0b0_000_0000_000000000000000000000000], .trap ⟨0, false, ⟨.next, 0, 0⟩, []⟩ ⟨0, 0, 0x00, 0x00, 0x00, 0x07, 0x0, false, false, false⟩),
    ([0b1_000_0000_0000000_0001_000_0_000000000, 0b0_00000000_00010000_0000000000_000_00, 0b0_0000_11100101_000_11100001_00000000, 0b0_000_0000_000000000000000000000000], .sread ⟨0, false, ⟨.next, 0, 0⟩, []⟩ ⟨0, 0, 0xE1, 0x00, 0x00, 0x10, 0x0, false, false, false⟩)] : List (List Word × Instr)), decode DecodeCtx.max x.1 = .instr x.2) ∧
  ∀ x ∈ ([
    ([0b1_001_0000_0000000_0001_000_0_000000000, 0b0_00000010_00000000_0010001000_000_00, 0b0_0000_00000010_000_00000011_00000001, 0b0_000_0000_000000000000000000000000], .shape),
    ([0b1_000_0000_0000000_0001_000_0_000000001, 0b0_00000010_00000000_0010001000_000_00, 0b0_0000_00000010_000_00000011_00000001, 0b0_000_0000_000000000000000000000000], .reserved),
    ([0b1_000_0000_0000000_0001_000_0_000000000, 0b0_00000010_00000000_0010001000_000_00, 0b0_1111_00000010_000_00000011_00000001, 0b0_000_0000_000000000000000000000000], .placement),
    ([0b1_000_0000_0000000_0001_000_0_000000000, 0b0_00000010_00000000_0010001000_000_00, 0b0_0000_00000000_000_00000011_00000001, 0b0_000_0000_000000000000000000000000], .unassigned),
    ([0b1_000_0000_0000000_0001_000_0_000000000, 0b0_00000010_00000000_0010001000_000_00, 0b0_0000_00000010_000_11010000_00000001, 0b0_000_0000_000000000000000000000000], .operand),
    ([0b1_000_0000_0000000_0001_000_0_000000000, 0b0_00000010_00000001_0010001000_000_00, 0b0_0000_00000010_000_00000011_00000001, 0b0_000_0000_000000000000000000000000], .variant)] : List (List Word × Reason)), decode DecodeCtx.max x.1 = .illegal x.2

/-- R55 to R70: decoding the words of a well-formed instruction gives it back, with every field at every value that the encoding admits. -/
def Obligations.DecodeOfEncode : Prop :=
  ∀ (x : DecodeCtx) (i : Instr) (t : Tree), i.wf x = true → i.tree? = some t → decode x (encode i) = .instr i

/-- R55 to R70: words that decode are the words of the instruction they decode to, which is well formed. -/
def Obligations.EncodeOfDecode : Prop :=
  ∀ (x : DecodeCtx) (h : Word) (r : List Word) (i : Instr), decode x (h :: r) = .instr i → 4 * headWords h ≤ (h :: r).length →
    i.wf x = true ∧ encode i = (h :: r).take (4 * headWords h)

/-! ## Class-A operations -/

/-- R77: after an issue of class-A operations each lane of the group holds the registers that its path left, and every other lane of the wave what it held; each scalar
register written takes the value of the lowest lane that wrote it (R26). -/
def Obligations.ClassALanesAndScalars : Prop :=
  ∀ (i : Instr) (t : Tree) (s : State) (e : Env), Goes i t s e → classAOps t = true →
    Answers i s (fun u =>
      (∀ j, laneAt u e.loc j = if j ∈ e.lanes then (laneAt s e.loc j).map (fun _ => (e.run s.draw t j).l) else laneAt s e.loc j) ∧
      scalarsAt u e.loc = (scalarsAt s e.loc).map (fun l => scalarsAfter (e.runs s.draw t) [] l))

/-- R71, R75, R77: the frame of class-A operations. No memory, context, launch, queue or register of another wave changes; in the wave only registers, scalars and its
groups. -/
def Obligations.ClassAFrame : Prop :=
  ∀ (i : Instr) (t : Tree) (s : State) (e : Env), Goes i t s e → classAOps t = true →
    Answers i s (fun u => WaveOnly s u e ∧
      ∀ w, s.wave? e.loc.team e.loc.wave = some w → ∃ v, u.wave? e.loc.team e.loc.wave = some v ∧ WaveMoves w v)

/-- R77, R21: a lane's path changes no register but the destinations of the tree's operations and leaves. The last-result file moves on with each class-A operation
(R25). -/
def Obligations.PathWritesDestinationsOnly : Prop :=
  ∀ (i : Instr) (t : Tree) (s : State) (e : Env), Goes i t s e → classAOps t = true →
    Answers i s (fun u => ∀ j l, laneAt s e.loc j = some l → ∃ m, laneAt u e.loc j = some m ∧
      m.v.length = l.v.length ∧ m.o.length = l.o.length ∧
      (∀ r, r < 0xC0 → r ∉ dests e.dc t → m.reg r = l.reg r) ∧ (∀ r, r < 16 → 0xC0 + r ∉ dests e.dc t → m.o[r]? = l.o[r]?) ∧
      (t.ops = [] → m.l0 = l.l0 ∧ m.l1 = l.l1))

/-- R21, R25, R77: the result of the one operation of a class-A row in a lane. D takes its low word, and the next register its high word when D is 64 bits wide; D becomes
full and loses any error mark; `l0` takes the low word and `l1` the former `l0`. -/
def Obligations.ClassAResult : Prop :=
  ∀ (i : Instr) (k : Opcode) (h : Head) (p : Payload) (s : State) (e : Env) (j a b c d v : Nat) (l : Lane),
    Goes i (Tree.one k h p) s e → opClass k.byte = .A → h.leaf.kind ≠ .call → h.leaf.kind ≠ .callInd →
    (p.d.toNat < 0xD0 ∨ 0xE0 ≤ p.d.toNat) → p.arc = 0 →
    j ∈ e.lanes → laneAt s e.loc j = some l → e.sources s.draw (start e j) k p = .ok (a, b, c, d) → classA k p (inputs e a b c d) = .ok v →
    Answers i s (fun u => ∃ m, laneAt u e.loc j = some m ∧ m.l0 = loWord v ∧ m.l1 = l.l0 ∧
      (p.d.toNat < l.v.length → p.d.toNat < 0xC0 → (dWide (k.shape e.dc p).d = true → p.d.toNat + 1 < l.v.length) →
        m.reg p.d.toNat = ⟨loWord v, false, 0⟩ ∧ (dWide (k.shape e.dc p).d = true → m.reg (p.d.toNat + 1) = ⟨hiWord v, false, 0⟩)) ∧
      (0xC0 ≤ p.d.toNat → p.d.toNat < 0xC0 + l.o.length → p.d.toNat < 0xD0 → (dWide (k.shape e.dc p).d = true → p.d.toNat + 1 < 0xC0 + l.o.length) →
        m.o[p.d.toNat - 0xC0]? = some (loWord v) ∧ (dWide (k.shape e.dc p).d = true → m.o[p.d.toNat - 0xBF]? = some (hiWord v))))

/-- R26: a class-A row with a scalar D writes the result of the lowest lane of the group, and no other scalar register. -/
def Obligations.ScalarTakesLowestLane : Prop :=
  ∀ (i : Instr) (k : Opcode) (h : Head) (p : Payload) (s : State) (e : Env) (j a b c d v : Nat) (l : List Word),
    Goes i (Tree.one k h p) s e → opClass k.byte = .A → 0xE0 ≤ p.d.toNat → p.arc = 0 → h.leaf.kind ≠ .call → h.leaf.kind ≠ .callInd →
    e.lanes.head? = some j → scalarsAt s e.loc = some l → l.length = 32 →
    e.sources s.draw (start e j) k p = .ok (a, b, c, d) → classA k p (inputs e a b c d) = .ok v →
    (dWide (k.shape e.dc p).d = true → p.d.toNat < 0xFF) →
    Answers i s (fun u => ∃ m, scalarsAt u e.loc = some m ∧ m[p.d.toNat - 0xE0]? = some (loWord v) ∧
      (dWide (k.shape e.dc p).d = true → m[p.d.toNat - 0xDF]? = some (hiWord v)) ∧
      ∀ r, r < 32 → r ≠ p.d.toNat - 0xE0 → (dWide (k.shape e.dc p).d = true → r ≠ p.d.toNat - 0xDF) → m[r]? = l[r]?)

/-- R47, R66, R100, R101: the integer operations compute exactly and wrap or clamp once; division truncates toward zero, and by zero, and of the least
signed value by −1, gives the values of R101.
R66: the modifiers of an integer source: the absolute value first, then the negation, each wrapping in the type. -/
def Obligations.IntegerOperations : Prop :=
  (∀ (p : Payload) (x : AIn), p.v < 4 →
      let A := srcA p x; let B := srcB p x; let C := srcC p x; let n := tyBits p.v
      classA .mov p x = .ok (written p A) ∧ classA .add p x = .ok (written p (A + B)) ∧ classA .sub p x = .ok (written p (A - B)) ∧
      classA .mul p x = .ok (written p (A * B)) ∧ classA .mad p x = .ok (written p (A * B + C)) ∧
      classA .mulhi p x = .ok (written p (A * B / 2 ^ n)) ∧
      classA .min p x = .ok (written p (if A ≤ B then A else B)) ∧ classA .max p x = .ok (written p (if A ≤ B then B else A)) ∧
      (B ≠ 0 → ¬(tySigned p.v = true ∧ A = -(2 ^ (n - 1)) ∧ B = -1) →
        classA .div p x = .ok (written p (A.tdiv B)) ∧ classA .rem p x = .ok (written p (A.tmod B))) ∧
      (tySigned p.v = true → A = -(2 ^ (n - 1)) → B = -1 → classA .div p x = .ok (2 ^ (n - 1)) ∧ classA .rem p x = .ok 0) ∧
      (B = 0 → classA .div p x = .ok (2 ^ n - 1) ∧ classA .rem p x = .ok (written p A)) ∧
      classA .addSat p x = .ok (written { p with m := p.m ||| 8 } (A + B)) ∧ classA .subSat p x = .ok (written { p with m := p.m ||| 8 } (A - B)) ∧
      classA .sel p x = .ok (written p (if x.c % 2 ^ 32 ≠ 0 then A else B))) ∧
  (∀ (p : Payload) (x : AIn), tySigned p.v = true →
      let n := tyBits p.v; let A := toSigned n x.a
      (p.aa = false → p.na = false → srcA p x = A) ∧
      (p.aa = true → p.na = false → srcA p x = if A = -(2 ^ (n - 1)) then A else if A < 0 then -A else A) ∧
      (p.aa = false → p.na = true → srcA p x = if A = -(2 ^ (n - 1)) then A else -A) ∧
      (p.aa = true → p.na = true → srcA p x = if A < 0 then A else -A))

/-- R102: the bit operations, bit by bit, in the width of the type: logic, shifts with every count, rotation, fields and reversal.
R102: the counts: `popc` counts set bits, `clz` the zeros above the highest set bit, `ctz` those below the lowest; 0 has n of them.
R102: the fields of `bfe` and `bfi`, bit by bit.
R102: a legal bit operation has no modifier, SCL or CLP bit, and VAR 1 or 3 but for the shifts and `bfe`. -/
def Obligations.BitOperations : Prop :=
  (∀ (p : Payload) (x : AIn) (i : Nat), p.v < 4 → i < tyBits p.v →
      let n := tyBits p.v; let a := x.a.testBit; let b := x.b.testBit; let k := x.b % 2 ^ 32
      let bit (o : Opcode) (v : Bool) : Prop := ∃ d, classA o p x = .ok d ∧ d < 2 ^ n ∧ d.testBit i = v
      bit .and (a i && b i) ∧ bit .or (a i || b i) ∧ bit .xor (a i != b i) ∧ bit .andn (a i && !b i) ∧ bit .not (!a i) ∧
      bit .shl (decide (k ≤ i) && a (i - k)) ∧
      bit .shr (if i + k < n then a (i + k) else tySigned p.v && a (n - 1)) ∧
      bit .rot (a ((i + (n - k % n)) % n)) ∧ bit .brev (a (n - 1 - i))) ∧
  (∀ (p : Payload) (x : AIn), p.v < 4 →
      let n := tyBits p.v; let a := x.a % 2 ^ tyBits p.v
      (∃ d, classA .popc p x = .ok d ∧ d = ((List.range n).filter (fun i => a.testBit i)).length) ∧
      (∃ d, classA .clz p x = .ok d ∧ d ≤ n ∧ a < 2 ^ (n - d) ∧ (d < n → a.testBit (n - 1 - d) = true)) ∧
      (∃ d, classA .ctz p x = .ok d ∧ d ≤ n ∧ (∀ i, i < d → a.testBit i = false) ∧ (d < n → a.testBit d = true))) ∧
  (∀ (p : Payload) (x : AIn), p.v < 4 → ∀ i, i < tyBits p.v →
      let n := tyBits p.v; let pos := min (nbits x.b 0 8) n; let len := min (nbits x.b 8 8) (n - pos)
      let pos' := min (nbits x.c 0 8) n; let len' := min (nbits x.c 8 8) (n - pos')
      (∃ d, classA .bfe p x = .ok d ∧ d < 2 ^ n ∧
        d.testBit i = if i < len then x.a.testBit (pos + i) else tySigned p.v && decide (0 < len) && x.a.testBit (pos + len - 1)) ∧
      (∃ d, classA .bfi p x = .ok d ∧ d < 2 ^ n ∧ d.testBit i = if pos' ≤ i ∧ i < pos' + len' then x.b.testBit (i - pos') else x.a.testBit i)) ∧
  (∀ (x : DecodeCtx) (k : Opcode) (h : Head) (p : Payload),
      k ∈ [Opcode.and, .or, .xor, .andn, .not, .shl, .shr, .rot, .bfe, .bfi, .popc, .clz, .ctz, .brev] → (Tree.one k h p).illegal? x = none →
      p.m = 0 ∧ p.v < 4 ∧ (k ∈ [Opcode.shl, .shr, .bfe] ∨ p.v = 1 ∨ p.v = 3))

/-- R100, R66: `lea` and `prmt`. The modifiers of B act in 32 bits when it is signed: the absolute value, then the negation, each wrapping. -/
def Obligations.AddressAndByteResults : Prop :=
  ∀ (p : Payload) (x : AIn),
    ((p.v = 2 ∨ p.v = 3) → p.clp = false → p.na = false → p.aa = false → p.c.toNat < 8 →
      let b := toSigned 32 x.b
      let m : Int := if p.ab = true ∧ b < 0 then -b else b
      let n : Int := if p.nb = true then -m else m
      classA .lea p x = .ok (((x.a : Int) + (if p.v = 2 then toSigned 32 (n % 2 ^ 32).toNat else x.b % 2 ^ 32) * 2 ^ p.c.toNat) % 2 ^ 64).toNat) ∧
    (∃ d, classA .prmt p x = .ok d ∧ d < 2 ^ 32 ∧ ∀ i, i < 4 →
      let k := nbits x.c (4 * i) 4; let v := nbits (x.a % 2 ^ 32 + x.b % 2 ^ 32 * 2 ^ 32) (8 * (k % 8)) 8
      nbits d (8 * i) 8 = if k < 8 then v else if v.testBit 7 then 255 else 0)

/-- R43: the rounding modes. A quotient by a power of two rounds to a nearest integer, the even one at a tie, toward zero, up or down. -/
def Obligations.RoundingModes : Prop :=
  ∀ (neg : Bool) (n k : Nat),
    let e : Int := (n : Int); let q : RMode → Int := fun m => roundShift m neg n k
    (2 * (q .rne * 2 ^ k - e) ≤ 2 ^ k ∧ 2 * (e - q .rne * 2 ^ k) ≤ 2 ^ k) ∧
    ((2 * (q .rne * 2 ^ k - e) = 2 ^ k ∨ 2 * (e - q .rne * 2 ^ k) = 2 ^ k) → q .rne % 2 = 0) ∧
    (q .rtz * 2 ^ k ≤ e ∧ e < (q .rtz + 1) * 2 ^ k) ∧
    (neg = false → (e ≤ q .rup * 2 ^ k ∧ (q .rup - 1) * 2 ^ k < e) ∧ q .rdn = q .rtz) ∧
    (neg = true → (e ≤ q .rdn * 2 ^ k ∧ (q .rdn - 1) * 2 ^ k < e) ∧ q .rup = q .rtz)

/-- R44, R46, R66: special values of the FP32 and FP64 arithmetic. A NaN source gives the canonical NaN, which CLP turns into +0; infinities of unlike signs sum to it and
signal invalid, and a nonzero finite value divided by zero gives an infinity and signals division by zero: under FTE either is cause 0x16. -/
def Obligations.FloatSpecialValues : Prop :=
  ∀ (p : Payload) (x : AIn) (f : FFmt), (p.v = 4 ∧ f = .f32 ∨ p.v = 5 ∧ f = .f64) → p.na = false → p.aa = false → p.nb = false → p.ab = false →
    let fm := Fmt.of x.fmt; let a := f.read (x.a % 2 ^ f.bits); let b := f.read (x.b % 2 ^ f.bits)
    let out (k : Opcode) (r : Nat) : Prop := classA k p x = .ok r
    ((a = .nan ∨ b = .nan) → ∀ k, k = .add ∨ k = .sub ∨ k = .mul ∨ k = .div → out k (if p.clp then 0 else f.nanCode)) ∧
    (a = .inf false → b = .inf true → classA .add p x = if fm.fte then .fault 0x16 0 else .ok (if p.clp then 0 else f.nanCode)) ∧
    (∀ n m g s, a = .fin n m g → m ≠ 0 → fm.ftz = false → b = .fin s 0 (1 - (f.bias : Int) - f.mb) → p.clp = false →
      classA .div p x = if fm.fte then .fault 0x16 0 else .ok (f.withSign (n != s) f.infCode))

/-- R106, R48: FP32 to INT32 by `cvt`: the value rounds in the mode that VAR names and is limited to the range; NaN gives 0. Outside the range, and for NaN, invalid is
signalled. -/
def Obligations.ConversionToInteger : Prop :=
  ∀ (p : Payload) (x : AIn), p.c = 0xA0 → p.b = 0 → p.na = false → p.aa = false → p.scl = 0 →
    let fm := Fmt.of x.fmt; let v := FFmt.f32.readZ fm.ftz (x.a % 2 ^ 32); let i := v.toInt (cvtMode fm p.v)
    let bad (r : Nat) : Prop := classA .cvt p x = if fm.fte then .fault 0x16 0 else .ok r
    (v = .nan → bad 0) ∧ (v = .inf false → bad 0x7FFFFFFF) ∧ (v = .inf true → bad 0x80000000) ∧
    (∀ s m g, v = .fin s m g → (2 ^ 31 ≤ i → bad 0x7FFFFFFF) ∧ (i < -(2 ^ 31) → bad 0x80000000) ∧
      (-(2 ^ 31) ≤ i → i < 2 ^ 31 → classA .cvt p x = .ok (i % 2 ^ 32).toNat))

namespace Sys2Proof.Claims

/-- Record `i` of the node block at B, of 16 bytes (R117). -/
def nodeRec (x : AIn) (i : Nat) : Nat := x.scr.nat (x.b % 2 ^ 32 + 16 * i) 16

/-- Is the record aligned and within the allocation (R105)? -/
def nodeIn (x : AIn) (i : Nat) : Prop := x.b % 16 = 0 ∧ x.b % 2 ^ 32 + 16 * i + 16 ≤ x.scrSize

/-- The state that a descent leaves at a node: a leaf is marked in bit 31 (R118). -/
def nodeState (x : AIn) (i : Nat) : Nat := if nbit (nodeRec x i) 17 then 2 ^ 31 + i else i

/-- Does a lane whose feature word is `w` go left at a node (R118)? -/
def nodeLeft (x : AIn) (r w : Nat) : Bool :=
  let f (n : Nat) : Machine.Num := FFmt.f32.readZ (Fmt.of x.fmt).ftz n
  if nbit r 18 then (if w = 0xFFFF then !nbit r 16 else decide (w < nbits r 32 32)) else (if (f w).isNan then !nbit r 16 else (f w).lt (f (nbits r 32 32)))

end Sys2Proof.Claims

/-- R105, R114 to R119: the front stage and the descent. A table or record that is not aligned or reaches beyond the allocation is cause 0x06; `fbin` counts the boundaries
that are at most A, and is 0xFFFF for NaN; `node` reads the word of the node's feature and goes left or right, one level for each k, a finished descent stays, and a node
number with bits in [30:12] is cause 0x14; `lacc` adds a leaf's value and rounds once, and keeps its sum bit for bit before a leaf; `fcross` crosses two bins modulo T.
That a `fcross` with CLP is no legal instruction is log entry 88, the model's choice; a feature's address is stated where C + 4 × FEAT does not pass 2^32 (log entry 102), and `fbin` of NaN
where its table can be read (log entry 101). -/
def Obligations.ForestResults : Prop :=
  ∀ (p : Payload) (x : AIn),
    let fm := Fmt.of x.fmt; let b := x.b % 2 ^ 32; let i := x.a % 4096; let f (n : Nat) : Machine.Num := FFmt.f32.readZ fm.ftz n
    classA .fcross p x = .ok (if x.a % 2 ^ 32 = 0xFFFF ∨ x.b % 2 ^ 32 = 0xFFFF ∨ nbits x.c 16 16 = 0 then 0xFFFF
      else (x.a % 2 ^ 32 * nbits x.c 0 16 + x.b % 2 ^ 32) % nbits x.c 16 16) ∧
    (∀ (y : DecodeCtx) (h : Head), (Tree.one .fcross h p).illegal? y = none → Opcode.fcross.byte = 0x42 ∧ p.v = 1 ∧ p.m = 0) ∧
    (nbit x.a 31 = true → classA .node p x = .ok (x.a % 2 ^ 32)) ∧
    (nbit x.a 31 = false → nbits x.a 12 19 ≠ 0 → classA .node p x = .fault 0x14 0) ∧
    (nbit x.a 31 = false → nbits x.a 12 19 = 0 →
      (x.b % 16 ≠ 0 → classA .node p x = .fault 6 (b + 16 * i)) ∧
      (x.b % 16 = 0 → x.scrSize < b + 16 * i + 16 → classA .node p x = .fault 6 (max (b + 16 * i) x.scrSize)) ∧
      (nodeIn x i → nbit (nodeRec x i) 17 = true → classA .node p x = .ok (2 ^ 31 + i)) ∧
      (nodeIn x i → nbit (nodeRec x i) 17 = false →
        let r := nodeRec x i; let a := x.c % 2 ^ 32 + 4 * nbits r 0 16; let j := if nodeLeft x r (x.scr.nat a 4) then nbits r 64 12 else nbits r 76 12
        a % 4 = 0 → a + 4 ≤ x.scrSize → a < 2 ^ 32 →
        (p.v = 0 → nodeIn x j → classA .node p x = .ok (nodeState x j)) ∧
        ∀ q : Payload, q.v + 1 = p.v → classA .node p x = classA .node q { x with a := j })) ∧
    (nbits x.c 12 19 ≠ 0 → classA .lacc p x = .fault 0x14 0) ∧
    (nbit x.c 31 = false → nbits x.c 12 19 = 0 → classA .lacc p x = .ok (x.a % 2 ^ 32)) ∧
    (nbit x.c 31 = true → nbits x.c 12 19 = 0 →
      (nodeIn x (x.c % 4096) → fm.fte = false →
        classA .lacc p x = .ok (outF .f32 p fm (Machine.Num.add fm.rm (srcF32 p x) (f (nbits (nodeRec x (x.c % 4096)) 32 32))).1 {}).1) ∧
      (x.b % 16 ≠ 0 → classA .lacc p x = .fault 6 (b + 16 * (x.c % 4096)))) ∧
    (x.b % 4 ≠ 0 → classA .fbin p x = .fault 6 b) ∧
    (x.b % 4 = 0 → x.scrSize < b + 4 * (p.c.toNat + 1) → ∃ a, x.scrSize ≤ a ∧ a < b + 4 * (p.c.toNat + 1) ∧ classA .fbin p x = .fault 6 a) ∧
    (x.b % 4 = 0 → b + 4 * (p.c.toNat + 1) ≤ x.scrSize →
      (srcF32 p x = .nan → classA .fbin p x = .ok 0xFFFF) ∧
      (srcF32 p x ≠ .nan → classA .fbin p x = .ok ((List.range (p.c.toNat + 1)).filter (fun n => (f (x.scr.nat (b + 4 * n) 4)).le (srcF32 p x))).length)) ∧
    (x.b % 16 ≠ 0 → classA .fscale p x = .fault 6 b) ∧
    (x.b % 16 = 0 → x.scrSize < b + 16 → classA .fscale p x = .fault 6 (max b x.scrSize))

/-! ## Class-M operations -/

/-- R122, R123, R128: the addresses of loads and stores. Every access of an accepted issue lies at A + B + IMM, sign-extended, in 32 bits for the scratchpads and in 64 bits
elsewhere; it is aligned to its size, and in a scratchpad it lies inside the team's allocation. -/
def Obligations.AccessAddresses : Prop :=
  ∀ (i : Instr) (k : Opcode) (h : Head) (p : Payload) (s : State) (e : Env) (ms : List MAcc) (m : MAcc),
    Accepted i (Tree.one k h p) s e → asked s (Tree.one k h p) e = [ms] → m ∈ ms →
    ((k = .lds ∨ k = .sts ∨ k = .ldt ∨ k = .stt) →
      (m.va : Int) = ((m.q.a : Int) + toSigned 32 m.q.b + toSigned 10 p.m.toNat) % 2 ^ 32 ∧ m.va % widthBytes p.v = 0 ∧ m.va + widthBytes p.v ≤ e.team.scrSize) ∧
    ((k = .ldg ∨ k = .stg ∨ k = .ldm ∨ k = .stm ∨ k = .ldr ∨ k = .str ∨ k = .ldh ∨ k = .sth) →
      (m.va : Int) = ((m.q.a : Int) + toSigned 32 m.q.b + toSigned 10 p.m.toNat) % 2 ^ 64 ∧ m.va % widthBytes p.v = 0) ∧
    ((k = .atms ∨ k = .atmg ∨ k = .atmr ∨ k = .mcas) → m.va = m.q.a ∧ m.va % typeBytes p.v = 0)

/-- R127: the accesses of a load, store, atomic, `mcas` or tile instruction start as transactions, one for each lane in ascending order, and destinations are marked empty
(R21). Nothing else of the module changes: no byte of memory but those of the wave's earlier writes where a release-ordered atomic is among the operations, which the model performs
at once (log entry 19, the model's reading). -/
def Obligations.TransactionsStart : Prop :=
  ∀ (i : Instr) (k : Opcode) (h : Head) (p : Payload) (s : State) (e : Env) (ms : List MAcc),
    Accepted i (Tree.one k h p) s e → asked s (Tree.one k h p) e = [ms] → (∀ m ∈ ms, (starts k m).isSome = true) → startsAll s e k ms = true →
    h.leaf.kind ≠ .call → h.leaf.kind ≠ .callInd →
    Answers i s (fun u => FlightOnly (before s (Tree.one k h p) e) u e ∧
      (∃ l, u.flights = (before s (Tree.one k h p) e).flights ++ l ∧ l.length = ms.length ∧
        ∀ (n : Nat) (f : Flight) (m : MAcc), l[n]? = some f → ms[n]? = some m →
          starts k m = some (f.kind, f.space, f.size, f.data, f.dest) ∧ f.id = (before s (Tree.one k h p) e).nextId + n ∧
          f.team = e.loc.team ∧ f.wave = e.loc.wave ∧ f.lane = m.lane ∧ f.fromHandler = e.loc.handler ∧ f.va = m.va ∧ f.pa = m.pa ∧ f.page = m.page ∧
          f.fixed = none ∧ f.sent = false ∧ (f.dest.isSome = true → f.wide = wideDest k p)) ∧
      (∀ j, laneAt u e.loc j = (laneAt (before s (Tree.one k h p) e) e.loc j).map (fun l =>
        match ms.find? (fun m => m.lane == j) with
        | some m => emptied l ((starts k m).bind (fun x => x.2.2.2.2)) (wideDest k p)
        | none => l)) ∧
      scalarsAt u e.loc = scalarsAt s e.loc)

namespace Sys2Proof.Claims

/-- A main register of a lane of a wave. -/
def regAt (s : State) (t w lane r : Nat) : Option VReg := ((s.wave? t w).bind (fun x => x.lanes[lane]?)).bind (fun l => l.v[r]?)

/-- Has the quadrant of a wave come to an issue cycle, or do its cycles pass because none of its groups is READY? -/
def comesTo (s : State) (t w till : Nat) : Bool :=
  match s.team? t, s.wave? t w with
  | some x, some y => decide (till ≤ s.cycOf x y) || (x.resident && s.quadIdle (x.coreOf y) y.quad)
  | _, _ => false

/-- The value that an `lds` of a lane loads (R122, R128): the bytes that its wave sees, extended by the sign for the signed widths. -/
def ldsValue (e : Env) (m : MAcc) : Nat :=
  let n := widthBytes m.q.p.v; let v := Mem.nat e.scr m.pa n
  if widthSigned m.q.p.v then (toSigned (8 * n) v % 2 ^ 32).toNat else v

/-- Is a transaction the only one: no other of its number, none that must be performed before it, no order of released writes that it waits for? -/
def alone (s : State) (f : Flight) : Bool := s.flights.all (fun g => g == f || (g.id != f.id && !f.after g && !s.across f g)) && (s.flights.filter (fun g => g == f)).length == 1 && !s.heldBack f

/-- Is a byte one of firmware's majority pages, which hold the error log and the Logbook (log entry 83, the model's choice)? -/
def firmByte (a : Nat) : Bool := (List.range 3).any (fun i => decide (copyAddr firmSet i firmBase ≤ a ∧ a < copyAddr firmSet i firmBase + 0x50000))

/-- Does an issue leave a byte to its own stores: only the record that a reissued instruction makes after a disagreement is written besides them (R227, R331)? -/
def ownByte (e : Env) (a : Nat) : Bool := !e.g.retried || !firmByte a

/-- Does a write at an address keep within the writable set of its launch, where that is replayable (R271)? One outside it makes the launch non-replayable first. -/
def inSet (s : State) (serial a : Nat) : Bool :=
  match s.launch? serial with | some l => !l.replaying || l.marked.any (fun (b, z) => decide (b ≤ a ∧ a < b + z)) | none => true

end Sys2Proof.Claims

/-- R128, R34: `lds`. Eight issue cycles after issue the destination is to take the loaded value in every lane, or for a scalar that of the lowest lane (R26); no register
changes at issue, and no byte of any memory.
R128: LDS_WRITEBACK. When the quadrant has come to the cycle, each lane's main register takes its value and is full; the result no longer waits, and an older result for the
same register is written before it (R23). -/
def Obligations.ScratchpadLoads : Prop :=
  (∀ (i : Instr) (h : Head) (p : Payload) (s : State) (e : Env) (m0 : MAcc) (r : List MAcc),
      Accepted i (Tree.one .lds h p) s e → asked s (Tree.one .lds h p) e = [m0 :: r] → h.leaf.kind ≠ .call → h.leaf.kind ≠ .callInd →
      Answers i s (fun u =>
        u = { noted s e with teams := u.teams, cores := u.cores, draw := u.draw, ats := u.ats, nextId := u.nextId } ∧ TeamOnly s u e ∧
        (∀ j, laneAt u e.loc j = laneAt s e.loc j) ∧ scalarsAt u e.loc = scalarsAt s e.loc ∧
        ∀ x, s.team? e.loc.team = some x → (∀ q ∈ x.lds, q.id < s.nextId) → ∃ y l, u.team? e.loc.team = some y ∧ y.lds = x.lds ++ l ∧
          l.length = (if p.v = 5 then 2 else 1) ∧ (∀ q ∈ l, q.wave = e.loc.wave ∧ q.fromHandler = e.loc.handler ∧ q.due = e.cyc + 8) ∧
          ∀ n q, l[n]? = some q → q.dest = p.d.toNat + n ∧
            q.vals = (if p.d.toNat ≥ 0xE0 then [m0] else m0 :: r).map (fun m => (m.lane, if n = 0 then loWord (ldsValue e m) else hiWord (ldsValue e m))))) ∧
  (∀ (s : State) (t id : Nat) (x : Team) (o : List LdsPend) (q : LdsPend) (y : Wave),
      s.team? t = some x → x.ldsUpTo id = o ++ [q] → q.id = id → q.fromHandler = false → q.dest < 0xC0 → x.waves[q.wave]? = some y →
      comesTo s t q.wave q.due = true → (q.vals.map Prod.fst).Nodup →
      Answers (.ldsWriteback t id) s (fun u =>
        (∀ j v, (j, v) ∈ q.vals → (regAt s t q.wave j q.dest).isSome = true → regAt u t q.wave j q.dest = some ⟨v, false, 0⟩) ∧
        (∀ j k, (k ≠ q.dest ∨ ∀ a ∈ o ++ [q], ∀ v, (j, v) ∉ a.vals) → regAt u t q.wave j k = regAt s t q.wave j k) ∧
        (∃ z, u.team? t = some z ∧ z.lds = x.lds.filter (fun p => !(o ++ [q]).any (fun a => a.id == p.id && a.dest == p.dest))) ∧
        u = { s with teams := u.teams, cores := u.cores }))

/-- R125, R128, R243: `sts`. The stores of an issue stand behind the earlier ones of their wave, in ascending lane order; the wave sees them, and no byte of the scratchpad
changes yet.
R291: `stg` to plain device memory. The stored bytes stand in the core's L1, which has room for their lines, valid and dirty, where no later lane of the issue stores over
them. -/
def Obligations.StoresAtIssue : Prop :=
  (∀ (i : Instr) (h : Head) (p : Payload) (s : State) (e : Env) (ms : List MAcc),
      Accepted i (Tree.one .sts h p) s e → asked s (Tree.one .sts h p) e = [ms] → h.leaf.kind ≠ .call → h.leaf.kind ≠ .callInd →
      Answers i s (fun u => WaveOnly s u e ∧ (∀ j, laneAt u e.loc j = laneAt s e.loc j) ∧
        ∀ w, s.wave? e.loc.team e.loc.wave = some w → ∃ v, u.wave? e.loc.team e.loc.wave = some v ∧
          v.sbuf = w.sbuf ++ ms.map (fun m => ⟨w.half, m.pa, leBytes (widthBytes p.v) (m.q.c % 2 ^ (8 * widthBytes p.v))⟩))) ∧
  (∀ (i : Instr) (h : Head) (p : Payload) (s : State) (e : Env) (ms : List MAcc) (n : Nat) (m : MAcc),
      Accepted i (Tree.one .stg h p) s e → asked s (Tree.one .stg h p) e = [ms] → (∀ x ∈ ms, x.page.elim false (fun q => q.kind == 0) = true) →
      (∀ x ∈ ms, x.pa % widthBytes p.v = 0) → e.core < s.cores.length → (s.core e.core).l1.length + ms.length ≤ l1Lines →
      (∀ x ∈ ms, inSet s e.team.serial x.pa = true) → ms[n]? = some m →
      (∀ n' m', n < n' → ms[n']? = some m' → m'.pa ≠ m.pa) → (∀ g ∈ s.flights, g.team ≠ e.loc.team ∨ g.wave ≠ e.loc.wave) →
      Answers i s (fun u =>
        let l := (u.core e.core).line (lineOf m.pa); let k := widthBytes p.v
        l.hits (m.pa % 128) k = true ∧ l.dirty &&& byteMask (m.pa % 128) k = byteMask (m.pa % 128) k ∧ l.bytes (m.pa % 128) k = m.q.c % 2 ^ (8 * k) ∧
        l.ctx = e.team.ctx ∧ l.serial = e.team.serial))

/-- R21, R122, R127: LOAD_DATA_ARRIVAL. An answer fills its destination: the value, sign-extended where the load says so, or an error mark; the register is full. A load of
plain device memory that its core's L1 does not hold reads the bytes at their home, little-endian, and the line enters the L1 (R291).
R139, R305: SRED_PERFORM. The lines of the range leave the core's L1, the range of words is reduced, and D is filled with the result.
That a register which receives an error mark keeps its old value is log entry 32, the model's reading: R127 does not say what it holds. -/
def Obligations.DataArrives : Prop :=
  (∀ (s : State) (f : Flight) (d : Nat) (x : VReg),
      alone s f = true → f.dest = some d → f.wide = false → f.fromHandler = false → d < 0xC0 → regAt s f.team f.wave f.lane d = some x →
      s.waitsTeam f = false →
      (∀ v, f.fixed = some v → f.mark = 0 →
        Answers (.loadDataArrival f.id {}) s (fun u => regAt u f.team f.wave f.lane d = some ⟨loWord (f.value v), false, 0⟩ ∧ u.flight? f.id = none ∧ u.mem = s.mem)) ∧
      (∀ v, f.fixed = some v → f.mark ≠ 0 → f.mark < 256 →
        Answers (.loadDataArrival f.id {}) s (fun u => regAt u f.team f.wave f.lane d = some { x with empty := false, mark := BitVec.ofNat 8 f.mark } ∧
          u.flight? f.id = none ∧ u.mem = s.mem)) ∧
      (∀ p, f.fixed = none → f.sent = false → f.kind = .load → f.space = .global → f.page = some p → p.kind = 0 → ((s.core f.core).line (lineOf f.pa)).valid = 0 →
        s.up p f.pa = true → s.poisoned f.pa f.size = false → f.pa % 128 + f.size ≤ 128 → 0 < f.size → f.core < s.cores.length → f.mark = 0 →
        (s.core f.core).l1.length < l1Lines →
        Answers (.loadDataArrival f.id {}) s (fun u =>
          regAt u f.team f.wave f.lane d = some ⟨loWord (f.value (Mem.nat s.mem f.pa f.size)), false, 0⟩ ∧ u.flight? f.id = none ∧ u.mem = s.mem ∧
          ((u.core f.core).line (lineOf f.pa)).hits (f.pa % 128) f.size = true))) ∧
  (∀ (s : State) (f : Flight) (d : Nat) (x : VReg) (p : Page),
      let v := s.evictRange f.core f.pa (4 * f.cmp)
      alone s f = true → f.dest = some d → f.wide = false → f.sext = false → f.fromHandler = false → d < 0xC0 → v.flight? f.id = some f →
      regAt v f.team f.wave f.lane d = some x → v.waitsTeam f = false →
      f.kind = .sred → f.space = .global → f.page = some p → f.fixed = none → f.sent = false → f.mark = 0 → v.up p f.pa = true → v.poisoned f.pa (4 * f.cmp) = false →
      Answers (.sredPerform f.id) s (fun u =>
        regAt u f.team f.wave f.lane d = some ⟨loWord (sredOp f.ty f.op ((List.range f.cmp).map (fun i => Mem.nat v.mem (f.pa + 4 * i) 4))), false, 0⟩ ∧
        u = { v with teams := u.teams, flights := v.flights.filter (fun g => g.id != f.id) }))

/-- R56, R215: STALL_EXPIRY and YIELD_EXPIRY. When the quadrant has come to the end of a group's count the group is READY; before that nothing changes.
R126, R277: PAGE_WALK_COMPLETE. The walk of the page stands in the core's TLB, and a group that waited for this page alone is READY again. -/
def Obligations.WaitsEnd : Prop :=
  (∀ (s : State) (t w slot till : Nat) (g : Group),
      s.group? (locOf t w slot) = some g →
      (g.st = .stalled → g.wait = .stall till →
        (comesTo s t w till = true → Answers (.stallExpiry t w slot) s (fun u => u = { s with teams := u.teams, cores := u.cores } ∧
          (∃ c, u.group? (locOf t w slot) = some { g with st := .ready, wait := .none, since := c }) ∧
          ∀ l, l ≠ locOf t w slot → l.handler = false → slot < 72 → u.group? l = s.group? l)) ∧
        (comesTo s t w till = false → Answers (.stallExpiry t w slot) s (fun u => u = s))) ∧
      (g.yieldTill = till → till ≠ 0 →
        (comesTo s t w till = true → Answers (.yieldExpiry t w slot) s (fun u => u = { s with teams := u.teams, cores := u.cores } ∧
          u.group? (locOf t w slot) = some { g with yieldTill := 0 })) ∧
        (comesTo s t w till = false → Answers (.yieldExpiry t w slot) s (fun u => u = s)))) ∧
  (∀ (s : State) (t w slot page : Nat) (x : Team) (y : Wave) (g : Group),
      s.team? t = some x → x.waves[w]? = some y → y.slots[slot]? = some g → g.st = .stalled → g.wait = .walk [page] → x.onCore = true →
      x.coreOf y < s.cores.length → page < hostTag →
      Answers (.pageWalkComplete (x.coreOf y) x.ctx page) s (fun u =>
        u = { s with teams := u.teams, cores := u.cores, dtlb := u.dtlb } ∧
        (∃ c, (u.wave? t w).bind (fun v => v.slots[slot]?) = some { g with st := .ready, wait := .none, since := c }) ∧
        u.tlb? (x.coreOf y) x.ctx (page * 65536) = some (s.walk x.ctx (page * 65536))))

/-- R243, R271, R273, R291, R304: WRITE_PERFORMED. A store under way to tile-tracked or uncached memory changes the bytes stored and no others, one to the twin's scratchpad or to the
host those there, one to another module becomes a request in the Lighthouse's queue; a write outside its launch's writable set makes the launch non-replayable; an evicted line's dirty bytes reach memory and the line leaves the L1; a wave's
scratchpad stores leave the wave. -/
def Obligations.WritesArePerformed : Prop :=
  (∀ (s : State) (f : Flight) (p : Page),
    Memory.wf s.mem = true → alone s f = true → f.kind = .store → f.space = .global → f.page = some p → f.fixed = none → f.sent = false → f.dest = none →
    s.up p f.pa = true → 0 < f.size → s.partPoison f.pa f.size = false → inSet s f.serial f.pa = true →
    Answers (.writePerformed (.flight f.id {})) s (fun u => u.flight? f.id = none ∧
      ∀ a, Sparse.read u.mem a = if f.pa ≤ a ∧ a < f.pa + f.size then BitVec.ofNat 8 (f.data / 256 ^ (a - f.pa)) else Sparse.read s.mem a)) ∧
  (∀ (s : State) (f : Flight) (p : Page),
    alone s f = true → f.kind = .store → f.space = .global → f.page = some p → f.fixed = none → f.sent = false → f.dest = none →
    s.up p f.pa = true → 0 < f.size → s.partPoison f.pa f.size = false → inSet s f.serial f.pa = false →
    Answers (.writePerformed (.flight f.id {})) s (fun u => ∃ l, u.launch? f.serial = some l ∧ l.nonrep = true ∧ l.snaps = [] ∧ l.staged = [])) ∧
  (∀ (s : State) (f : Flight), alone s f = true → f.kind = .store → f.fixed = none → f.sent = false → f.dest = none →
    (∀ k, f.space = .twin → s.half? f.team f.half = some k → k.bars = [] →
      Answers (.writePerformed (.flight f.id {})) s (fun u => u = { s with teams := u.teams, flights := s.flights.filter (fun g => g.id != f.id) } ∧
        u.half? f.team f.half = some { k with scr := Sparse.writeList k.scr f.pa (leBytes f.size f.data) })) ∧
    (f.space = .host → Sparse.wf s.hostMem = true →
      Answers (.writePerformed (.flight f.id {})) s (fun u =>
        u = { s with teams := u.teams, hostMem := u.hostMem, flights := s.flights.filter (fun g => g.id != f.id) } ∧
        ∀ a, u.hostRead a 1 = if f.va ≤ a ∧ a < f.va + f.size then f.data / 256 ^ (a - f.va) % 256 else s.hostRead a 1)) ∧
    (f.space = .remote → nbits f.va 56 8 ≠ s.mid → 0 < f.size → f.va % 2 ^ 56 + f.size ≤ 2 ^ 56 →
      Answers (.writePerformed (.flight f.id {})) s (fun u => ∃ l,
        u = { s with teams := u.teams, outQ := s.outQ ++ l
                     flights := s.flights.map (fun g => if g.id = f.id then { g with sent := true, owe := l.length - 1 } else g) } ∧
        (∀ x ∈ l, x.typ = 1 ∧ x.dst = nbits f.va 56 8 ∧ x.src = s.mid ∧ x.tag = f.id % 2 ^ 16 ∧ x.lane = fabricLane (f.va % 2 ^ 56) ∧ x.cv = lineCheck x.data) ∧
        ∀ k, k < f.size → let a := f.va % 2 ^ 56 + k
          ∃ x ∈ l, lineOf x.addr = lineOf a ∧ x.mask.testBit (a % 128) = true ∧ x.data / 256 ^ (a % 128) % 256 = f.data / 256 ^ k % 256))) ∧
  (∀ (s : State) (core pa : Nat),
    Memory.wf s.mem = true → core < s.cores.length → s.served (s.homeDie (128 * lineOf pa) false) = true →
    (s.poison.contains (lineOf pa) = false ∨ ((s.core core).line (lineOf pa)).dirty = BitVec.allOnes 128) →
    (∀ a, lineOf a = lineOf pa → inSet s ((s.core core).line (lineOf pa)).serial a = true) →
    Answers (.writePerformed (.line core pa)) s (fun u =>
      (∀ a, Sparse.read u.mem a =
        if lineOf a = lineOf pa ∧ ((s.core core).line (lineOf pa)).dirty.getLsbD (a % 128) = true
        then BitVec.ofNat 8 (((s.core core).line (lineOf pa)).data.toNat / 256 ^ (a % 128)) else Sparse.read s.mem a) ∧
      ((u.core core).line (lineOf pa)).valid = 0)) ∧
  (∀ (s : State) (t w : Nat) (x : Team) (y : Wave),
    s.team? t = some x → x.waves[w]? = some y →
    Answers (.writePerformed (.scratch t w)) s (fun u => (∃ v, u.wave? t w = some v ∧ v.sbuf = []) ∧ u.mem = s.mem ∧
      ((∀ h ∈ x.halves, h.bars = []) → ∀ z, u.team? t = some z → ∀ h k, x.halves[h]? = some k →
        (z.halves[h]?).map (·.scr) = some (y.sbuf.foldl (fun m b => if b.half = h then Sparse.writeList m b.off b.vals else m) k.scr))))

namespace Sys2Proof.Claims

/-- The work that the committing lanes of a post ask for (R140, R178, R198, R200, R202, R203, R205 to R207), in ascending lane order. -/
def postWork (s : State) (e : Env) (k : Opcode) (p : Payload) (m0 : MAcc) (ms : List MAcc) : Option Work :=
  let d := p.d.toNat; let front := p.m.toNat % 4; let lanes := ms.map (·.lane); let ix := IdxDesc.of m0.raw; let sv := SmvDesc.of m0.raw
  match k with
  | .idxg | .idxgSt | .idxs | .idxsSt =>
    some (.index (k == .idxs || k == .idxsSt) ix.ew ix.bar ix.soff ix.fill ix.bound ix.base (ms.map (fun m => (m.lane, m.q.b))))
  | .fqplay => some (.fqplay m0.q.b)
  | .bput => (match m0.work with | some (.bput b _) => some (.bput b ((ms.filter (fun m => m.q.b != 2 ^ 32 - 1)).map (fun m => (m.q.b, m.q.c)))) | _ => none)
  | .bplay => m0.work
  | .wlpush | .wlins => some (.wlpush (k == .wlins) front ((ms.map (fun m => m.q.b)).filter (fun c => c != 2 ^ 32 - 1)))
  | .wlpop => some (.wlpop front p.c.toNat d e.loc.wave lanes)
  | .wlstat => some (.wlstat front d e.loc.wave lanes)
  | .smv => (match s.handle? e.team.ctx sv.wh, s.handle? e.team.ctx sv.yh with
    | some w, some y => some (.smv w y sv.row0 sv.nrows sv.bar sv.ctr (ms.map (fun m => (sv.col0 + m.lane, m.q.b))))
    | _, _ => none)
  | _ => none

/-- The engine queue that a post enters (R178). -/
def postQueue (k : Opcode) (h : Half) : List Entry :=
  match k with
  | .bput | .bplay => h.qbin
  | .wlpush | .wlins | .wlpop | .wlstat => h.qwl
  | .smv => h.qstack
  | _ => h.qidx

/-- A lane after a post: `idxg.st` and `idxs.st` write the status of its index (R198), `wlpop` and `wlstat` mark their destinations empty (R206, R207). -/
def postLane (k : Opcode) (p : Payload) (m : MAcc) (l : Lane) : Lane :=
  match k with
  | .idxgSt | .idxsSt => l.write p.d.toNat false (if m.q.b = 2 ^ 32 - 1 then 2 else if m.q.b ≥ (IdxDesc.of m.raw).bound then 1 else 0)
  | .wlpop => l.setEmpty p.d.toNat
  | .wlstat => (l.setEmpty p.d.toNat).setEmpty (p.d.toNat + 1)
  | _ => l

/-- Has a team nothing of its own under way: no transaction, no scratchpad store, no dirty line in its cores' L1? Then releases have nothing to do (R142, R160, R179). -/
def settled (s : State) (t : Nat) : Bool :=
  s.flights.all (fun f => f.team != t) &&
  (s.team? t).elim true (fun x => x.waves.all (fun w => w.sbuf.isEmpty && (s.core (x.coreOf w)).l1.all (fun l => l.dirty == 0)))

/-- The state in which a post enters its queue: the wave's writes have been performed, for `smv` the team's (R142, R179). -/
def posting (s : State) (e : Env) (k : Opcode) : State := if k = .smv then s.releaseTeam e.loc.team else s.releaseWave e.loc.team e.loc.wave 2

/-- The half of the issuing wave. -/
def halfOf (s : State) (e : Env) : Option Half := s.half? e.loc.team e.wave.half

end Sys2Proof.Claims

/-- R178, R179: the posts of the index, binning, work-list and stack engines. After the writes that come before it the committing lanes' work enters its queue last, as the
team's next post; destinations take statuses or are marked empty, which is stated where no write of the team is under way. -/
def Obligations.PostsEnterTheirQueues : Prop :=
  ∀ (i : Instr) (k : Opcode) (h : Head) (p : Payload) (s : State) (e : Env) (m0 : MAcc) (r : List MAcc) (w : Work) (x : Half),
    Accepted i (Tree.one k h p) s e → asked s (Tree.one k h p) e = [m0 :: r] → postWork s e k p m0 (m0 :: r) = some w →
    h.leaf.kind ≠ .call → h.leaf.kind ≠ .callInd → p.d.toNat < 0xE0 → (k ∈ [Opcode.idxgSt, .idxsSt, .wlpop, .wlstat] → settled s e.loc.team = true) →
    let v := posting s e k
    halfOf v e = some x →
    Answers i s (fun u => u.seqNo = v.seqNo + 1 ∧
      (∃ y, halfOf u e = some y ∧ postQueue k y = postQueue k x ++ [{ seq := v.seqNo, half := e.wave.half, wave := e.wave.idx, since := u.nextId, work := w }]) ∧
      (∀ j, laneAt u e.loc j = (laneAt v e.loc j).map (fun l => match (m0 :: r).find? (fun m => m.lane == j) with | some m => postLane k p m l | none => l)) ∧
      (k = .wlpop → ∀ y, s.wave? e.loc.team e.loc.wave = some y → ∃ z, u.wave? e.loc.team e.loc.wave = some z ∧ z.scal = y.scal ++ [p.c.toNat]))

/-- R181, R192, R193: `cpy`. The entry stands last in the copy ring, and TAIL has advanced by one modulo 2^32.
R182: `qword`. The queue of the kind and index is empty at its base with its depth, and no other queue of the half has changed. -/
def Obligations.RingsAndQueues : Prop :=
  (∀ (i : Instr) (k : Opcode) (h : Head) (p : Payload) (s : State) (e : Env) (m0 : MAcc) (r : List MAcc) (x : Half) (q : Ring) (z : QSlot),
      (k = .cpy1d ∨ k = .cpyE) → Accepted i (Tree.one k h p) s e → asked s (Tree.one k h p) e = [m0 :: r] → m0.ent = some z →
      let v := posting s e k
      halfOf v e = some x → x.ring = some q →
      Answers i s (fun u => u.seqNo = v.seqNo + 1 ∧
        ∃ y, halfOf u e = some y ∧
          y.ring = some { q with tail := (q.tail + 1) % 2 ^ 32, ents := q.ents ++ [{ z with seq := v.seqNo, wave := e.wave.idx, since := u.nextId }] } ∧
          z.val = (if k = .cpy1d then copy1d m0.q (if p.d.toNat = 0xD2 then none else some m0.q.d) else Mem.nat e.scr m0.q.a 32))) ∧
  (∀ (i : Instr) (h : Head) (p : Payload) (s : State) (e : Env) (m0 : MAcc) (r : List MAcc) (x : Half),
      Accepted i (Tree.one .qword h p) s e → asked s (Tree.one .qword h p) e = [m0 :: r] → halfOf s e = some x → x.fronts.length = 4 → p.v < 4 →
      Answers i s (fun u => ∃ y, halfOf u e = some y ∧
        y.queue p.v (p.m.toNat % 4) = some { ctl := m0.q.a, base := m0.q.b, depth := m0.q.c, list := m0.q.d, hdr := m0.raw } ∧
        ∀ k n, (k ≠ p.v ∨ (k = 1 ∧ n ≠ p.m.toNat % 4)) → k < 4 → y.queue k n = x.queue k n))

/-- R184: the phase of a barrier. An arrival takes lanes from PARR and adds declared bytes to PBYTES, a credit takes bytes, whatever PARR is; when both are zero the phase advances by one
modulo 2^32 and PARR is set to EXP. Too many arrivals or bytes set OVR instead. -/
def Obligations.BarrierPhases : Prop :=
  ∀ (b : Bar) (n k : Nat),
    (n ≤ b.parr → b.pbytes + k < 2 ^ 32 →
      (b.parr = n → b.pbytes + k = 0 → b.arrive n k = { b with parr := b.exp, pbytes := 0, phase := (b.phase + 1) % 2 ^ 32 }) ∧
      ((b.parr ≠ n ∨ b.pbytes + k ≠ 0) → b.arrive n k = { b with parr := b.parr - n, pbytes := b.pbytes + k })) ∧
    ((n > b.parr ∨ 2 ^ 32 ≤ b.pbytes + k) → (b.arrive n k).ovr = true ∧ (b.parr ≠ 0 ∨ b.pbytes ≠ 0 → b.arrive n k = { b with ovr := true })) ∧
    (k ≤ b.pbytes → b.parr ≠ 0 → b.credit k = { b with pbytes := b.pbytes - k }) ∧
    (k ≤ b.pbytes → b.parr = 0 → b.credit k = if b.pbytes = k then { b with parr := b.exp, pbytes := 0, phase := (b.phase + 1) % 2 ^ 32 } else { b with pbytes := b.pbytes - k }) ∧
    (k > b.pbytes → (b.credit k).ovr = true ∧ (b.credit k).pbytes = 0)

/-- R183 to R187: `bar.init`, `bar.arr` and `bar.exp` as updates of the barrier object in the scratchpad, after the wave's own stores: `bar.init` sets the expected arrivals
and clears the rest, `bar.arr` arrives once for each lane with a declaration, `bar.exp` declares bytes.
R190, R191: `watch.a` and `watch.c` arm the barrier's watch in place of any before it; a counter that has reached its target, on a majority page by its newest copy,
fires at once: WF becomes 12 and one lane arrives. -/
def Obligations.BarriersAndWatches : Prop :=
  (∀ (i : Instr) (k : Opcode) (h : Head) (p : Payload) (s : State) (e : Env) (m0 : MAcc) (r : List MAcc) (x : Half),
      Accepted i (Tree.one k h p) s e → asked s (Tree.one k h p) e = [m0 :: r] →
      (k = .barInit → halfOf (s.flushScr e.loc.team e.loc.wave) e = some x →
        Answers i s (fun u => ∃ y, halfOf u e = some y ∧ m0.q.a ∈ y.bars ∧
          y.scr = ({ Bar.read x.scr m0.q.a with exp := m0.q.b, parr := m0.q.b, pbytes := 0, phase := 0, wf := 0, ovr := false } : Bar).put x.scr m0.q.a)) ∧
      (k = .barArr → halfOf (s.releaseWave e.loc.team e.loc.wave 1) e = some x →
        Answers i s (fun u => ∃ y, halfOf u e = some y ∧ y.scr = ((Bar.read x.scr m0.q.a).arrive (r.length + 1) m0.q.b).put x.scr m0.q.a)) ∧
      (k = .barExp → halfOf (s.flushScr e.loc.team e.loc.wave) e = some x →
        Answers i s (fun u => ∃ y, halfOf u e = some y ∧ y.scr = ((Bar.read x.scr m0.q.a).expect m0.q.b).put x.scr m0.q.a))) ∧
  (∀ (i : Instr) (k : Opcode) (h : Head) (p : Payload) (s : State) (e : Env) (m0 : MAcc) (r : List MAcc) (x : Team),
      Accepted i (Tree.one k h p) s e → asked s (Tree.one k h p) e = [m0 :: r] → s.team? e.loc.team = some x →
      let others := x.watches.filter (fun y => !(y.half == e.wave.half && y.bar == m0.q.a))
      (k = .watchA → Answers i s (fun u => ∃ y, u.team? e.loc.team = some y ∧
        y.watches = others ++ [{ half := e.wave.half, bar := m0.q.a, words := m0.words, counter := false, target := 0,
                                  vas := (List.range m0.words.length).map (fun i => nbits m0.raw (64 * i) 64) }])) ∧
      let set := (m0.page.filter (fun q => q.kind == 3)).map (·.mset); let word := s.word8 set ((m0.words.head?).getD 0)
      (k = .watchC → word < m0.q.c → Answers i s (fun u => ∃ y, u.team? e.loc.team = some y ∧
        y.watches = others ++ [{ half := e.wave.half, bar := m0.q.a, words := m0.words, vas := [m0.q.b], counter := true, target := m0.q.c, mset := set }])) ∧
      (k = .watchC → m0.q.c ≤ word → x.place = .resident → ∀ z, halfOf (s.flushScr e.loc.team e.loc.wave) e = some z →
        Answers i s (fun u => ∃ y, halfOf u e = some y ∧ y.scr = (({ Bar.read z.scr m0.q.a with wf := 12 } : Bar).arrive 1 0).put z.scr m0.q.a)))

/-! ## Reset, invariants, the next instruction of a lane -/

/-- R356, with R303, R332, R338, R339, R342, R351: the module after bring-up. Every die is ACTIVE, no queue or context is registered, no team runs, no majority set is valid,
no page of memory holds anything, every ROUTE is invalid and every port enabled. How unlisted bytes read is log entry 4; that every ROUTE is invalid, every port enabled, no BAR2 window set, no vector masked, every set entry zero, and
nothing registered, is log entry 5: the model's choices where the rules give no reset value. -/
def Obligations.ResetValues : Prop :=
  let s := State.reset
  s.teams = [] ∧ s.launches = [] ∧ s.flights = [] ∧ s.mem = [] ∧ s.poison = [] ∧ s.tracked = [] ∧ s.halted = false ∧ s.windows = [] ∧ s.vecMask = [] ∧
  (∀ d, d < 4 → s.ep d = {} ∧ s.epsWord d = 0) ∧ (∀ c, c < 64 → (s.ctx c).reg = false) ∧ (∀ q, q < 256 → (s.queue q).reg = false) ∧
  (∀ k, k < 128 → nth 0 s.msets k = 0) ∧ (∀ m, m < 256 → s.routeWord m = 0) ∧ (∀ p, p < 32 → (s.port p).en = true) ∧ s.scrubHours = 24 ∧ s.testHours = 4 ∧
  s.mx.identity = true ∧ s.mx.keys = [] ∧ s.mx.lock = false ∧ (∀ i, 5 ≤ i → i < 8 → s.mx.m[i]? = some 0)

/-- The invariant of `StepKeepsCanonical` holds at reset. -/
def Obligations.ResetIsCanonical : Prop := Canonical State.reset

/-- The memories of the module keep their canonical form: device memory, tile directory entries, version tags and host bytes (the model's own invariant, log entry 4). -/
def Obligations.StepKeepsCanonical : Prop := ∀ s u : State, Canonical s → Steps s u → Canonical u

namespace Sys2Proof.Claims

/-- The successor of a lane of an issue (R84). -/
def succOf (s : State) (e : Env) (t : Tree) (j : Nat) : Option DWord := (e.run s.draw t j).succ

/-- What a class-H operation reads in a lane: its sources A, B and C. -/
def ask (s : State) (e : Env) (t : Tree) (j : Nat) : Option MReq := (e.run s.draw t j).req

/-- The requests of the lanes of a class-H instruction, in ascending lane order. -/
def asks (s : State) (e : Env) (t : Tree) : List MReq := (e.runs s.draw t).filterMap (·.req)

/-- A group goes on from a state: of the module only teams, cores, the error log and the counter of free values change, and of those teams only the issuing wave's groups
and landing records, in which no register, scalar, gang, region or latch changes. -/
def Continues (v u : State) (e : Env) : Prop :=
  IssueOnly v e u ∧ TeamOnly v u e ∧
  (∀ j h, laneAt u { e.loc with handler := h } j = laneAt v { e.loc with handler := h } j) ∧
  (∀ h, scalarsAt u { e.loc with handler := h } = scalarsAt v { e.loc with handler := h }) ∧
  (∀ w, v.wave? e.loc.team e.loc.wave = some w → ∃ x, u.wave? e.loc.team e.loc.wave = some x ∧
    x.gang = w.gang ∧ x.depth = w.depth ∧ x.exited = w.exited ∧ x.trapQ = w.trapQ ∧ x.latch = w.latch ∧ x.hold = w.hold ∧ x.sbuf = w.sbuf)

/-- As `Continues`, and D takes a value of 32 or 64 bits in every lane, or once when it is scalar (R26). -/
def TakesD (s u : State) (e : Env) (d : Nat) (wide : Bool) (v : Nat) : Prop :=
  IssueOnly s e u ∧ TeamOnly s u e ∧
  (∀ j, laneAt u e.loc j = if j ∈ e.lanes then (laneAt s e.loc j).map (fun l => l.write d wide v) else laneAt s e.loc j) ∧
  (d < 0xE0 → scalarsAt u e.loc = scalarsAt s e.loc) ∧
  (0xE0 ≤ d → e.lanes ≠ [] → (wide = true → d < 0xFF) → scalarsAt u e.loc = (scalarsAt s e.loc).map (fun l => setScalar l (d - 0xE0) wide v))

/-- The leaf of an instruction is no call. -/
def noCall (h : Head) : Prop := h.leaf.kind ≠ .call ∧ h.leaf.kind ≠ .callInd

end Sys2Proof.Claims

namespace Sys2Proof.Claims

/-- An instruction of class-A operations is issued by a group that is not in the handler and is not kept from issuing, whose datapaths agree, and every lane's run satisfies a
test. -/
def RunsTo (i : Instr) (t : Tree) (s : State) (e : Env) (p : LRun → Bool) : Prop :=
  i.tree? = some t ∧ Instr.ofTree t = i ∧ s.issuing t = some e ∧ s.disagree = false ∧ e.blocked t = none ∧ classAOps t = true ∧ e.loc.handler = false ∧
  (e.runs s.draw t).all p = true

/-- A lane that neither faults on its path nor exits. -/
def goesOn (r : LRun) : Bool := r.fault.isNone && r.succ.isSome

/-- The lanes of an issue that go on at an address. -/
def goers (s : State) (e : Env) (t : Tree) (x : DWord) : DWord :=
  lanesMask (e.lanes.filter (fun j => (e.run s.draw t j).fault.isNone && decide (succOf s e t j = some x)))

/-- All slots of a wave are free but one. -/
def onlySlot (w : Wave) (k : Nat) : Prop := w.slots.length = 72 ∧ ∀ j, j ≠ k → (w.group j).st = .free

/-- The lanes of an issue that go on at an address form one group there, with a pointer, the fragment's `fmt` and the head that chose the address. It may issue again STALL
cycles after the issue (R56), at once in interlocked mode (R34). -/
def GroupAt (s u : State) (e : Env) (t : Tree) (x : DWord) (rcd : Option Nat) : Prop :=
  ∃ k g, u.group? { e.loc with slot := k } = some g ∧ g.mask = goers s e t x ∧ g.pc = x ∧ g.fmt = e.g.fmt ∧ g.rcd = rcd ∧ g.chooser = e.head ∧
    (let till := e.cyc + max 1 (if (s.ctx e.team.ctx).interlocked then 0 else t.stall.toNat)
     g.ready = till ∧ if till > e.cyc + e.cycles then g.st = .stalled ∧ g.wait = .stall till else g.st = .ready ∧ g.wait = .none)

/-- The faults of the lanes of an issue, in ascending lane order. -/
def faultsOf (s : State) (e : Env) (t : Tree) : List LaneFault := (e.runs s.draw t).filterMap (·.fault)

end Sys2Proof.Claims

/-- R78, R84, R218, R174: the division of a group at no site, with no landing record, all other slots of the wave being free: the lanes with one successor form one group.
R87: lanes whose leaf is an exit end; the wave has left its core when no lane of it is left.
R90, R91: a group that divides at a site pushes the lowest free record (log entry 92, the model's choice), with its lanes, its `fmt`, the landing address and its own pointer; lanes that go to the landing
address have arrived.
R92: when the last members of a record arrive they all form one READY group at the landing address, with the record's `fmt` and the parent's pointer, and the record is free.
R88: a break leaves the record: it loses the lanes, and is free when none is left or all that are left have arrived.
R94 to R96: the lanes that fault stay at the head as one PARKED group with their records, with nothing of theirs committed, while the others go on; here the fault queue is
full, so the group waits for room (R276). -/
def Obligations.LanesFollowTheirSuccessors : Prop :=
  ∀ (i : Instr) (t : Tree) (s : State) (e : Env) (w : Wave), s.wave? e.loc.team e.loc.wave = some w →
    (RunsTo i t s e goesOn → onlySlot w e.loc.slot → e.g.rcd = none → s.landAt e.team.serial e.head.toNat = none →
      Answers i s (fun u => ∀ j ∈ e.lanes, ∀ x, succOf s e t j = some x → GroupAt s u e t x none)) ∧
    (∀ (x : Team) (n : Nat) (y : Wave),
      RunsTo i t s e (fun r => r.fault.isNone) → onlySlot w e.loc.slot → e.g.rcd = none → s.landAt e.team.serial e.head.toNat = none →
      w.meets = [] → w.left = false → w.handler = none → (∀ k, k < 32 → (w.landRec k).valid = false) →
      s.team? e.loc.team = some x → (∀ z ∈ x.waves, z.latch = none) → n ≠ e.loc.wave → x.waves[n]? = some y → y.left = false →
      let out := lanesMask (e.lanes.filter (fun j => (succOf s e t j).isNone))
      out ≠ 0 →
      Answers i s (fun u => (∀ j ∈ e.lanes, ∀ x, succOf s e t j = some x → GroupAt s u e t x none) ∧
        ∃ v, u.wave? e.loc.team e.loc.wave = some v ∧ v.exited = w.exited ||| out ∧
          (v.left = true ↔ v.exited &&& w.active = w.active ∧ ∀ j ∈ e.lanes, succOf s e t j = none) ∧ (v.left = true → v.depth = 0))) ∧
    (∀ (a k : Nat) (j1 j2 : Nat),
      RunsTo i t s e goesOn → onlySlot w e.loc.slot → (∀ l ∈ t.leaves, l.kind ≠ .brk) → s.landAt e.team.serial e.head.toNat = some a → e.g.pushed = false →
      w.recs.length = 32 → w.freeRec = some k → j1 ∈ e.lanes → j2 ∈ e.lanes → succOf s e t j1 ≠ succOf s e t j2 →
      let land : DWord := BitVec.ofNat 64 a
      Answers i s (fun u =>
        (∃ v, u.wave? e.loc.team e.loc.wave = some v ∧ (∀ n, n ≠ k → v.landRec n = w.landRec n) ∧
          v.landRec k = { valid := true, members := e.g.mask, arrived := goers s e t land, fmt := e.g.fmt, land := land, parent := e.g.rcd }) ∧
        ∀ j ∈ e.lanes, ∀ x, succOf s e t j = some x → if x = land
          then ∃ n g, u.group? { e.loc with slot := n } = some g ∧ g.mask = goers s e t land ∧ g.pc = land ∧ g.rcd = some k ∧ g.st = .arrived
          else GroupAt s u e t x (some k))) ∧
    (∀ (k : Nat),
      let r := w.landRec k
      RunsTo i t s e goesOn → e.lanes ≠ [] → (∀ l ∈ t.leaves, l.kind ≠ .brk) → e.g.rcd = some k → r.valid = true → (∀ j ∈ e.lanes, succOf s e t j = some r.land) →
      r.arrived ||| lanesMask e.lanes = r.members → (∀ j, j ≠ e.loc.slot → (w.group j).rcd = some k → (w.group j).st = .arrived) →
      (∀ p, r.parent = some p → (w.landRec p).valid = false ∨ (w.landRec p).land ≠ r.land) →
      Answers i s (fun u => ∃ v n, u.wave? e.loc.team e.loc.wave = some v ∧ v.landRec k = {} ∧
        ((v.group n).mask = r.members ∧ (v.group n).fmt = r.fmt ∧ (v.group n).pc = r.land ∧ (v.group n).rcd = r.parent ∧ (v.group n).st = .ready) ∧
        (∀ j, j ≠ n → j = e.loc.slot ∨ (w.group j).rcd = some k → (v.group j).st = .free) ∧
        ∀ j, j ≠ e.loc.slot → (w.group j).rcd ≠ some k → v.group j = w.group j)) ∧
    (∀ (k : Nat) (x : DWord),
      let r := w.landRec k; let m := lanesMask e.lanes; let rest := r.members &&& ~~~m
      RunsTo i t s e goesOn → e.lanes ≠ [] → (∀ l ∈ t.leaves, l.kind = .brk ∧ l.pop = 1) → e.g.rcd = some k → r.valid = true → r.parent = none →
      (∀ j ∈ e.lanes, succOf s e t j = some x) → r.arrived &&& m = 0 →
      Answers i s (fun u => GroupAt s u e t x none ∧ ∃ v, u.wave? e.loc.team e.loc.wave = some v ∧
        v.landRec k = if rest = 0 ∨ r.arrived = rest then {} else { r with members := rest })) ∧
    (RunsTo i t s e (fun r => r.fault.isSome || r.succ.isSome) → onlySlot w e.loc.slot → e.g.rcd = none → s.landAt e.team.serial e.head.toNat = none →
      e.g.retried = false → e.wave.idx = e.loc.wave → e.team.ctx < s.ctxs.length → s.fqRoom e.team.ctx = false →
      faultsOf s e t ≠ [] → (∀ f ∈ faultsOf s e t, f.cause ≠ 0x0C ∧ f.cause ≠ 0x0D) →
      Answers i s (fun u =>
        (∀ j, laneAt u e.loc j = if j ∈ e.lanes ∧ (e.run s.draw t j).fault = none then (laneAt s e.loc j).map (fun _ => (e.run s.draw t j).l) else laneAt s e.loc j) ∧
        (∃ k g, u.group? { e.loc with slot := k } = some g ∧ g.st = .parked ∧ g.wait = .room ∧ g.mask = lanesMask ((faultsOf s e t).map (·.lane)) ∧ g.pc = e.head ∧
          g.fmt = e.g.fmt ∧ g.rcd = none ∧ g.recs = faultsOf s e t) ∧
        (∃ l, (u.ctx e.team.ctx).waiting = (s.ctx e.team.ctx).waiting ++ l ∧ l.map (fun r => (r.lane, r.cause, r.detail)) = (faultsOf s e t).map (fun f => (f.lane, f.cause, f.detail))) ∧
        ∀ j ∈ e.lanes, (e.run s.draw t j).fault = none → ∀ x, succOf s e t j = some x → GroupAt s u e t x none))

/-- R22, R23, R34, R220: a group that the registers of its instruction keep from issuing waits, and nothing else of the module changes. What it waits for in registers are
empty registers of its lanes that the instruction needs. -/
def Obligations.EmptyRegistersKeepFromIssuing : Prop :=
  ∀ (i : Instr) (t : Tree) (s : State) (e : Env) (w : Wait),
    i.tree? = some t → s.issuing t = some e → e.blocked t = some w →
    Answers i s (fun u => u = s.modGroup e.loc (fun g => { g with st := .stalled, wait := w }) ∧
      ∀ l, w = .regs l → l ≠ [] ∧ ∀ x ∈ l, x.1 ∈ e.lanes ∧ x.2 ∈ treeNeeds e.dc t ∧ x.2 < 0xC0 ∧ ((e.lane x.1).reg x.2).empty = true)

namespace Sys2Proof.Claims

/-- The records that a cause of the whole group makes (R94, R95): one for each lane. -/
def causeRecs (e : Env) (cause detail addr head : Nat) : List LaneFault :=
  e.lanes.map (fun j => { cause := cause, detail := detail, lane := j, head := head, addr := addr })

/-- The state in which the records of lanes of the whole group stand in the fault queue, the group parked until then (R95, R276). -/
def parkedWith (v : State) (e : Env) (l : List LaneFault) : State :=
  (v.modGroup e.loc (fun g => { g with recs := l, st := .parked, wait := .room })).laneRecs e.team.ctx
    (({ e.g with recs := l } : Group).frecs e.core e.wave.idx e.team.serial e.loc.team e.loc.slot id)

/-- The group has taken its issue slot, and its STALL count holds for when it comes back (R56, R96, R223). -/
def slotTaken (s : State) (e : Env) (stall : Nat) : State := (s.issued e).modGroup e.loc (fun g => { g with ready := e.stallTill s stall })

/-- The state in which the records of a cause that an instruction raises in every lane stand in the fault queue. -/
def recorded (s : State) (e : Env) (stall cause detail : Nat) : State :=
  parkedWith (slotTaken ((s.drawn e).dropWalks e.core e.team.ctx) e stall) e (causeRecs e cause detail 0 e.head.toNat)

/-- Once the records of the group in a slot are written (state `v`), what follows answers a state in which the group stands TRAPPED at its head, behind those that trapped
before it, and the handler fragment starts at the context's HANDLER, unless one runs; nothing else of the module changes (R95, R211). -/
def Handled (o : Host.Outcome State Fault Refusal) (v : State) (e : Env) (l : List LaneFault) : Prop :=
  ∀ (x : Team) (y : Wave) (g : Group),
    v.recsOut e.team.ctx e.loc.team e.loc.wave e.loc.slot = true → v.team? e.loc.team = some x → x.waves[e.loc.wave]? = some y → y.slots[e.loc.slot]? = some g →
    x.ctx = e.team.ctx → x.stopped = false → g.recs = l → g.st = .parked → v.handlerAddr e.team.ctx ≠ 0 →
    ∃ u, o = .next u ∧ u = { v with teams := u.teams } ∧ (∀ t, t ≠ e.loc.team → u.team? t = v.team? t) ∧
      ∃ z, u.wave? e.loc.team e.loc.wave = some z ∧ z.trapQ = y.trapQ ++ [e.loc.slot] ∧ z.lanes = y.lanes ∧ z.s = y.s ∧
        z.slots[e.loc.slot]? = some { g with st := .trapped, wait := .none, since := v.cycOf x y } ∧
        (∀ k, k ≠ e.loc.slot → z.slots[k]? = y.slots[k]?) ∧
        z.handler = some (y.handler.getD (Handler.start (v.handlerAddr e.team.ctx) (v.cycOf x y)))

end Sys2Proof.Claims

/-- R94, R95, R208, R211: `trap n` takes cause 0x10, and `bkpt n` with no debugger attached cause 0x0F, in every lane with DETAIL n, nothing committed. Once the records are
written the group stands TRAPPED at its head, behind those that trapped before it, and the handler fragment starts at the context's HANDLER.
R208, R235: `bkpt` with a debugger attached stops the team: every group of it is FROZEN, the breaking group at its head with nothing committed.
R75, R76: words that break a rule of the encoding take cause 0x01 in every lane of the group, with the number of the reason as DETAIL, and nothing is executed.
R54, R98: a fetch that finds a cause gives it to every lane of the group. A successor that is not a multiple of 16 is cause 0x03, one with bits above 55 cause 0x04, one
at a word that is no head cause 0x02, each with the target's value and the head that chose it. -/
def Obligations.TrapsAndBreakpoints : Prop :=
  (∀ (i : Instr) (k : Opcode) (h : Head) (p : Payload) (s : State) (e : Env),
      (k = .trap ∨ k = .bkpt ∧ (s.ctx e.team.ctx).dbg = false) → Goes i (Tree.one k h p) s e → e.loc.handler = false → e.lanes ≠ [] →
      let c := if k = .trap then 0x10 else 0x0F
      Handled (exec i s) (recorded s e h.stall.toNat c p.c.toNat) e (causeRecs e c p.c.toNat 0 e.head.toNat)) ∧
  (∀ (i : Instr) (h : Head) (p : Payload) (s : State) (e : Env),
      Goes i (Tree.one .bkpt h p) s e → (s.ctx e.team.ctx).dbg = true → e.loc.handler = false →
      Answers i s (fun u => IssueOnly s e u ∧ (∀ t, t ≠ e.loc.team → u.team? t = s.team? t) ∧
        (∃ x, u.team? e.loc.team = some x ∧ x.stopped = true ∧ ∀ w ∈ x.waves, ∀ g ∈ w.slots, g.st = .free ∨ g.st = .frozen) ∧
        (∃ g, u.group? e.loc = some g ∧ g.st = .frozen ∧ g.prior = .ready ∧ g.breaking = true ∧ g.pc = e.g.pc ∧ g.mask = e.g.mask) ∧
        (∀ j, laneAt u e.loc j = laneAt s e.loc j) ∧ scalarsAt u e.loc = scalarsAt s e.loc)) ∧
  (∀ (s : State) (l : Loc) (d : Bool) (r : List Act) (g : Group) (e : Env),
      let v := ({ s.tick with agenda := r } : State).ldsDue l.team
      let f := v.fetch e.core e.team.ctx e.g.pc.toNat e.g.chooser.toNat
      s.agenda = .only l d :: r → s.tick.group? l = some g → g.st = .ready → v.env? l [] = some e → e.g.late = false → l.handler = false → e.lanes ≠ [] →
      (∀ ps x, f = .code ps → decode e.dc ps = .illegal x →
        Handled (step s) (parkedWith (slotTaken v e 0) e (causeRecs e 0x01 x.code 0 e.head.toNat)) e (causeRecs e 0x01 x.code 0 e.head.toNat)) ∧
      (∀ c n a h, f = .cause c n a h → c ≠ 0x0C → c ≠ 0x0D → c ≠ 0x12 → (c = 0x04 → nbit n 1 = true) →
        Handled (step s) (parkedWith (v.issued e) e (causeRecs e c n a h)) e (causeRecs e c n a h))) ∧
  (∀ (s : State) (core c pc chooser : Nat),
      (pc % 16 ≠ 0 → s.fetch core c pc chooser = .cause 0x03 0 pc chooser) ∧
      (pc % 16 = 0 → 2 ^ 56 ≤ pc → s.fetch core c pc chooser = .cause 0x04 2 pc chooser) ∧
      (∀ p, let a := s.codePa core (p.phys pc)
        pc % 16 = 0 → pc < 2 ^ 56 → s.fetchPage core c pc = .ok p → s.up p a = true → s.poisoned a 16 = false → p.kind = 0 →
        isHead (BitVec.ofNat 32 (Mem.nat s.mem a 4)) = false → s.fetch core c pc chooser = .cause 0x02 0 pc chooser))

/-! ## Atomics, reductions, exchanges, barriers and orders -/

namespace Sys2Proof.Claims

/-- A memory after the atomics of an issue, lane after lane (R125, R136). -/
def atomics (m : Mem) (n : Nat) (ms : List MAcc) : Mem :=
  ms.foldl (fun r x => match atomOp (x.q.p.m.toNat % 16) x.q.p.v (r.nat x.pa n) (x.q.b % 2 ^ (8 * n)) (x.q.c % 2 ^ (8 * n)) with
    | some v => Sparse.writeList r x.pa (leBytes n v)
    | none => r) m

end Sys2Proof.Claims

/-- R125, R135, R136: `atms`. The atomics of the lanes are performed in ascending lane order on the half's scratchpad, after the wave's own stores; where RET asks for it
the value held before is on its way to D.
R127, R135, R136: `atmg` with acquire order is performed at once: the home holds the new value, and no other byte of memory changes.
R139, R142, R127: `sred`. With nothing of the team under way, the reductions start as transactions, one for each lane; D is marked empty, and a range of no words has
its result at once. No memory changes.
That `atms` is performed at commit, and acquire-ordered `atmg` at once, is log entry 20, the model's reading. -/
def Obligations.AtomicsAndReductions : Prop :=
  (∀ (i : Instr) (h : Head) (p : Payload) (s : State) (e : Env) (m0 : MAcc) (r : List MAcc) (x : Half),
      Accepted i (Tree.one .atms h p) s e → asked s (Tree.one .atms h p) e = [m0 :: r] → noCall h →
      (∀ g ∈ s.flights, g.id < s.nextId ∧ (g.team ≠ e.loc.team ∨ g.wave ≠ e.loc.wave)) →
      halfOf ((before s (Tree.one .atms h p) e).flushScr e.loc.team e.loc.wave) e = some x → x.bars = [] → p.m.getLsbD 9 = false →
      Answers i s (fun u => (∃ y, halfOf u e = some y ∧ y.scr = atomics x.scr (typeBytes p.v) (m0 :: r)) ∧ u.mem = (noted s e).mem ∧
        (p.m.getLsbD 4 = false → u.flights = s.flights) ∧
        (p.m.getLsbD 4 = true → ∃ f r', u.flights = s.flights ++ f :: r' ∧ r'.length = r.length ∧ f.lane = m0.lane ∧ f.dest = some p.d.toNat ∧
          f.fixed = some (x.scr.nat m0.pa (typeBytes p.v))))) ∧
  (∀ (i : Instr) (h : Head) (p : Payload) (s : State) (e : Env) (m : MAcc) (pg : Page),
      Accepted i (Tree.one .atmg h p) s e → asked s (Tree.one .atmg h p) e = [[m]] → noCall h → Memory.wf s.mem = true →
      (∀ g ∈ s.flights, g.id < s.nextId ∧ (g.team ≠ e.loc.team ∨ g.wave ≠ e.loc.wave) ∧ (pg.kind = 2 → g.core ≠ e.core)) → p.m.getLsbD 8 = true → p.m.getLsbD 9 = false →
      inSet s e.team.serial m.pa = true → m.page = some pg → ((s.core e.core).line (lineOf m.pa)).dirty = 0 → s.up pg m.pa = true → s.poisoned m.pa (typeBytes p.v) = false →
      let n := typeBytes p.v; let old := Mem.nat s.mem m.pa n
      let new := atomOp (p.m.toNat % 16) p.v old (m.q.b % 2 ^ (8 * n)) (m.q.c % 2 ^ (8 * n))
      Answers i s (fun u =>
        (∀ a, ownByte e a = true → Sparse.read u.mem a = match new with
          | some v => if m.pa ≤ a ∧ a < m.pa + n then BitVec.ofNat 8 (v / 256 ^ (a - m.pa)) else Sparse.read s.mem a
          | none => Sparse.read s.mem a) ∧
        (p.m.getLsbD 4 = false → u.flights = s.flights) ∧
        (p.m.getLsbD 4 = true → ∃ f, u.flights = s.flights ++ [f] ∧ f.dest = some p.d.toNat ∧ f.fixed = some old ∧ f.mark = 0))) ∧
  (∀ (i : Instr) (h : Head) (p : Payload) (s : State) (e : Env) (ms : List MAcc),
      Accepted i (Tree.one .sred h p) s e → asked s (Tree.one .sred h p) e = [ms] → noCall h → settled s e.loc.team = true →
      Answers i s (fun u => u.mem = (noted s e).mem ∧
        (∃ l, u.flights = s.flights ++ l ∧ l.length = ms.length ∧ ∀ (n : Nat) (f : Flight) (m : MAcc), l[n]? = some f → ms[n]? = some m →
          f.kind = .sred ∧ f.space = .global ∧ f.dest = some p.d.toNat ∧ f.lane = m.lane ∧ f.pa = m.pa ∧ f.page = m.page ∧ f.ty = p.v ∧ f.id = s.nextId + n ∧
          (m.q.b ≠ 0 → f.size = 4 * m.q.b ∧ f.cmp = m.q.b ∧ f.op = p.c.toNat ∧ f.fixed = none) ∧
          (m.q.b = 0 → f.fixed = some (sredOp p.v p.c.toNat []))) ∧
        (∀ j, laneAt u e.loc j = (laneAt s e.loc j).map (fun l => match ms.find? (fun m => m.lane == j) with | some _ => l.setEmpty p.d.toNat | none => l))))

namespace Sys2Proof.Claims

/-- The lanes of an issue meet by themselves: each of them names, as the participants, exactly the lanes of its own group, which are lanes of the wave that have not exited;
and no other lane of the wave waits in a meeting (R111). -/
def meetsAlone (s : State) (e : Env) (t : Tree) : Prop :=
  e.loc.handler = false ∧ e.wave.meets = [] ∧ e.lanes ≠ [] ∧ e.g.mask &&& ~~~fullMask e.wave.width = 0 ∧ e.g.mask &&& (e.wave.exited ||| ~~~e.wave.active) = 0 ∧
  ∀ j ∈ e.lanes, ∃ q, ask s e t j = some q ∧ BitVec.ofNat 64 q.c = e.g.mask

/-- The source A of a lane as 64 bits. -/
def srcAt (s : State) (e : Env) (t : Tree) (j : Nat) : Nat := ((ask s e t j).elim 0 (·.a)) % 2 ^ 64

/-- The source B of a lane as 32 bits. -/
def srcBAt (s : State) (e : Env) (t : Tree) (j : Nat) : Nat := ((ask s e t j).elim 0 (·.b)) % 2 ^ 32

/-- The value that a lane exchange gives a lane (R113): `shfl` the source A of the lane that VAR and B name, its own where that lane takes no part; `vote` all, any, the
mask or equality of the lanes' values; `redux` the wrapped sum, the least, the greatest, the conjunction, disjunction or exclusive or of integers, and of floats what
`reduxValue` makes of the values under the group's `fmt`, unless it traps; `bcast` the source A of lane B. -/
def exchanged (s : State) (e : Env) (t : Tree) (k : Opcode) (p : Payload) (j : Nat) : Option Nat :=
  let a := srcAt s e t; let b := srcBAt s e t j
  match k with
  | .shfl =>
    let from_ : Int := match p.v with | 0 => ((b % e.wave.width : Nat) : Int) | 1 => (j : Int) - b | 2 => (j : Int) + b | _ => ((j ^^^ b : Nat) : Int)
    some (if 0 ≤ from_ ∧ from_ < e.wave.width ∧ from_.toNat ∈ e.lanes then a from_.toNat else a j)
  | .vote =>
    (match p.v with
     | 0 => some (b2n (e.lanes.all (fun i => a i % 2 ^ 32 != 0)))
     | 1 => some (b2n (e.lanes.any (fun i => a i % 2 ^ 32 != 0)))
     | 2 => some ((e.lanes.filter (fun i => a i % 2 ^ 32 != 0)).foldl (fun n i => n + 2 ^ i) 0)
     | _ => some (b2n (e.lanes.all (fun i => a i % 2 ^ 32 == (e.lanes.head?).elim 0 (fun h => a h % 2 ^ 32)))))
  | .redux =>
    let l := e.lanes.map a; let n := tyBits p.v; let wrap (x : Int) : Option Nat := some (x % ((2 ^ n : Nat) : Int)).toNat
    let vs := l.map (tyVal p.v); let bits := l.map (· % 2 ^ n)
    if p.v < 4 then
      (match p.b.toNat with
       | 0 => wrap (vs.foldl (· + ·) 0)
       | 1 => wrap (vs.tail.foldl min (vs.headD 0))
       | 2 => wrap (vs.tail.foldl max (vs.headD 0))
       | 3 => some (bits.tail.foldl (· &&& ·) (bits.headD 0))
       | 4 => some (bits.foldl (· ||| ·) 0)
       | 5 => some (bits.foldl (· ^^^ ·) 0)
       | _ => none)
    else (match reduxValue p e.g.fmt l with | .ok v => some v | .fault .. => none)
  | .bcast => let l := ((e.lanes.head?).elim 0 (srcBAt s e t)); if l ∈ e.lanes then some (a l) else none
  | _ => none

end Sys2Proof.Claims

/-- R111, R113: `shfl`, `vote`, `redux` and `bcast`, whose participants are the lanes of the group. Every lane's D takes its value, or the scalar D of `vote`, `redux` and
`bcast` takes it once (R26), and the group goes on.
R184, R186, R189: `bar.arr.m`, whose participants are the lanes of the group and agree: one arrival of all of them, with their declaration. -/
def Obligations.ExchangesAndArrivals : Prop :=
  (∀ (i : Instr) (k : Opcode) (h : Head) (p : Payload) (s : State) (e : Env),
      (k = .shfl ∨ k = .vote ∨ k = .redux ∨ k = .bcast) → Goes i (Tree.one k h p) s e → meetsAlone s e (Tree.one k h p) → noCall h → p.d.toNat < 0xD0 →
      (∀ j ∈ e.lanes, (exchanged s e (Tree.one k h p) k p j).isSome = true) →
      Answers i s (fun u => IssueOnly s e u ∧ TeamOnly s u e ∧ scalarsAt u e.loc = scalarsAt s e.loc ∧
        ∀ j, laneAt u e.loc j = if j ∈ e.lanes
          then (laneAt s e.loc j).map (fun l => l.write p.d.toNat (dWide (k.shape e.dc p).d) ((exchanged s e (Tree.one k h p) k p j).getD 0))
          else laneAt s e.loc j)) ∧
  (∀ (i : Instr) (k : Opcode) (h : Head) (p : Payload) (s : State) (e : Env) (v : Nat),
      (k = .vote ∨ k = .redux ∨ k = .bcast) → Goes i (Tree.one k h p) s e → meetsAlone s e (Tree.one k h p) → noCall h → 0xE0 ≤ p.d.toNat →
      let wide := dWide (k.shape e.dc p).d
      (wide = true → p.d.toNat < 0xFF) → (∀ j ∈ e.lanes, exchanged s e (Tree.one k h p) k p j = some v) →
      Answers i s (fun u => IssueOnly s e u ∧ TeamOnly s u e ∧ (∀ j, laneAt u e.loc j = laneAt s e.loc j) ∧
        scalarsAt u e.loc = (scalarsAt s e.loc).map (fun l => setScalar l (p.d.toNat - 0xE0) wide v))) ∧
  (∀ (i : Instr) (h : Head) (p : Payload) (s : State) (e : Env) (x : Half) (a b : Nat),
      Goes i (Tree.one .barArrM h p) s e → meetsAlone s e (Tree.one .barArrM h p) → noCall h →
      (∀ j ∈ e.lanes, ∃ q, ask s e (Tree.one .barArrM h p) j = some q ∧ q.a = a ∧ q.b = b) → a < 2 ^ 32 → b < 2 ^ 32 → a + 16 ≤ e.team.scrSize → barOk e a = true →
      settled s e.loc.team = true → e.team.twin = false → halfOf s e = some x →
      Answers i s (fun u => u.mem = (noted s e).mem ∧ ∃ y, halfOf u e = some y ∧ y = { x with scr := ((Bar.read x.scr a).arrive e.lanes.length b).put x.scr a }))

/-- R188, R189: `bar.wait`. When the phase has advanced beyond B the group goes on, `bar.wait.p` has the phase in D, and in a twin team the core's L1 has dropped what is not
dirty; until then the group sleeps on the barrier, and nothing else of the module changes. No acquire of the wave on another module is under way, for which it would wait
(R249). -/
def Obligations.BarrierWaits : Prop :=
  ∀ (i : Instr) (h : Head) (p : Payload) (s : State) (e : Env) (x : Half) (a ph : Nat),
    let t := Tree.one .barWait h p; let v := (s.drawn e).flushScr e.loc.team e.loc.wave; let b := Bar.read x.scr a
    Goes i t s e → noCall h → e.lanes ≠ [] → (asks s e t).length = e.lanes.length → (∀ q ∈ asks s e t, q.a = a ∧ q.b = ph) → ph < 2 ^ 32 →
    a + 16 ≤ e.team.scrSize → barOk e a = true → (s.drawn e).acqOpen e = [] → halfOf v e = some x → b.ovr = false →
    (0 < toSigned 32 ((b.phase + 2 ^ 32 - ph) % 2 ^ 32) → Answers i s (fun u => (if p.v = 1 then TakesD v u e p.d.toNat false b.phase else Continues v u e) ∧
      (e.team.twin = true → ∀ l ∈ (u.core e.core).l1, l.valid = l.dirty))) ∧
    (toSigned 32 ((b.phase + 2 ^ 32 - ph) % 2 ^ 32) ≤ 0 → Answers i s (fun u => u = { v with teams := u.teams } ∧ TeamOnly v u e ∧
      (∃ g, u.group? e.loc = some g ∧ g.st = .asleep ∧ g.wait = .sleep e.wave.half a (BitVec.ofNat 32 ph) ∧ g.pc = e.g.pc ∧ g.mask = e.g.mask) ∧
      ∀ j, laneAt u e.loc j = laneAt s e.loc j))

/-- R143, R144, R145, R244: `phase.rel` with everything answered goes on after its releases, `phase.acq` empties the L1 of what is not dirty, `qfence` enters its fence as
the team's next post, and `publish` takes the lines that the launch has written from the read buffer and sends one FetchAdd, for which its group waits. That `phase.rel`
performs the wave's writes at once is log entry 19, and that `publish` drops the lines of the whole launch, where R311 speaks of the team's, is log entry 42: the model's
reading. -/
def Obligations.OrderInstructions : Prop :=
  ∀ (i : Instr) (k : Opcode) (h : Head) (p : Payload) (s : State) (e : Env) (a : Nat),
    Goes i (Tree.one k h p) s e → noCall h →
    (k = .phaseRel → ((s.drawn e).releaseWave e.loc.team e.loc.wave p.v).unanswered e.loc.team e.loc.wave p.v = [] →
      ((s.drawn e).releaseWave e.loc.team e.loc.wave p.v).acqOpen e = [] →
      Answers i s (fun u => Continues ((s.drawn e).releaseWave e.loc.team e.loc.wave p.v) u e)) ∧
    (k = .phaseAcq → s.flights = [] → e.team.lds = [] → Answers i s (fun u => Continues (if p.v ≥ 2 ∨ (p.v = 1 ∧ e.team.twin = true) then s.acquireL1 e.core else s) u e ∧
      (p.v ≥ 2 → ∀ l ∈ (u.core e.core).l1, l.valid = l.dirty))) ∧
    (k = .qfence → Answers i s (fun u => u.seqNo = s.seqNo + 1 ∧ (∀ x, s.team? e.loc.team = some x → ∃ y, u.team? e.loc.team = some y ∧
      y.fences = x.fences ++ [(s.seqNo, p.c.toNat % 64)] ∧ y.halves = x.halves) ∧ u.mem = (noted s e).mem ∧ u.flights = s.flights)) ∧
    (k = .publish → settled s e.loc.team = true → s.replaying e.team.serial = false → s.atomEn.contains (s.ctx e.team.ctx).fn = true → a % 8 = 0 → asks s e (Tree.one k h p) ≠ [] →
      (∀ q ∈ asks s e (Tree.one k h p), q.a = a) → e.loc.handler = false →
      Answers i s (fun u => u.hostAdds = s.hostAdds ++ [(s.nextId, a)] ∧ u.mem = (noted s e).mem ∧ u.hostMem = s.hostMem ∧
        (∀ b ∈ u.readBuf, ((s.launch? e.team.serial).elim [] (·.wrote)).contains b.line = false) ∧
        (∃ g, u.group? e.loc = some g ∧ g.st = .stalled ∧ g.wait = .fetchAdd s.nextId ∧ g.pc = e.g.pc)))

/-! ## System, handler and matrix instructions -/

namespace Sys2Proof.Claims

/-- The special registers of R32 and R214 for a group outside the handler: code, whether 64 bits wide, value. -/
def specials (s : State) (e : Env) : List (Nat × Bool × Nat) :=
  [(0x00, false, lowLane e.g.mask), (0x01, false, e.wave.idx), (0x02, false, e.team.xyz.1), (0x03, false, e.team.xyz.2.1), (0x04, false, e.team.xyz.2.2),
   (0x05, false, e.team.grid.1), (0x06, false, e.team.grid.2.1), (0x07, false, e.team.grid.2.2), (0x08, false, e.team.teamsz), (0x09, false, e.core),
   (0x0A, false, e.core / 24), (0x0B, false, e.team.serial % 2 ^ 32), (0x0C, false, e.team.ctx), (0x0D, true, s.clock.toNat), (0x0E, true, (s.core e.core).lreq.toNat),
   (0x0F, true, (s.core e.core).rreq.toNat), (0x10, false, e.g.fmt.toNat), (0x11, true, e.wave.gang.toNat), (0x12, true, s.ctxField e.team.ctx 384 64),
   (0x13, true, s.ctxField e.team.ctx 448 64), (0x20, false, (s.ctx e.team.ctx).cflags.toNat)]

/-- An instruction takes cause 0x05 in every lane: once the records are written the group stands TRAPPED and the handler runs (R95, R211). -/
def Refused5 (i : Instr) (h : Head) (s : State) (e : Env) : Prop :=
  Handled (exec i s) (recorded s e h.stall.toNat 0x05 0) e (causeRecs e 0x05 0 0 e.head.toNat)

end Sys2Proof.Claims

/-- R32, R209, R210, R214: `nopre`, `pre`, `capq`, `sread` and `swrite`, with the writes that need the handler and the PRIV attribute. Refused with cause 0x05 are `nopre` at
depth 15, a read of the handler's registers outside it, and a write of `%cflags` outside the handler or without PRIV; in the handler any cause fails the launch (R211). The fields that `swrite`
reaches stand in the context's record in memory, whose home answers (log entry 106, the model's choice where it does not). -/
def Obligations.SystemRegisters : Prop :=
  ∀ (i : Instr) (k : Opcode) (h : Head) (p : Payload) (s : State) (e : Env) (w : Wave),
    Goes i (Tree.one k h p) s e → noCall h → s.wave? e.loc.team e.loc.wave = some w →
    (k = .nopre → w.depth < 15 → Answers i s (fun u => Continues (s.modWave e.loc.team e.loc.wave (fun w =>
      { w with depth := w.depth + 1, regionAt := if w.depth = 0 then s.ns else w.regionAt })) u e)) ∧
    (k = .nopre → 15 ≤ e.wave.depth → e.loc.handler = false → e.lanes ≠ [] → Refused5 i h s e) ∧
    (k = .pre → Answers i s (fun u => Continues (s.modWave e.loc.team e.loc.wave (fun w => { w with depth := w.depth - 1 })) u e)) ∧
    (k = .capq → Answers i s (fun u => TakesD s u e p.d.toNat true (0x00040001 + Config.stepping.toNat * 2 ^ 32 + Config.instanceId.toNat * 2 ^ 48))) ∧
    (k = .sread → e.loc.handler = false → ∀ x ∈ specials s e, p.c.toNat = x.1 → Answers i s (fun u => TakesD s u e p.d.toNat x.2.1 x.2.2)) ∧
    (k = .sread → e.loc.handler = true → ∀ g ∈ w.trapQ.head?.bind (fun j => w.slots[j]?), ∀ x ∈ [(0x18, false, g.firstCause.1), (0x19, true, g.mask.toNat), (0x1A, true, g.pc.toNat), (0x1B, false, g.firstCause.2)],
      p.c.toNat = x.1 → Answers i s (fun u => TakesD s u e p.d.toNat x.2.1 x.2.2)) ∧
    (k = .sread → e.loc.handler = false → e.lanes ≠ [] → 0x18 ≤ p.c.toNat → p.c.toNat ≤ 0x1B → Refused5 i h s e) ∧
    (k = .swrite → ∀ a, asks s e (Tree.one k h p) ≠ [] → (∀ q ∈ asks s e (Tree.one k h p), q.a = a) →
      (p.c = 0x12 → (s.drawn e).recordUp e.team.ctx = true → Answers i s (fun u => Continues ((s.drawn e).devWrite 0 ((s.ctx e.team.ctx).addr + 48) (leBytes 8 a) false) u e)) ∧
      (p.c = 0x13 → (s.drawn e).recordUp e.team.ctx = true → Answers i s (fun u => Continues ((s.drawn e).devWrite 0 ((s.ctx e.team.ctx).addr + 56) (leBytes 8 a) false) u e)) ∧
      (p.c = 0x20 → e.loc.handler = true → s.ctxField e.team.ctx 864 8 % 2 = 1 →
        Answers i s (fun u => Continues (s.modCtx e.team.ctx (fun x => { x with cflags := BitVec.ofNat 32 (a % 16) })) u e)) ∧
      (p.c = 0x20 → e.loc.handler = false → e.lanes ≠ [] → Refused5 i h s e) ∧
      (p.c = 0x20 → e.loc.handler = true → s.ctxField e.team.ctx 864 8 % 2 = 0 → e.g.retried = false → ∀ l, s.launch? e.team.serial = some l → l.st.final = false →
        Answers i s (fun u => (∀ t ∈ u.teams, t.serial ≠ e.team.serial) ∧ ∃ y, u.launch? e.team.serial = some y ∧ y.st = .failed ∧ y.err = 0x05 ∧ y.detail = 0)))

/-- R28, R174, R158, R215: `fmt` and `fmt.m` set the `fmt` of the group, `gang` writes the gang register, or clears it, and `yield` excludes the groups of its lanes for 64
issue cycles; every one of them goes on at the next instruction. -/
def Obligations.GroupRegisters : Prop :=
  ∀ (i : Instr) (k : Opcode) (h : Head) (p : Payload) (s : State) (e : Env) (w : Wave) (a b : Word),
    Goes i (Tree.one k h p) s e → h.leaf.kind = .next → e.loc.handler = false → e.lanes ≠ [] → s.wave? e.loc.team e.loc.wave = some w → e.g.rcd = none →
    ((k = .fmt ∧ p.v = 0 ∨ k = .fmtM ∧ p.v = 1) → asks s e (Tree.one k h p) ≠ [] →
      (∀ q ∈ asks s e (Tree.one k h p), q.a = a.toNat ∧ q.b = b.toNat) →
      let x := if k = .fmt then a else (e.g.fmt &&& ~~~b) ||| (a &&& b)
      fmtOk x = true → Answers i s (fun u => WaveOnly s u e ∧ ∃ g, u.group? e.loc = some g ∧ g.fmt = x ∧ g.pc = e.retAddr (Tree.one k h p) ∧ g.mask = lanesMask e.lanes)) ∧
    (k = .gang → w.latch = none →
      let l := (List.range p.v).map (fun i => nbits (gangBits p) (7 * i) 7)
      (p.v = 0 → Answers i s (fun u => Continues (s.modWave e.loc.team e.loc.wave (fun w => { w with gang := 0 })) u e)) ∧
      (p.v ≠ 0 → ∀ n, l.idxOf? w.idx = some n → (∀ j ∈ l, ∃ y, e.team.waves[j]? = some y ∧ y.half = w.half ∧ y.left = false) →
        Answers i s (fun u => Continues (s.modWave e.loc.team e.loc.wave (fun w => { w with gang := BitVec.ofNat 64 (gangBits p + p.v * 2 ^ 42 + n * 2 ^ 45) })) u e))) ∧
    (k = .yield → Answers i s (fun u => WaveOnly s u e ∧ (∀ j, laneAt u e.loc j = laneAt s e.loc j) ∧
      ∃ g, u.group? e.loc = some g ∧ g.pc = e.retAddr (Tree.one k h p) ∧ g.yieldTill = e.cyc + e.cycles + 64))

/-- R212: `lget` and `lset` in the handler: a register of a lane of the wave, its full bit and error mark, and the write that sets it full. -/
def Obligations.LanesFromTheHandler : Prop :=
  ∀ (i : Instr) (k : Opcode) (h : Head) (p : Payload) (s : State) (e : Env) (w : Wave) (lane a : Nat) (l : Lane) (x : VReg),
    Goes i (Tree.one k h p) s e → h.leaf.kind = .next → e.loc.handler = true → s.wave? e.loc.team e.loc.wave = some w → lane < w.width → w.lanes[lane]? = some l →
    asks s e (Tree.one k h p) ≠ [] → e.team.lds = [] → p.c.toNat < 0xC0 → l.v[p.c.toNat]? = some x →
    (k = .lget → (∀ q ∈ asks s e (Tree.one k h p), q.a = lane) →
      (p.v = 0 → Answers i s (fun u => TakesD s u e p.d.toNat false x.val.toNat)) ∧
      (p.v = 2 → Answers i s (fun u => TakesD s u e p.d.toNat false ((if x.empty then 0 else 1) + x.mark.toNat * 256)))) ∧
    (k = .lset → (∀ q ∈ asks s e (Tree.one k h p), q.a = a ∧ q.b = lane) → p.v = 0 → x.empty = false →
      Answers i s (fun u => Continues (s.modWave e.loc.team e.loc.wave (fun w => { w with lanes := modNth w.lanes lane (fun l => l.write p.c.toNat false a) })) u e))

/-- R87, R211, R213: the return. `eret` naming every trapped lane makes them one READY group at the target, or at the head, whose records are gone, and the handler fragment
ends; `eret.exit` makes them exit. That the returned group stands in the slot of the trapped one is log entry 28, the model's reading of R213. -/
def Obligations.ReturnsFromTheHandler : Prop :=
  ∀ (i : Instr) (k : Opcode) (h : Head) (p : Payload) (s : State) (e : Env) (w : Wave) (n : Nat) (g : Group) (q : MReq) (r : List MReq),
    Goes i (Tree.one k h p) s e → e.loc.handler = true → s.wave? e.loc.team e.loc.wave = some w → w.trapQ = [n] → w.slots[n]? = some g → g.mask ≠ 0 → g.rcd = none →
    asks s e (Tree.one k h p) = q :: r →
    let m : DWord := BitVec.ofNat 64 (if w.width = 64 then q.a else q.a % 2 ^ 32)
    g.mask &&& ~~~m = 0 →
    (k = .eret →
      let at_ : DWord := if p.b = 0xD2 then g.pc else BitVec.ofNat 64 q.b
      Answers i s (fun u => ∃ v, u.wave? e.loc.team e.loc.wave = some v ∧ v.handler = none ∧ v.trapQ = [] ∧ v.lanes = w.lanes ∧ v.s = w.s ∧
        (∃ x, v.slots[n]? = some x ∧ x.st = .ready ∧ x.mask = g.mask ∧ x.pc = at_ ∧ x.recs = [] ∧ x.fmt = g.fmt ∧ x.rcd = none) ∧
        (∀ k, k ≠ n → v.slots[k]? = w.slots[k]?) ∧ u.mem = (noted s e).mem)) ∧
    (k = .eretExit → w.meets = [] → w.left = false → (∃ j, j ≠ n ∧ j < w.slots.length ∧ (w.group j).st ≠ .free ∧ (w.group j).mask &&& g.mask = 0 ∧ (w.group j).rcd = none) →
      w.recs = List.replicate 32 {} →
      Answers i s (fun u => ∃ v, u.wave? e.loc.team e.loc.wave = some v ∧ v.handler = none ∧ v.trapQ = [] ∧ v.lanes = w.lanes ∧ v.exited = w.exited ||| g.mask ∧
        (v.group n).st = .free ∧ u.mem = (noted s e).mem))

namespace Sys2Proof.Claims

/-- The entry of the team's next post, of a wave whose next transaction would have the number `n`. -/
def nextPost (s : State) (e : Env) (n : Nat) (w : Work) : Entry := { seq := s.seqNo, half := e.wave.half, wave := e.wave.idx, since := n, work := w }

/-- The queue of matrix entries of the half of the issuing wave. -/
def qmatOf (s : State) (e : Env) : Option (List Entry) := (halfOf s e).map (·.qmat)

end Sys2Proof.Claims

/-- R151, R152, R168 to R171, R173: `mmld`, `mmst` and `cbld` from the scratchpad enter an entry each as the team's next post; `mmz` and `mmstat` whose turn it is are performed:
the band is zero with clear flags, and D holds the flags and the ELQ count. That these two are performed at once when it is their turn is log entry 47, the model's reading. -/
def Obligations.BandInstructions : Prop :=
  ∀ (i : Instr) (k : Opcode) (h : Head) (p : Payload) (s : State) (e : Env) (x : Half) (a st : Nat) (x0 : Team),
    Goes i (Tree.one k h p) s e → noCall h → e.lanes ≠ [] → e.loc.handler = false → settled s e.loc.team = true → halfOf s e = some x → s.team? e.loc.team = some x0 →
    asks s e (Tree.one k h p) ≠ [] →
    let code := p.c.toNat % 16; let n := 128 * bandBytes code
    ((k = .mmld ∨ k = .mmst) → (∀ q ∈ asks s e (Tree.one k h p), q.a = a ∧ rowStride p q = st) → p.v = 1 → a % 16 = 0 → st % 16 = 0 → a + (31 * st + n) ≤ e.team.scrSize →
      (k = .mmst → (s.ctx e.team.ctx).susTrap = false ∧ (nth {} x.bands p.band).trap = false) →
      Answers i s (fun u => u.seqNo = s.seqNo + 1 ∧
        qmatOf u e = some (x.qmat ++ [nextPost s e s.nextId (if k = .mmld then .mmld p.band code a st p.d.toNat e.loc.wave true e.lanes else .mmst p.band code a st e.loc.wave true e.g.fmt)]) ∧
        ∀ j, laneAt u e.loc j = if k = .mmld ∧ j ∈ e.lanes then (laneAt s e.loc j).map (fun l => l.setEmpty p.d.toNat) else laneAt s e.loc j)) ∧
    (k = .mmz → x.qmat = [] → x0.fences = [] → p.band < x.bands.length →
      Answers i s (fun u => u.seqNo = s.seqNo + 1 ∧ ∃ y, halfOf u e = some y ∧ y.qmat = [] ∧ y.bands[p.band]? = some {} ∧ ∀ b, b ≠ p.band → y.bands[b]? = x.bands[b]?)) ∧
    (k = .mmstat → x.qmat = [] → x0.fences = [] → p.d.toNat + 1 < 0xC0 →
      Answers i s (fun u => qmatOf u e = some [] ∧ ∀ j, laneAt u e.loc j =
        if j ∈ e.lanes then (laneAt s e.loc j).map (fun l => (l.setReg p.d.toNat (loWord (nth {} x.bands p.band).stat)).setReg (p.d.toNat + 1) (hiWord (nth {} x.bands p.band).stat))
        else laneAt s e.loc j)) ∧
    (k = .cbld → (∀ q ∈ asks s e (Tree.one k h p), q.a = a) → p.v = 1 → a % 32 = 0 → a + 32 ≤ e.team.scrSize →
      Answers i s (fun u => qmatOf u e = some (x.qmat ++ [nextPost s e (s.nextId + 1) (.cbld (p.c.toNat % 8) a e.loc.wave s.nextId true)]) ∧
        ∃ g, u.group? e.loc = some g ∧ g.st = .stalled ∧ g.wait = .cbld s.nextId ∧ g.pc = e.g.pc))

/-- R155 to R159: `mma` and `mmx` with handles in use whose tensors fit. Of a gang of two waves, the one that arrives last enters the joint operation of both, with the members in the
order of the gang, and both go on; one whose gang has another wave that has not arrived waits at the latch. -/
def Obligations.MatrixOperationsMeet : Prop :=
  ∀ (i : Instr) (k : Opcode) (h : Head) (p : Payload) (s : State) (e : Env) (x : Half) (q : MReq) (r : List MReq) (ta tb : Tensor),
    let ha := q.a % 2 ^ 32; let hb := q.a / 2 ^ 32 % 2 ^ 32; let ca := q.b % 2 ^ 32; let cb := q.b / 2 ^ 32 % 2 ^ 32
    (k = .mma ∨ k = .mmx) → Goes i (Tree.one k h p) s e → noCall h → e.loc.handler = false → e.loc.wave = e.wave.idx → e.wave.left = false → asks s e (Tree.one k h p) = q :: r →
    s.handle? e.team.ctx ha = some ta → s.handle? e.team.ctx hb = some tb →
    operandFits ta (p.c.toNat / 16) 32 (kOf (k == .mmx) (p.c.toNat / 16)) ca = true → operandFits tb (p.c.toNat % 16) 128 (kOf (k == .mmx) (p.c.toNat / 16)) cb = true →
    e.wave.latch = none → halfOf s e = some x →
    (∀ (n : Nat) (y : Wave) (z : LatchArr) (g : Group), n ≠ e.wave.idx → gangList e.wave.gang = [min n e.wave.idx, max n e.wave.idx] → y.gang.toNat % 2 ^ 45 = e.wave.gang.toNat % 2 ^ 45 →
      s.wave? e.loc.team n = some y → y.idx = n → y.half = e.wave.half → y.left = false → y.latch = some z → z.pd.op = k → z.pd.p.v = p.v → z.pd.p.c = p.c → z.hb = hb → z.tb = tb → z.cb = cb →
      z.pd.p.band ≠ p.band → y.slots[z.pd.slot]? = some g → g.st = .meeting → z.pd.h.leaf.kind = .next →
      (∀ j ∈ maskLanes y.width g.mask, ∃ d, z.pd.succ.find? (fun w => w.1 == j) = some (j, some d)) → settled s e.loc.team = true →
      let mine : Member := { wave := e.wave.idx, band := p.band, ta := ta, ca := ca }; let other : Member := { wave := n, band := z.pd.p.band, ta := z.ta, ca := z.ca }
      Answers i s (fun u => u.seqNo = s.seqNo + 1 ∧
        qmatOf u e = some (x.qmat ++ [nextPost s e s.nextId (.joint (k == .mmx) p.v p.c.toNat tb cb (if n < e.wave.idx then [other, mine] else [mine, other]))]) ∧
        (∃ w, u.wave? e.loc.team e.loc.wave = some w ∧ w.latch = none) ∧ (∃ w, u.wave? e.loc.team n = some w ∧ w.latch = none ∧ w.lanes = y.lanes) ∧
        ∀ j, laneAt u e.loc j = laneAt s e.loc j)) ∧
    (∀ n y, n ∈ gangList e.wave.gang → n ≠ e.wave.idx → e.team.waves[n]? = some y → y.latch = none →
      (∀ j ∈ gangList e.wave.gang, ∃ z, e.team.waves[j]? = some z ∧ z.half = e.wave.half ∧ z.left = false) →
      Answers i s (fun u => qmatOf u e = some x.qmat ∧ (∃ g, u.group? e.loc = some g ∧ g.st = .meeting ∧ g.wait = .latch ∧ g.pc = e.g.pc ∧ g.mask = e.g.mask) ∧
        ∃ w z, u.wave? e.loc.team e.loc.wave = some w ∧ w.latch = some z ∧ z.ta = ta ∧ z.ca = ca ∧ z.tb = tb ∧ z.cb = cb))

/-- R154, R155: `seal` of a record in the scratchpad starts its read, which sees the wave's committed stores, and for which the group waits; `hdrop` releases the slot: its generation has risen, 255 to 1, and the handle is in use
no more; and at SEAL_READ_COMPLETE a record that meets every row of the checks takes the first free slot, whose handle every lane's D holds. Which
free slot a seal takes, R154 and R155 leave open: the first is log entry 7, the model's choice. -/
def Obligations.SealsAndHandles : Prop :=
  (∀ (i : Instr) (h : Head) (p : Payload) (s : State) (e : Env) (a : Nat),
    Goes i (Tree.one .seal h p) s e → e.loc.handler = false → asks s e (Tree.one .seal h p) ≠ [] → (∀ q ∈ asks s e (Tree.one .seal h p), q.a = a) → p.v = 1 → a % 16 = 0 →
    a + 64 ≤ e.team.scrSize →
    Answers i s (fun u => IssueOnly { s with nextId := s.nextId + 1 } e u ∧ (∀ j, laneAt u e.loc j = laneAt s e.loc j) ∧
      (halfOf u e).map (·.scr) = (halfOf (s.flushScr e.loc.team e.loc.wave) e).map (·.scr) ∧
      ∃ g, u.group? e.loc = some g ∧ g.st = .stalled ∧ g.wait = .sealRead s.nextId ∧ g.pc = e.g.pc)) ∧
  (∀ (i : Instr) (h : Head) (p : Payload) (s : State) (e : Env) (a : Nat) (x : SealSlot),
    Goes i (Tree.one .hdrop h p) s e → noCall h → asks s e (Tree.one .hdrop h p) ≠ [] → (∀ q ∈ asks s e (Tree.one .hdrop h p), q.a = a) → a < 2 ^ 32 →
    (s.ctx e.team.ctx).seals[a % 2 ^ 24]? = some x → x.tensor.isSome = true → x.gen = a / 2 ^ 24 → e.team.ctx < s.ctxs.length →
    Answers i s (fun u => u.handle? e.team.ctx a = none ∧ (u.ctx e.team.ctx).seals[a % 2 ^ 24]? = some { gen := if x.gen = 255 then 1 else x.gen + 1, tensor := none } ∧
      (u.ctx e.team.ctx).released = (s.ctx e.team.ctx).released ++ [(a % 2 ^ 24, s.seqNo)] ∧ ∀ n, n ≠ a % 2 ^ 24 → (u.ctx e.team.ctx).seals[n]? = (s.ctx e.team.ctx).seals[n]?)) ∧
  (∀ (s : State) (id : Nat) (x : HPend) (tm : Team) (w : Wave) (y : Half) (g : Group),
    s.pend? id = some (tm.id, w.idx, x) → s.team? tm.id = some tm → tm.waves[w.idx]? = some w → w.slots[x.slot]? = some g → g.st = .stalled → g.rcd = none → g.mask ≠ 0 →
    tm.halves[w.half]? = some y → x.op = .seal → x.p.v = 1 → x.h.leaf.kind = .next → x.p.d.toNat < 0xC0 → tm.ctx < s.ctxs.length →
    (∀ j ∈ maskLanes w.width g.mask, ∃ d, x.succ.find? (fun z => z.1 == j) = some (j, some d)) →
    sealStatus (y.scr.nat ((x.vals.head?).getD 0) 64) tm.scrSize tm.twin = 0 → (s.ctx tm.ctx).seals.length < 65536 →
    let hd := 2 ^ 24 + (s.ctx tm.ctx).seals.length
    Answers (.sealReadComplete id {}) s (fun u => u.handle? tm.ctx hd = some (Tensor.of (y.scr.nat ((x.vals.head?).getD 0) 64)) ∧
      ∀ j ∈ maskLanes w.width g.mask, ∀ l, w.lanes[j]? = some l → ∃ z, (u.wave? tm.id w.idx).bind (fun z => z.lanes[j]?) = some z ∧ z.o = l.o ∧ z.v = l.v.set x.p.d.toNat ⟨loWord hd, false, 0⟩))

/-! ## The turns of the engines, the stack engine and the array -/

namespace Sys2Proof.Claims

/-- Has a team a wave that has not left its core? Then it stays there (R87). -/
def staying (t : Team) : Bool := t.waves.any (fun w => !w.left)

/-- Does a byte lie outside a range? -/
def outside (a lo n : Nat) : Prop := a < lo ∨ lo + n ≤ a

end Sys2Proof.Claims

/-- R193, R194, R198, R205, R250, R251, R259: turns of the copy, index and work-list engines. A copy of one line in the scratchpad moves its bytes and leaves the ring; an element
beyond the bound gets FILL; a pushed coordinate enters the front; and a team whose waves have left and whose fronts are empty leaves its core. -/
def Obligations.EnginesTakeTurns : Prop :=
  (∀ (s : State) (core h : Nat) (t : Team) (y : Half) (r : Ring) (x : QSlot),
    s.nextTeam core 0 (fun t y => y.copyReady t) = some (t, h) → s.team? t.id = some t → t.halves[h]? = some y → staying t = true → y.ring = some r → r.ents = [x] →
    y.prog = 0 → y.ended = false → y.bars = [] → Sparse.wf y.scr = true → s.flights = [] → x.ctr = none →
    let c := Copy.of x.val
    c.form = 0 → c.ssp = 0 → c.dsp = 0 → c.bar = none → c.src % 128 = 0 → 0 < c.len → c.len ≤ 128 → c.src + c.len ≤ 2 ^ 32 → c.dst + c.len ≤ 2 ^ 32 →
    Answers (.copyEngineTurn core) s (fun u => ∃ z, u.half? t.id h = some z ∧ z.ring = some { r with head := (r.head + 1) % 2 ^ 32, ents := [] } ∧ z.prog = 0 ∧
      ∀ a, outside a (r.base + 32 * (r.head % r.depth)) 32 → outside a r.ctl 16 →
        Sparse.read z.scr a = if c.dst ≤ a ∧ a < c.dst + c.len then Sparse.read y.scr (c.src + (a - c.dst)) else Sparse.read y.scr a)) ∧
  (∀ (s : State) (core h lane x bar ew soff fill bound base : Nat) (t : Team) (y : Half) (e : Entry),
    s.nextTeam core 1 (fun t y => y.replay != 0 || (match y.idxNext with | some e => t.mayStart 1 e.seq | none => false)) = some (t, h) → y.replay = 0 → s.flights = [] → s.team? t.id = some t → t.halves[h]? = some y →
    staying t = true → y.qidx = [e] → y.bars = [] → e.held = none → e.done = 0 → e.vals = [] → barOf bar = none → bound ≤ x →
    e.work = .index false ew bar soff fill bound base [(lane, x)] →
    Answers (.indexEngineTurn core) s (fun u => ∃ z, u.half? t.id h = some z ∧ z.qidx = [] ∧
      z.scr = Sparse.writeList y.scr (soff + 4 * (ew + 1) * lane) (List.replicate (ew + 1) (leBytes 4 fill)).flatten)) ∧
  (∀ (s : State) (core h i c : Nat) (t : Team) (y : Half) (e : Entry) (r : Ring),
    s.nextTeam core 3 (fun t y => match y.qwl with | e :: _ => e.held.isNone && t.mayStart 5 e.seq | [] => false) = some (t, h) → s.team? t.id = some t →
    t.halves[h]? = some y → staying t = true → y.qwl = [e] → e.done = 0 → e.vals = [] → e.work = .wlpush false i [c] → y.front i = some r → r.room ≠ 0 →
    Answers (.worklistEngineTurn core) s (fun u => ∃ z, u.half? t.id h = some z ∧ z.qwl = [] ∧
      z.front i = some { r with tail := (r.tail + 1) % 2 ^ 32, ents := r.ents ++ [{ seq := 0, val := c }] })) ∧
  (∀ (s : State) (x : Team),
    s.team? x.id = some x → x.place = .resident → x.waves.all (·.left) = true → x.halves.all (fun y => y.idle && y.drain.isNone) = true →
    Answers (.worklistFrontDrain x.id) s (fun u => u.team? x.id = none ∧ u.mem = s.mem ∧
      ∀ l, s.launch? x.serial = some l → u.launch? x.serial = some { l with exited := l.exited ++ [x.t] }))

namespace Sys2Proof.Claims

/-- The module has no transaction under way, no watch is armed, and no L1 holds a line. -/
def calm (s : State) : Prop := s.flights = [] ∧ (∀ t ∈ s.teams, t.watches = []) ∧ ∀ c ∈ s.cores, c.l1 = []

/-- An engine reads `n` bytes of one line at a virtual address: its page is present and no majority page, its home answers and is not poisoned (R126, R322, R336). -/
def readsAt (s : State) (c va n : Nat) (p : Page) : Prop :=
  s.xlate c va false = .ok p ∧ p.kind ≠ 3 ∧ s.up p (p.phys va) = true ∧ s.poisoned (p.phys va) n = false ∧ va % 128 + n ≤ 128

/-- An engine of a launch writes `n` bytes of one line at a virtual address: its page may be written, its home answers, its line holds no poison that
the write would leave there, and the page is in the launch's writable set where that is replayable (R126, R127, R271, R336). -/
def writesAt (s : State) (c serial va n : Nat) (p : Page) : Prop :=
  s.xlate c va true = .ok p ∧ p.kind ≠ 3 ∧ s.up p (p.phys va) = true ∧ s.partPoison (p.phys va) n = false ∧ va % 128 + n ≤ 128 ∧ inSet s serial (p.phys va) = true

/-- Byte `a` of device memory after a value has been written at an address in `n` bytes. -/
def wrote (m : Mem) (lo n v a : Nat) (old : Byte) : Byte := if lo ≤ a ∧ a < lo + n then BitVec.ofNat 8 (v / 256 ^ (a - lo)) else old

/-- The scratchpad after a credit of a barrier, if there is one (R184). -/
def credited (m : Mem) (bar : Option Nat) (n : Nat) : Mem := match bar with | none => m | some b => ((Bar.read m b).credit n).put m b

end Sys2Proof.Claims

/-- R141, R142, R201, R202, R203, R258: turns of the binning engine and the stack engines. A pair whose bin has room is written into its slot and TAIL advances; the pair
leaves the staging area with its entry. An explicit replay of a region of one element, with one pair pending, reads the element into SREG, applies the pair, writes the
element back, sets DONE to TAIL and credits four bytes. An `smv` entry of one row adds the row's products to the element of y, rounded once, credits its barrier and leaves. -/
def Obligations.BinsAndRows : Prop :=
  (∀ (s : State) (core h x z : Nat) (t : Team) (y : Half) (e : Entry) (d : BinSet) (r : Ring) (p q : Page),
    s.nextTeam core 2 (fun t y => match y.qbin with | e :: _ => e.held.isNone && t.mayStart 2 e.seq | [] => false) = some (t, h) → s.team? t.id = some t →
    t.halves[h]? = some y → staying t = true → y.qbin = [e] → e.work = .bput d [(x, z)] → e.done = 0 → e.vals = [] → y.bins = some r → calm s → Memory.wf s.mem = true →
    let b := d.binAddr (x / 2 ^ d.rsl); let tail := Mem.nat s.mem (p.phys b) 8; let done := Mem.nat s.mem (p.phys b + 8) 8
    let a := b + 64 + 8 * (tail % d.cap); let pair := x + z * 2 ^ 32
    readsAt s t.ctx b 16 p → writesAt s t.ctx t.serial b 8 p → writesAt s t.ctx t.serial a 8 q →
    (s.devWrite t.serial (q.phys a) (leBytes 8 pair) false).xlate t.ctx b true = .ok p → tail - done < d.cap →
    Answers (.binEngineTurn core) s (fun u =>
      (∃ k, u.half? t.id h = some k ∧ k.qbin = [] ∧ k.bins = some { r with head := (r.head + 1) % 2 ^ 32, ents := r.ents.drop 1 }) ∧
      ∀ m, Sparse.read u.mem m = wrote s.mem (p.phys b) 8 (tail + 1) m (wrote s.mem (q.phys a) 8 pair m (Sparse.read s.mem m)))) ∧
  (∀ (s : State) (core h g : Nat) (t : Team) (y : Half) (e : Entry) (d : BinSet) (p q o : Page),
    s.nextTeam core 2 (fun t y => match y.qbin with | e :: _ => e.held.isNone && t.mayStart 2 e.seq | [] => false) = some (t, h) → s.team? t.id = some t →
    t.halves[h]? = some y → staying t = true → y.qbin = [e] → e.work = .bplay d g → e.vals = [] → y.bars = [] → calm s → Memory.wf s.mem = true →
    (∀ t ∈ s.teams, ∀ k ∈ t.halves, ∀ z ∈ k.qbin, z.lock = none) → d.count = g * 2 ^ d.rsl + 1 →
    let b := d.binAddr g; let tail := Mem.nat s.mem (p.phys b) 8; let done := Mem.nat s.mem (p.phys b + 8) 8
    let a := d.elemAddr (g * 2 ^ d.rsl); let c := b + 64 + 8 * (done % d.cap)
    let pair := Mem.nat s.mem (o.phys c) 8; let old := Mem.nat s.mem (q.phys a) 4; let new := d.apply old (pair / 2 ^ 32)
    readsAt s t.ctx b 16 p → readsAt s t.ctx a 4 q → readsAt s t.ctx c 8 o → tail = done + 1 → pair % 2 ^ 32 = g * 2 ^ d.rsl →
    writesAt s t.ctx t.serial a 4 q → writesAt s t.ctx t.serial (b + 8) 8 p → (s.devWrite t.serial (q.phys a) (leBytes 4 new) false).xlate t.ctx (b + 8) true = .ok p →
    Answers (.bplayPerform core) s (fun u =>
      (∃ k, u.half? t.id h = some k ∧ k.qbin = [] ∧
        k.scr = credited (Sparse.writeList (Sparse.writeList y.scr d.sreg (leBytes 4 old)) d.sreg (leBytes 4 new)) (barOf d.bar) 4) ∧
      ∀ m, Sparse.read u.mem m = wrote s.mem (p.phys (b + 8)) 8 tail m (wrote s.mem (q.phys a) 4 new m (Sparse.read s.mem m)))) ∧
  (∀ (s : State) (t h row bar : Nat) (x : Team) (z : Half) (e : Entry) (w y : Tensor) (xs : List (Nat × Nat)) (l : List Nat) (q : Page) (pg : Nat → Page),
    s.team? t = some x → x.firstOf (·.qstack) = some (h, e) → x.halves[h]? = some z → z.qstack = [e] → staying x = true → x.place = .resident → e.held = none →
    x.mayStart 3 e.seq = true → e.done = 0 → e.work = .smv w y row 1 bar 0 xs → calm s → Memory.wf s.mem = true → s.rowStacks x.ctx w row 1 = .ok l → l.length ≤ 1 →
    let k := (codeBits w.fmt + 7) / 8; let at_ := fun (c : Nat) => w.byteAddr row (k * c); let a := y.base + 4 * row
    let terms := (xs.filter (fun v => decide (v.1 < w.cols))).map (fun v => smvTerm w.fmt (Mem.nat s.mem ((pg v.1).phys (at_ v.1)) k) v.2)
    let new := (writeF .f32 .rne false false (Machine.Num.add .rne (FFmt.f32.read (Mem.nat s.mem (q.phys a) 4)) (Machine.Num.sum .rne terms).1).1).1
    0 < k → (∀ v ∈ xs, v.1 < w.cols → readsAt s x.ctx (at_ v.1) k (pg v.1)) → readsAt s x.ctx a 4 q → writesAt s x.ctx x.serial a 4 q →
    (∃ p, (s.devWrite x.serial (q.phys a) (leBytes 4 new) false).xlate x.ctx a false = .ok p ∧ p.kind ≠ 3) →
    Answers (.stackEngineSmv t) s (fun u =>
      (∃ k, u.half? t h = some k ∧ k.qstack = [] ∧ k.scr = credited z.scr (if bar = 2 ^ 32 - 1 then none else some bar) 4) ∧
      ∀ m, Sparse.read u.mem m = wrote s.mem (q.phys a) 4 new m (Sparse.read s.mem m)))

namespace Sys2Proof.Claims

/-- Rounded to FP32, to nearest (R50). -/
def rne (v : Machine.Num) : Nat := (writeF .f32 .rne false false v).1

/-- The exact sum of a list, and of a running value and a number (R49). -/
def exactSum (l : List Machine.Num) : Machine.Num := (Machine.Num.sum .rne l).1
def plus (acc : Nat) (v : Machine.Num) : Machine.Num := (Machine.Num.add .rne (FFmt.f32.read acc) v).1

/-- An output of a joint operation and the flags that it sets: as it was in a skipped quarter (R164), one rounding over all of K where a tile is constant (R166), else the
sequence of R49, in an identity quarter too (R165). -/
def output (sem : Nat) (int : Bool) (c : Nat) (zero : Bool) (const : Option (Machine.Num × Bool)) (a b : List Machine.Num) (acc : Nat) : Nat × Exc :=
  if zero then (acc, {}) else match const with
  | some (v, true) => cellConst int v b acc
  | some (v, false) => cellConst int v a acc
  | none => cell sem int c a b acc

end Sys2Proof.Claims

/-- R49, R50, R157, R163 to R167, R169, R170, R173, R175: turns of the array. A joint operation of one member updates every element of the band from its row of A and row of B,
quarter by quarter: a quarter that is zero class against a finite tile is skipped, a constant one rounds once where the context allows, any other takes the sequence of R49;
the flags are sticky, ELQ counts the quarters elided, and no suspect is found where none is computed in full. When all four are skipped nothing is fetched.
R49, R50, R166: the cells: a chunk of exact products is summed exactly and rounded once into the running value, in ascending chunks; with INT8 it wraps modulo 2^32; the other
semirings take the least, the greatest, or one; a NaN writes 0x7FC0_0000, and infinity times zero sets the invalid flag too; a constant rounds once over all of K.
`mmld` of raw words from the scratchpad fills the band and D with 0; `mmst` stores its rows in order; `cbld` sets the codebook. The order in which an array serves entries is log entry 47, the
model's reading. -/
def Obligations.ArrayTakesTurns : Prop :=
  (∀ (sem c : Nat) (int : Bool) (a1 a2 b1 b2 : List Machine.Num) (acc : Nat),
    0 < c → a1.length = c → b1.length = c → a2.length = b2.length →
    (cell sem int c (a1 ++ a2) (b1 ++ b2) acc).1 = (cell sem int c a2 b2 (cell sem int c a1 b1 acc).1).1) ∧
  (∀ (a b : List Machine.Num) (acc : Nat), a ≠ [] → a.length = b.length → acc < 2 ^ 32 →
    let c := a.length; let prod := (a.zip b).map (fun x => (Machine.Num.mul x.1 x.2).1); let sums := (a.zip b).map (fun x => (Machine.Num.add .rne x.1 x.2).1)
    let least (mx : Bool) (l : List Machine.Num) : Machine.Num := l.tail.foldl (Machine.Num.minmax mx) (l.headD .nan)
    (cell 0 false c a b acc).1 = rne (plus acc (exactSum prod)) ∧
    (cell 0 true c a b acc).1 = ((toSigned 32 acc + (a.zip b).foldl (fun (n : Int) (x : Machine.Num × Machine.Num) => n + x.1.toInt .rtz * x.2.toInt .rtz) (0 : Int)) % 2 ^ 32).toNat ∧
    (cell 1 false c a b acc).1 = rne (Machine.Num.minmax false (FFmt.f32.read acc) (least false sums)) ∧
    (cell 2 false c a b acc).1 = rne (Machine.Num.minmax true (FFmt.f32.read acc) (least true sums)) ∧
    (cell 3 false c a b acc).1 = rne (Machine.Num.minmax true (FFmt.f32.read acc) (least true prod)) ∧
    (cell 4 false c a b acc).1 = (if (FFmt.f32.read acc).isZero = false ∨ ∃ x ∈ a.zip b, x.1.isZero = false ∧ x.2.isZero = false then 0x3F800000 else acc) ∧
    ((∃ x ∈ a.zip b, x.1 = .nan ∨ x.2 = .nan) → (cell 0 false c a b acc).1 = 0x7FC00000) ∧
    ((∃ x ∈ a.zip b, (x.1 = .inf false ∨ x.1 = .inf true) ∧ x.2.isZero = true) → (cell 0 false c a b acc).1 = 0x7FC00000 ∧ (cell 0 false c a b acc).2.inv = true) ∧
    ∀ v, (cellConst false v b acc).1 = rne (plus acc (Machine.Num.mul v (exactSum b)).1)) ∧
  (∀ (s : State) (core h : Nat) (t : Team) (y : Half) (e : Entry),
    s.nextMat core = some (t, h, e) → s.team? t.id = some t → t.halves[h]? = some y → y.qmat = [e] → staying t = true → y.bars = [] →
    (∀ (v codes cb : Nat) (tb : Tensor) (m : Member) (b : Band), e.work = .joint false v codes tb cb [m] → y.bands[m.band]? = some b →
      let col (x : Nat) : Nat := kOf false (codes / 16) * (x / 65536 % 65536)
      (∀ q, q < 4 → dirClass (s.tileEntry t.ctx tb (128 * (cb % 65536) + 32 * q) (col cb * slotBits tb.fmt / 8)) = 1) →
      dirFin (s.tileEntry t.ctx m.ta (32 * (m.ca % 65536)) (col m.ca * slotBits m.ta.fmt / 8)) = true → (∀ c ∈ s.cores, c.l1 = []) →
      Answers (.matrixJointOperation core) s (fun u => ∃ z, u.half? t.id h = some z ∧ z.qmat = [] ∧ z.bands[m.band]? = some { b with elq := min (2 ^ 32 - 1) (b.elq + 4) } ∧
        (∀ n, n ≠ m.band → z.bands[n]? = y.bands[n]?) ∧ u.mem = s.mem)) ∧
    (∀ (mmx : Bool) (v codes cb : Nat) (tb : Tensor) (m : Member) (b : Band) (oa ob : Operand), e.work = .joint mmx v codes tb cb [m] → y.bands[m.band]? = some b →
      (∀ c ∈ s.cores, c.l1 = []) →
      let fa := codes / 16; let k := kOf mmx fa; let sem := if mmx then v else 0; let int := decide (fa = 8 ∧ codes % 16 = 8)
      let col (x : Nat) : Nat := k * (x / 65536 % 65536)
      let eA := s.tileEntry t.ctx m.ta (32 * (m.ca % 65536)) (col m.ca * slotBits m.ta.fmt / 8)
      let eB (q : Nat) : Nat := s.tileEntry t.ctx tb (128 * (cb % 65536) + 32 * q) (col cb * slotBits tb.fmt / 8)
      let skipped (q : Nat) : Bool := (sem == 0 || sem == 4) && (dirClass eA == 1 && dirFin (eB q) || dirClass (eB q) == 1 && dirFin eA)
      let same (q : Nat) : Bool := sem == 0 && dirClass eA == 3 && dirFin (eB q)
      let const (q : Nat) : Option (Machine.Num × Bool) :=
        if sem = 0 ∧ same q = false ∧ (s.ctx t.ctx).reassoc = true then
          (if dirClass eA = 2 ∧ dirFin (eB q) = true then some (dirConst m.ta.fmt eA, true)
           else if dirClass (eB q) = 2 ∧ dirFin eA = true then some (dirConst tb.fmt (eB q), false) else none)
        else none
      let elided (q : Nat) : Bool := skipped q || same q || (const q).isSome
      let out (i j : Nat) : Nat × Exc := output sem int (chunkOf mmx fa) (skipped (j / 32)) (const (j / 32)) (nth [] oa.rows i) (nth [] ob.rows j) (nth 0 b.dense (128 * i + j)).toNat
      (∃ q, q < 4 ∧ skipped q = false) → s.operand t h tb (128 * (cb % 65536)) 128 (col cb) k = .ok (ob, s) → s.operand t h m.ta (32 * (m.ca % 65536)) 32 (col m.ca) k = .ok (oa, s) →
      Answers (.matrixJointOperation core) s (fun u => ∃ z b1, u.half? t.id h = some z ∧ z.qmat = [] ∧ z.bands[m.band]? = some b1 ∧ (∀ n, n ≠ m.band → z.bands[n]? = y.bands[n]?) ∧
        (∀ i j, i < 32 → j < 128 → (nth 0 b1.dense (128 * i + j)).toNat = (out i j).1 % 2 ^ 32) ∧
        (b1.nv = true ↔ b.nv = true ∨ ∃ i j, i < 32 ∧ j < 128 ∧ (out i j).2.inv = true) ∧
        (b1.of = true ↔ b.of = true ∨ ∃ i j, i < 32 ∧ j < 128 ∧ (out i j).2.of = true) ∧
        (b1.uf = true ↔ b.uf = true ∨ ∃ i j, i < 32 ∧ j < 128 ∧ (out i j).2.uf = true) ∧
        b1.elq = min (2 ^ 32 - 1) (b.elq + ((List.range 4).filter elided).length) ∧
        ((sem ≠ 0 ∨ ∀ q, q < 4 → elided q = true) → b1.sus = b.sus ∧ u.mem = s.mem))) ∧
    (∀ (band addr stride dest wave lane : Nat) (l : Lane), e.work = .mmld band 0xA addr stride dest wave true [lane] → band < y.bands.length → addr + 31 * stride < 2 ^ 64 →
      (s.wave? t.id wave).bind (fun w => w.lanes[lane]?) = some l → dest < l.v.length → dest < 0xC0 → (∀ n z, t.halves[n]? = some z → n ≠ h → z.qmat = []) →
      Answers (.mmldPerform core) s (fun u => regAt u t.id wave lane dest = some ⟨0, false, 0⟩ ∧ ∃ z, u.half? t.id h = some z ∧ z.qmat = [] ∧
        z.bands[band]? = some { e := sparseOf 0 ((List.range 32).flatMap (fun r => (List.range 128).map (fun i => BitVec.ofNat 32 (nbits (y.scr.nat (addr + stride * r) 512) (32 * i) 32)))) })) ∧
    (∀ (band code addr stride wave : Nat) (fmt : Word) (b : Band), e.work = .mmst band code addr stride wave true fmt → e.done = 0 → y.bands[band]? = some b → addr + 31 * stride < 2 ^ 64 →
      (∀ f ∈ s.flights, f.team ≠ t.id) →
      Answers (.mmstPerform core) s (fun u => u.mem = s.mem ∧ ∃ z, u.half? t.id h = some z ∧ z.qmat = [] ∧ z.bands = y.bands ∧
        z.scr = ((List.range 32).foldl (fun m r => Sparse.writeList m (addr + stride * r) (rowBytesOf code fmt ((b.dense.drop (128 * r)).take 128))) y.scr))) ∧
    (∀ (n addr wave id : Nat), e.work = .cbld n addr wave id true → n < y.cbs.length → s.pend? id = none →
      Answers (.cbldComplete core) s (fun u => u.mem = s.mem ∧ ∃ z, u.half? t.id h = some z ∧ z.qmat = [] ∧
        z.cbs = y.cbs.set n ((List.range 16).map (fun i => BitVec.ofNat 16 (y.scr.nat addr 32 / 65536 ^ i))))))

/-! ## The fault service, the watchdog, the host's answers -/

namespace Sys2Proof.Claims

/-- The groups of a context's teams whose parked lanes wait for a page. -/
def parkedFor (s : State) (c page : Nat) : List (Nat × Nat × Nat) := (s.teams.filter (fun t => t.ctx == c)).flatMap (fun t => (t.parkedOn page).map (fun x => (t.id, x)))

/-- Nothing of a half is held on a page. -/
def freeHalf (y : Half) : Bool := y.held.isNone && y.drain.isNone && (y.qidx ++ y.qbin ++ y.qwl ++ y.qstack ++ y.qmat).all (fun e => e.held.isNone)

end Sys2Proof.Claims

/-- R95, R96, R209, R276, R277, R278: the verdicts of the fault service on a page that one group alone waits for: resolved, and the page of every record of it is present, it is READY at its head;
refused, it enters the handler. FQHEAD is advanced when no record waits. No translation of an invalidated range is left in a TLB of a core or a die. The watchdog ends the region of a wave, whose groups then
owe cause 0x11.
R131, R144, R300, R311: a copy that has not responded to the write of a majority store counts as not responding: when a majority has accepted the store is performed, with copies left it waits for them.
The completion of a FetchAdd that no group waits for adds 1 to the counter in host memory. -/
def Obligations.FaultsAndAnswers : Prop :=
  ((∀ (s : State) (c page t w k : Nat) (g : Group),
      c < 64 → parkedFor s c page = [(t, w, k)] → s.group? { team := t, wave := w, slot := k } = some g → g.st = .parked → (∀ x ∈ s.teams, x.ctx = c → x.elemOn page = false) →
      (∀ r ∈ g.recs, r.host = false ∧ r.addr < 2 ^ 56 ∧ ∃ p, s.walk c r.addr = .page p) →
      Answers (.faultVerdictResolved c page []) s (fun u => u.mem = s.mem ∧ ∃ n, u.group? { team := t, wave := w, slot := k } = some { g with st := .ready, wait := .none, recs := [], since := n })) ∧
    (∀ (s : State) (c page w k : Nat) (x : Team) (y : Wave) (g : Group),
      c < 64 → parkedFor s c page = [(x.id, w, k)] → s.team? x.id = some x → x.ctx = c → x.stopped = false → x.waves[w]? = some y → y.slots[k]? = some g → g.st = .parked → s.handlerAddr c ≠ 0 →
      (∀ r ∈ g.recs, r.cause = 4 ∧ faultPage r.addr = page) → (∀ z ∈ s.teams, z.halves.all freeHalf = true) →
      Answers (.faultVerdictRefused c page) s (fun u => u.mem = s.mem ∧ ∃ v, u.wave? x.id w = some v ∧ v.trapQ = y.trapQ ++ [k] ∧ v.handler.isSome = true ∧
        (y.handler = none → ∃ q, v.handler = some q ∧ q.g.pc = BitVec.ofNat 64 (s.handlerAddr c) ∧ q.g.fmt = 1 ∧ q.g.st = .ready) ∧
        ∃ z, v.slots[k]? = some z ∧ z.st = .trapped ∧ z.pc = g.pc ∧ z.mask = g.mask ∧ z.recs = g.recs)) ∧
    (∀ (s : State) (c head : Nat),
      c < 64 → s.recordUp c = true → s.ctxField c 256 64 ≤ head → head ≤ s.ctxField c 320 64 → (s.ctx c).waiting = [] → (∀ x ∈ s.teams, x.ctx ≠ c) →
      Answers (.fqheadAdvance c head) s (fun u => u = s.devWrite 0 ((s.ctx c).addr + 32) (leBytes 8 head) false)) ∧
    (∀ (s : State) (c lo hi : Nat), lo ≤ hi →
      Answers (.tlbInvalidate c lo hi) s (fun u => ∀ l ∈ u.cores.map (·.tlb) ++ u.dtlb, ∀ e ∈ l, e.ctx = c → e.vpn * 65536 + 65536 ≤ lo ∨ hi ≤ e.vpn * 65536)) ∧
    (∀ (s : State) (t w : Nat) (x : Team) (y : Wave),
      s.team? t = some x → x.waves[w]? = some y → 0 < y.depth → x.stopped = false → s.wdog x.ctx ≤ s.ns - y.regionAt →
      Answers (.regionWatchdog t w) s (fun u => u = { s with teams := u.teams } ∧ ∃ v, u.wave? t w = some v ∧ v.depth = 0 ∧ v.slots.length = y.slots.length ∧
        ∀ (k : Nat) (g : Group), y.slots[k]? = some g → v.slots[k]? = some (if g.st = .free then g else { g with late := true })))) ∧
  ((∀ (s : State) (id copy : Nat) (f : Flight) (p : Page) (x : Nat × Nat),
      s.flight? id = some f → f.space = .majority → f.kind = .store → f.fixed = none → f.dest = none → f.read = some x → f.page = some p →
      (f.todo.filter (fun i => i != copy) = [] → f.acc = true →
        Answers (.majorityResponseTimeout id copy) s (fun u => u.flight? id = none ∧ u.mem = s.mem)) ∧
      (f.todo.filter (fun i => i != copy) ≠ [] →
        Answers (.majorityResponseTimeout id copy) s (fun u => u.flight? id = some { f with todo := f.todo.filter (fun i => i != copy) } ∧ u.mem = s.mem))) ∧
    (∀ (s : State) (id a : Nat),
      s.hostAdds.find? (fun x => x.1 == id) = some (id, a) → s.pend? id = none → Sparse.wf s.hostMem = true →
      Answers (.fetchaddCompletion id true) s (fun u => u.hostRead a 8 = (s.hostRead a 8 + 1) % 2 ^ 64 ∧ u.hostAdds = s.hostAdds.filter (fun x => x.1 != id) ∧ u.mem = s.mem ∧
        ∀ n, outside n a 8 → Sparse.read u.hostMem n = Sparse.read s.hostMem n)))

/-! ## The debugger -/

namespace Sys2Proof.Claims

/-- The state in which the records of cause 0x0F of a breaking group that is FROZEN stand in the fault queue, the group parked behind FROZEN until then (R95, R208, R276). -/
def delivered (s : State) (e : Env) (n : Nat) : State :=
  (s.modGroup e.loc (fun g => ({ g with breaking := false, recs := causeRecs e 0x0F n 0 e.head.toNat } : Group).enter .parked |> fun g => { g with wait := .room })).laneRecs e.team.ctx
    (({ e.g with recs := causeRecs e 0x0F n 0 e.head.toNat } : Group).frecs e.core e.wave.idx e.team.serial e.loc.team e.loc.slot id)

end Sys2Proof.Claims

/-- R208, R235, R236, R237: attach; stop, after which every group of the team is FROZEN; resume, after which each is in its prior state, or DRAINED while
its team is off its core; a single step and a step of a wave, which let the ready groups issue once and then stop the team again, while of a group that is not ready the state is read, DRAINED of one
off its core; and the two ways on from a breakpoint. A group of which a source is pending is STALLED before the step (`stepReady`). That a step's issues are acts of the agenda is log
entry 1, and that the state read stands in `readOut` log entry 82: the model's choice. -/
def Obligations.DebuggerCommands : Prop :=
  (∀ (s : State) (c : Nat) (on : Bool), c < s.ctxs.length →
    Answers (.debuggerAttach c on) s (fun u => (u.ctx c).dbg = on ∧ (∀ k, k ≠ c → u.ctx k = s.ctx k) ∧ u = { s with ctxs := u.ctxs })) ∧
  (∀ (s : State) (t : Nat) (x : Team), s.team? t = some x → (s.ctx x.ctx).dbg = true →
    Answers (.debugStop t) s (fun u => u = { s with teams := u.teams } ∧ ∃ y, u.team? t = some y ∧ y.stopped = true ∧
      ∀ w ∈ y.waves, (∀ g ∈ w.slots, g.st = .free ∨ g.st = .frozen) ∧ ∀ h, w.handler = some h → h.g.st = .free ∨ h.g.st = .frozen)) ∧
  (∀ (s : State) (t w k : Nat) (x : Team) (y : Wave) (g : Group), s.team? t = some x → x.stopped = true → x.waves[w]? = some y → y.slots[k]? = some g →
    Answers (.debugResume t) s (fun u => u = { s with teams := u.teams } ∧ (∃ z, u.team? t = some z ∧ z.stopped = false ∧ z.focus = none) ∧
      ∃ q, u.group? { team := t, wave := w, slot := k } = some q ∧ q.pc = g.pc ∧ q.mask = g.mask ∧ q.st = if g.st = .frozen then (if x.place = .resident then g.prior else .drained) else g.st)) ∧
  (∀ (s : State) (t w lane k : Nat) (x : Team) (y : Wave),
    let v := s.stepReady t w
    v.team? t = some x → x.stopped = true → x.place = .resident → x.waves[w]? = some y →
    (y.slotsWith (fun g => g.mask.getLsbD lane)).head? = some k → (y.group k).st = .frozen → (y.group k).prior = .ready →
    Answers (.singleStep t w lane) s (fun u =>
      (∃ d, u.agenda = .only { team := t, wave := w, slot := k } d :: .refreeze t w (y.group k).mask :: s.agenda) ∧
      (∃ g, u.group? { team := t, wave := w, slot := k } = some g ∧ g.st = .ready ∧ g.pc = (y.group k).pc) ∧ ∃ z, u.team? t = some z ∧ z.focus = some (w, lowLane (y.group k).mask))) ∧
  (∀ (s : State) (t w lane k : Nat) (x : Team) (y : Wave),
    let v := s.stepReady t w
    v.team? t = some x → x.stopped = true → x.place = .resident → x.waves[w]? = some y →
    (y.slotsWith (fun g => g.mask.getLsbD lane)).head? = some k → ((y.group k).st ≠ .frozen ∨ (y.group k).prior ≠ .ready) →
    Answers (.singleStep t w lane) s (fun u => u = { v with teams := u.teams, readOut := leBytes 4 (y.group k).under.code } ∧
      u.group? { team := t, wave := w, slot := k } = some (y.group k) ∧ ∃ z, u.team? t = some z ∧ z.focus = some (w, lowLane (y.group k).mask))) ∧
  (∀ (s : State) (t w lane k : Nat) (x : Team) (y : Wave), (s.stepReady t w).team? t = some x → (s.stepReady t w).wave? t w = some y → x.stopped = true → x.place ≠ .resident →
    (y.slotsWith (fun g => g.mask.getLsbD lane)).head? = some k →
    Answers (.singleStep t w lane) s (fun u => u = { s with teams := u.teams, readOut := leBytes 4 GState.drained.code })) ∧
  (∀ (s : State) (t w : Nat) (x : Team) (y : Wave),
    let v := s.stepReady t w
    v.team? t = some x → x.stopped = true → x.place = .resident → x.waves[w]? = some y → y.idx = w →
    Answers (.stepWave t w) s (fun u => ∃ acts, u.agenda = acts ++ .refreeze t w 0 :: s.agenda ∧
      (∀ a ∈ acts, ∃ l d g, a = .only l d ∧ l.team = t ∧ l.wave = w ∧ v.group? l = some g ∧ g.st = .frozen ∧ g.prior = .ready) ∧
      ∀ (k : Nat) (g : Group), y.slots[k]? = some g → g.st = .frozen → g.prior = .ready → ∃ d, .only { team := t, wave := w, slot := k } d ∈ acts)) ∧
  (∀ (s : State) (t w slot : Nat) (e : Env) (h : Head) (p : Payload), slot < 72 → e.team.stopped = true → s.breakAt (locOf t w slot) = some (e, h, p) → e.g.st = .frozen → e.g.prior = .ready → e.g.rcd = none →
    e.lanes ≠ [] → h.leaf.kind = .next →
    Answers (.debugPass t w slot) s (fun u => (∃ z, u.team? t = some z ∧ z.stopped = true) ∧
      ∃ g, u.group? (locOf t w slot) = some g ∧ g.st = .frozen ∧ g.breaking = false ∧ g.pc = e.retAddr (Tree.one .bkpt h p) ∧ g.mask = lanesMask e.lanes)) ∧
  (∀ (s : State) (t w slot : Nat) (e : Env) (h : Head) (p : Payload) (x : Team) (y : Wave) (g : Group), slot < 72 → s.breakAt (locOf t w slot) = some (e, h, p) →
    let v := delivered s e p.c.toNat
    v.recsOut e.team.ctx t w slot = true → v.team? t = some x → x.waves[w]? = some y → y.slots[slot]? = some g → x.ctx = e.team.ctx → x.stopped = true →
    g.recs = causeRecs e 0x0F p.c.toNat 0 e.head.toNat → g.st = .frozen → v.handlerAddr e.team.ctx ≠ 0 →
    Answers (.debugDeliver t w slot) s (fun u => u = { v with teams := u.teams } ∧ ∃ z, u.wave? t w = some z ∧ z.trapQ = y.trapQ ++ [slot] ∧
      z.slots[slot]? = some { g with prior := .trapped, wait := .none, since := v.cycOf x y } ∧
      (y.handler = none → ∃ q, z.handler = some q ∧ q.g.st = .frozen ∧ q.g.prior = .ready ∧ q.g.pc = BitVec.ofNat 64 (v.handlerAddr e.team.ctx))))

/-! ## Queues, contexts, launches and teams -/

namespace Sys2Proof.Claims

/-- A queue as it stands after its block of 64 bytes has been read (R263). -/
def blockOf (addr n tail boost : Nat) : QueueSt :=
  { addr := addr, reg := true, read := true, base := nbits n 128 64, depth := nbits n 192 32, ctx := nbits n 224 6, notify := nbit n 230, age := nbits n 256 32
    vec := nbits n 288 16, head := nbits n 64 64, seen := tail, stop := false, boost := boost }

/-- Only one queue differs, and it becomes `x`. -/
def QueueOnly (s u : State) (q : Nat) (x : QueueSt) : Prop := u = { s with queues := u.queues } ∧ u.queue q = x ∧ ∀ p, p ≠ q → u.queue p = s.queue p

/-- No byte of memory changes but those of the firmware's own majority pages, where the Logbook and the error log stand (R269, R331). -/
def FirmOnly (s u : State) : Prop := ∀ a, firmByte a = false → Sparse.read u.mem a = Sparse.read s.mem a

/-- Does a store of firmware at an address reach a copy of its pages: a majority responds, this copy is there in time, and no newer tag stands in it (R131, R300)? -/
def writtenCopy (s : State) (a i : Nat) : Prop :=
  s.firmOk a = true ∧ i < 3 ∧ s.copyUp firmSet i = true ∧ i ∉ s.firmLate ∧
  s.copyTag firmSet i a ≤ nextTag (s.copyTag firmSet (s.newest firmSet a (s.firmCopies a)) a) 0xE00

/-- The state after the parameters and the wait counter of an accepted entry have been read (R264, R266). -/
def readFor (s : State) (c e : Nat) : State :=
  if s.acceptError c e = 0 then
    let a := match s.paramRead c e with | .ok (_, a) => a | .error _ => s
    if entWait e = 0 then a else match a.waitRead c e with | .ok (_, b) => b | .error _ => a
  else s

/-- A team in a save slot: its groups DRAINED, none of them in a meeting (R233). -/
def savedAs (x : Team) (k : Nat) : Team := { x with place := .saved k, waves := x.waves.map (fun w => ({ w with meets := [] } : Wave).mapGroups Group.save) }

/-- Nothing of a team is under way: no transaction or scratchpad store of it, no dirty line in the L1s of its cores, no `lds` result. -/
def still (s : State) (x : Team) : Bool :=
  settled s x.id && x.lds.isEmpty && x.halves.all (fun y => (s.core y.core).l1.all (fun l => l.dirty == 0))

end Sys2Proof.Claims

/-- R263, R265, R266, R267, R275, R347: the launch queues. An observed entry gets the next serial, its record says ACCEPTED or FAILED with the first error, and HEAD advances in memory, where else only
the Logbook and the error log change; a TAIL that moves backward or runs more than DEPTH ahead stops the queue; registration and restart read the block; a wait counter makes an entry eligible or fails it,
and a queue's boost starts at 0 when its eligible entry changes; an eligible head waits one level higher. The blocks and records that are read answer; what happens where one does
not is log entry 106, the model's choice. -/
def Obligations.LaunchQueues : Prop :=
  (∀ (s : State) (q : Nat),
    let x := s.queue q
    let tail := s.devRead x.addr 8
    let v := s.modQueue q (fun x => { x with seen := tail })
    let e := s.devRead (x.base + 64 * (x.head % x.depth)) 64
    s.halted = false → q < 256 → x.reg = true → x.stop = false → x.read = true → s.logFree = true → s.homesUp x.addr 64 = true → 0 < s.nextSerial → (∀ y ∈ s.launches, y.serial < s.nextSerial) →
    (x.seen ≤ tail → x.head < tail → tail ≤ x.head + x.depth → v.entryUp q = true →
      Answers (.launchAccept q) s (fun u => u.nextSerial = s.nextSerial + 1 ∧ (u.queue q).head = x.head + 1 ∧ (u.queue q).seen = tail ∧
        (Sparse.wf s.mem = true → s.launch? 0 = none → Mem.nat u.mem (x.addr + 8) 8 = (x.head + 1) % 2 ^ 64 ∧
          ∀ a, firmByte a = false → a < x.addr + 8 ∨ x.addr + 16 ≤ a → Sparse.read u.mem a = Sparse.read (readFor v x.ctx e).mem a) ∧
        ∃ l, u.launch? s.nextSerial = some l ∧ l.queue = q ∧ l.index = x.head ∧ l.ctx = x.ctx ∧ l.ent = e ∧ l.tacc = s.ns ∧ l.err = v.acceptError x.ctx e ∧
          l.st = if v.acceptError x.ctx e = 0 then .accepted else .failed)) ∧
    (tail < x.seen ∨ x.head + x.depth < tail →
      Answers (.launchAccept q) s (fun u => (u.queue q).stop = true ∧ (u.queue q).head = x.head + 1 ∧
        ∃ l, u.launch? s.nextSerial = some l ∧ l.st = .failed ∧ l.err = 0x80 ∧ l.detail = 1))) ∧
  (∀ (s : State) (q : Nat),
    let x := s.queue q
    let n := s.devRead x.addr 64
    s.halted = false → q < 256 → x.reg = true → s.homesUp x.addr 64 = true → nbits n 64 64 ≤ s.devRead x.addr 8 → s.devRead x.addr 8 ≤ nbits n 64 64 + nbits n 192 32 →
    Answers (.queueRestart q) s (fun u => QueueOnly s u q (blockOf x.addr n (s.devRead x.addr 8) x.boost))) ∧
  (∀ (s : State) (q addr : Nat),
    let n := s.devRead addr 64
    s.halted = false → q < 256 → q < s.queues.length → s.homesUp addr 64 = true → nbits n 64 64 ≤ s.devRead addr 8 → s.devRead addr 8 ≤ nbits n 64 64 + nbits n 192 32 →
    Answers (.queueRegister q addr) s (fun u => QueueOnly s u q (blockOf addr n (s.devRead addr 8) 0))) ∧
  (∀ (s : State) (c addr fn : Nat), s.halted = false → c < 64 → fn < 64 → c < s.ctxs.length → s.homesUp addr 256 = true →
    Answers (.contextRegister c addr fn) s (fun u => u = { s with ctxs := u.ctxs } ∧ (∀ k, k ≠ c → u.ctx k = s.ctx k) ∧
      u.ctx c = { addr := addr, reg := true, fn := fn, cflags := BitVec.ofNat 32 (s.devRead (addr + 104) 4 % 16) })) ∧
  (∀ (s : State) (q : Nat) (l : Launch),
    s.halted = false → s.launches.filter (fun l => l.queue == q && l.st = .accepted && entWait l.ent != 0) = [l] → s.launch? l.serial = some l →
    (∀ n a, s.waitRead l.ctx l.ent = .ok (n, a) →
      Answers (.waitCounterCheck q) s (fun u => u = { a with launches := u.launches, queues := u.queues } ∧
        u.launch? l.serial = some { l with waitOk := decide (entWval l.ent ≤ n) } ∧
        ∀ p, u.queue p = if p = q ∧ (u.eligible q).map (·.serial) ≠ (s.eligible q).map (·.serial) then { s.queue p with boost := 0 } else s.queue p)) ∧
    (∀ k, s.waitRead l.ctx l.ent = .error k →
      Answers (.waitCounterCheck q) s (fun u => (Sparse.wf s.mem = true → FirmOnly s u) ∧ ∃ y, u.launch? l.serial = some y ∧ y.st = .failed ∧ y.err = 0x86 ∧ y.detail = k))) ∧
  (∀ (s : State) (q : Nat) (l : Launch), s.eligible q = some l → q < s.queues.length →
    Answers (.queueAgeBoost q) s (fun u => QueueOnly s u q { s.queue q with boost := (s.queue q).boost + if s.level l < 63 then 1 else 0 }))

/-- R220, R230, R231, R232, R266, R267, R279, R280, R375: a team is dispatched as the next of its launch, and its cores drop what may be older than the writes before it; a pre-empted team stands in the
lowest free save slot with its groups DRAINED, its image beginning with its serial and its number, and comes to a core again before other teams, its slot free; a parked team leaves its core's storage,
behind those parked before it, and takes its place again, each group in its prior state, or READY when what it waited for is there.
The places of serial and number in the image are log entry 22, when a team may be pre-empted is log entry 60, and what a restored group comes back as is log entry 62: the model's choices. -/
def Obligations.TeamsComeAndGo : Prop :=
  (∀ (s : State) (core n : Nat) (quads : List Nat) (l : Launch),
    s.nextItem = some (.team n) → s.launch? n = some l → s.halted = false → s.itemRoom (.team n) core = true → s.quadsOk (shapeOf l.ent l.fn) core quads = true → l.next ≠ 0 →
    s.teams.all (fun t => t.id != s.nextId) = true →
    let t := s.freshTeam l l.next core quads
    s.fits t = true → s.teams.any (fun y => y.parked && y.shares t) = false →
    Answers (.teamDispatch core quads) s (fun u => u = { s with teams := u.teams, launches := u.launches, cores := u.cores, nextId := s.nextId + 1, admitNo := s.admitNo + 1 } ∧
      u.teams = s.teams ++ [t] ∧ u.launch? n = some { l with next := l.next + 1 } ∧ ∀ y ∈ t.halves, ∀ x ∈ (u.core y.core).l1, x.valid = x.dirty)) ∧
  (∀ (s : State) (core n q : Nat) (quads : List Nat) (l : Launch),
    s.nextItem = some (.head n q) → s.launch? n = some l → s.halted = false → s.itemRoom (.head n q) core = true → s.quadsOk (shapeOf l.ent l.fn) core quads = true → l.next = 0 →
    l.st = .accepted →
    Answers (.teamDispatch core quads) s (fun u => (Sparse.wf s.mem = true → FirmOnly s u) ∧ u.lastQueue = q ∧ (u.queue q).boost = 0 ∧
      (∃ t, u.teams.getLast? = some t ∧ t.serial = n ∧ t.t = 0 ∧ t.ctx = l.ctx) ∧ ∃ y, u.launch? n = some y ∧ y.st = .started ∧ y.tstart = s.ns ∧ y.next = 1)) ∧
  (∀ (s : State) (core k : Nat) (quads : List Nat) (x : Team) (l : Launch),
    s.nextItem = some (.saved x.id) → s.team? x.id = some x → x.place = .saved k → s.launch? x.serial = some l → s.halted = false → s.itemRoom (.saved x.id) core = true →
    s.quadsOk (shapeOf l.ent l.fn) core quads = true → x.owed = false →
    Answers (.teamDispatch core quads) s (fun u => u.mem = s.mem ∧ (u.ctx x.ctx).slots = (s.ctx x.ctx).slots.erase k ∧
      ∃ y, u.team? x.id = some y ∧ y.onCore = true ∧ y.t = x.t ∧ y.halves.map (·.core) = (List.range x.halves.length).map (fun i => core + i))) ∧
  (∀ (s : State) (x : Team) (k : Nat) (i : Instr),
    (i = .preemptTeam x.id ∧ s.owesPreempt x = true) ∨ (i = .preemptRequest x.ctx ∧ s.teams.filter (fun t => t.ctx == x.ctx) = [x]) →
    s.team? x.id = some x → x.ctx < s.ctxs.length → still s x = true → s.freeSlot x.ctx = some k → s.mayPreempt x = true →
    (s.settleForSave x.id).examineTeam x.id = s.settleForSave x.id → (s.settleForSave x.id).imageFits (savedAs x k) = true →
    Answers i s (fun u => (u.ctx x.ctx).slots = (s.ctx x.ctx).slots ++ [k] ∧ ∃ y, u.team? x.id = some y ∧ y.place = .saved k ∧
      y.waves = (savedAs x k).waves)) ∧
  (∀ (s : State) (x : Team), x.halves ≠ [] → imgNat (s.image x) 0 8 = x.serial % 2 ^ 64 ∧ imgNat (s.image x) 8 8 = x.t % 2 ^ 64) ∧
  (∀ (s : State) (x : Team),
    s.team? x.id = some x → still s x = true → s.examineTeam x.id = s → x.draining = false → s.mayPark x = true →
    s.teams.any (fun y => y.shares x && (y.draining || s.mayPark y && decide (y.idle < x.idle))) = false →
    Answers (.teamPark x.id) s (fun u => u = { s with teams := u.teams } ∧
      u.teams = s.teams.filter (fun y => y.id != x.id) ++ [{ x with place := .parked, waves := x.waves.map (fun w => w.mapGroups Group.drain) }])) ∧
  (∀ (s : State) (x : Team),
    s.team? x.id = some x → x.parked = true → x.fires = [] → x.pops = [] → s.waitsBefore x = false → s.fits x = true →
    Answers (.teamRestoreParked x.id) s (fun u => u = { s with teams := u.teams, cores := u.cores } ∧
      u.team? x.id = some { x with place := .resident, idle := s.clock.toNat
                                   waves := x.waves.map (fun w => w.mapGroups (fun g => g.undrain (s.blocks x w) x.stopped (s.cycOf x w))) }))

/-- R268, R269, R270, R282, R284, R290, R351, R374: a launch whose teams have all exited, with nothing of it left to perform, is RETIRED, and 1 is added to its signal counter; a cancelled one has no team
left; the launches of a migrated context end here, and those that arrive keep their serial, state and times; each change of a launch is written to its Logbook record; a container is measured, loaded with a
copy of its code for each die, and named by slot and generation, and its handle is stale once it is unloaded. Where firmware's pages with the Logbook lie
is log entry 83, and the two sides of a migration are log entry 52: the model's choices. -/
def Obligations.LaunchesAndContainers : Prop :=
  (∀ (s : State) (n : Nat) (l : Launch),
    s.launch? n = some l → s.halted = false → l.st = .started ∨ l.st = .replayed → entTeams l.ent ≤ l.next → s.teams.all (fun t => t.serial != n) = true → l.staged = [] →
    s.flights.all (fun f => f.serial != n) = true → (∀ c ∈ s.cores, ∀ y ∈ c.l1, y.dirty ≠ 0 → y.serial ≠ n ∧ y.line ∉ l.wrote) →
    let v := s.setLaunch n (fun l => { l with st := .retired, tend := s.ns, snaps := [], marked := [] })
    Answers (.launchRetire n) s (fun u => (∃ y, u.launch? n = some y ∧ y.st = .retired ∧ y.tend = s.ns ∧ y.ent = l.ent) ∧
      (entSig l.ent = 0 → u.mem = v.mem) ∧
      (∀ p, let pa := p.phys (entSig l.ent)
        entSig l.ent ≠ 0 → v.xlate l.ctx (entSig l.ent) true = .ok p → v.xlate l.ctx (entSig l.ent) false = .ok p → p.kind ≠ 3 → v.up p pa = true → v.poisoned pa 8 = false → s.launch? 0 = none →
        u.mem = Sparse.writeList v.mem pa (leBytes 8 (v.devRead pa 8 + 1))))) ∧
  (∀ (s : State) (n i : Nat) (l : Launch) (f : Launch → Launch),
    let a := logbookAt + 64 * (n % 4096)
    s.launch? n = some l → (f l).serial = n → Sparse.wf s.mem = true → FirmOnly s (s.setLaunch n f) ∧ (s.setLaunch n f).launch? n = some (f l) ∧
      (writtenCopy s a i → Mem.nat (s.setLaunch n f).mem (copyAddr firmSet i a) 64 = (f l).word)) ∧
  (∀ (s : State) (n : Nat) (l : Launch), s.launch? n = some l → s.halted = false → l.st.final = false → l.st ≠ .rolledBack →
    Answers (.launchCancel n) s (fun u => (Sparse.wf s.mem = true → FirmOnly s u) ∧ (∀ t ∈ u.teams, t.serial ≠ n) ∧
      ∃ y, u.launch? n = some y ∧ y.st = .cancelled ∧ y.err = 0 ∧ y.tend = s.ns ∧ y.staged = [])) ∧
  (∀ (s : State) (c : Nat),
    (∀ t ∈ s.teams, t.ctx = c → t.onCore = false) → (∀ l ∈ s.launches, l.ctx = c → l.st ≠ .rolledBack) →
    Answers (.contextMigrate { ctx := c }) s (fun u => (Sparse.wf s.mem = true → FirmOnly s u) ∧ u.notices = s.notices ∧
      ∀ l ∈ s.launches, l.ctx = c → l.st.final = false → s.launch? l.serial = some l → ∃ y, u.launch? l.serial = some y ∧ y.st = .cancelled ∧ y.detail = 0xFFFF)) ∧
  (∀ (s : State) (c : Nat) (m : MoveIn),
    (m.cls ≠ capClass → Answers (.contextMigrate { ctx := c, arrive := some m }) s (fun u => u = s)) ∧
    (∀ x, s.halted = false → m.cls = capClass → (s.ctx c).reg = true → m.launches = [x] → m.slots = [] → s.launch? (nbits x.record 0 64) = none →
      Answers (.contextMigrate { ctx := c, arrive := some m }) s (fun u => (Sparse.wf s.mem = true → FirmOnly s u) ∧ nbits x.record 0 64 < u.nextSerial ∧ ∃ l, u.launch? (nbits x.record 0 64) = some l ∧ l.ctx = c ∧
        l.tacc = nbits x.record 320 64 ∧ l.tstart = nbits x.record 384 64 ∧ (nbits x.record 220 4 ≤ 6 → l.st.code = nbits x.record 220 4)))) ∧
  (∀ (s : State) (addr size i : Nat) (c : Container),
    s.halted = false → s.conts.length ≤ 65536 → (List.range s.conts.length).find? (fun i => !(nth {} s.conts i).loaded) = some i → nth {} s.conts i = c → c.gen < 65536 →
    s.homesUp addr size = true → s.poisoned addr size = false → (∀ d, d < 4 → s.served d = true) →
    let bs := Sparse.readList s.mem addr size
    let code := Config.translateCode bs ((sourcesOf bs).map CodeFrom.code)
    Answers (.containerLoad addr size) s (fun u => if s.mx.keys.any (fun k => Config.signatureOk bs k)
      then u = { s with conts := u.conts, readOut := leBytes 4 (i + c.gen * 65536), mx := s.mx.extend 5 (sha3_512 bs), mem := u.mem, codes := u.codes } ∧
        u.container? (i + c.gen * 65536) = some { c with loaded := true, funcs := functionsOf bs } ∧
        (Sparse.wf s.mem = true → code.length ≤ 65536 → ∀ d, d < 4 → Sparse.readList u.mem (codeAt i d) code.length = code)
      else u = s)) ∧
  (∀ (s : State) (h : Nat) (c : Container), s.halted = false → s.container? h = some c →
    Answers (.containerUnload h) s (fun u => u = { s with conts := u.conts } ∧ u.container? h = none ∧
      u.conts[h % 65536]? = some { c with loaded := false, funcs := [], gen := (c.gen + 1) % 65536 }))

/-! ## Majority sets and tracked ranges -/

namespace Sys2Proof.Claims

/-- The eight words that are written to a majority set entry. -/
def setWord (e : List Nat) : Nat := (List.range 8).foldl (fun n i => n + nth 0 e i % 2 ^ 64 * 2 ^ (64 * i)) 0

end Sys2Proof.Claims

/-- R295, R298, R303, R329: an invalid or new majority set entry holds what is written; one that becomes valid has zero data and tags in every copy; a copy moves by a change of the entry; a scrub leaves every
copy of a line that responds in time, where they are a majority, at the greatest tag, and reports the channel of a copy with an uncorrectable error. A range that becomes tracked, whatever
format parts of it had, has each tile classified; one that is released has no entry. Which copies respond to firmware within 20 µs is a free value (log entry 76). -/
def Obligations.TrackingAndMajoritySets : Prop :=
  (∀ (s : State) (k : Nat) (e : List Nat), k < 128 → k < s.msets.length → s.halted = false →
    (nbit (setWord e) 3 = false → Answers (.majoritySetWrite k e) s (fun u => u = { s with msets := s.msets.set k (setWord e), msetLen := u.msetLen })) ∧
    (nbit (setWord e) 3 = true → nbit (nth 0 s.msets k) 3 = false → s.setOk (setWord e) (nth 0 e 8) = true → Sparse.wf s.mem = true → Sparse.wf s.mtags = true →
      Answers (.majoritySetWrite k e) s (fun u => nth 0 u.msets k = setWord e ∧ ∀ b stk n, (b, stk) ∈ setCopies (setWord e) → n < 65536 * nth 0 e 8 →
        Sparse.read u.mem (b + n) = 0 ∧ Sparse.read u.mtags (lineOf (b + n)) = 0))) ∧
  (∀ (s : State) (k i base stk : Nat),
    let e := nth 0 s.msets k
    s.stackAt base = some stk → nbit e 3 = true → i < nbits e 0 3 → s.setOk (moveCopy e i base stk) (nth 0 s.msetLen k) = true → s.halted = false →
    Answers (.majorityCopyMove k i base) s (fun u => nth 0 u.msets k = moveCopy e i base stk ∧ ∀ j, j ≠ k → nth 0 u.msets j = nth 0 s.msets j)) ∧
  (∀ (s : State) (k : Nat),
    let e := nth 0 s.msets k
    let at_ (j i : Nat) : Nat := lineOf (copyAddr e i (setLine e j))
    nbit e 3 = true → s.halted = false → Sparse.wf s.mem = true → Sparse.wf s.mtags = true →
    (∀ j i j' i', j < 512 * nth 0 s.msetLen k → j' < 512 * nth 0 s.msetLen k → i < nbits e 0 3 → i' < nbits e 0 3 → at_ j i = at_ j' i' → j = j' ∧ i = i') →
    (∀ j i, j < 512 * nth 0 s.msetLen k → i < nbits e 0 3 → firmByte (128 * at_ j i) = false) →
    Answers (.scrub k) s (fun u => u.msets = s.msets ∧
      (∀ j i, j < 512 * nth 0 s.msetLen k → s.copyUp e i = true → s.copyOk e i (setLine e j) = false →
        32 * (nth (0, 0) (setCopies e) i).2 + channelOf (copyAddr e i (setLine e j)) 0 ∈ u.badChans) ∧
      ∀ j, j < 512 * nth 0 s.msetLen k →
      let pa := setLine e j
      let l := (({ s with draw := s.draw + j } : State).answering pa).filter (fun i => s.copyOk e i pa)
      setMaj e ≤ l.length → ∀ i ∈ l, u.copyTag e i pa = s.copyTag e (s.newest e pa l) pa ∧
        (s.copyTag e i pa < s.copyTag e (s.newest e pa l) pa → u.copyData e i pa = s.copyData e (s.newest e pa l) pa))) ∧
  (∀ (s : State) (lo hi fmt : Nat),
    s.halted = false → lo % 65536 = 0 → hi % 65536 = 0 → lo < hi → fmt ≤ 10 → s.pools.any (fun p => decide (p.lo ≤ lo ∧ hi ≤ p.hi)) = true →
    Sparse.wf s.dir = true →
    Answers (.trackRange lo hi fmt) s (fun u => u = { s with dir := u.dir, tracked := u.tracked } ∧ (∀ a, u.trackFmt a = if lo ≤ a ∧ a < hi then some fmt else s.trackFmt a) ∧
      ∀ i, i < (hi - lo) / 8192 →
      Sparse.read u.dir (lo / 8192 + i) = if s.poisoned (lo + 8192 * i) 8192 then dirEntry 0 0 fmt 0 0 else classify s.mem (lo + 8192 * i) fmt)) ∧
  (∀ (s : State) (lo hi : Nat), s.halted = false → lo % 65536 = 0 → hi % 65536 = 0 → lo < hi →
    Answers (.untrackRange lo hi) s (fun u => u = { s with dir := u.dir, tracked := u.tracked } ∧
      (∀ a, u.trackFmt a = if lo ≤ a ∧ a < hi then none else s.trackFmt a) ∧
      (∀ k, Sparse.read u.dir k = if lo / 8192 ≤ k ∧ k < hi / 8192 then 0 else Sparse.read s.dir k)))

/-! ## Errors, spares and tests -/

namespace Sys2Proof.Claims

/-- A core with no team, an empty L1 and no failed row. -/
def idleCore (s : State) (c : Nat) : Bool := s.coreEmpty c && (s.core c).l1.isEmpty && !(s.core c).badRow

/-- The repair map has one more entry, of a version above those it had (R330). -/
def Mapped (s u : State) (kind unit spare : Nat) : Prop :=
  ∃ v, u.repairs = s.repairs ++ [⟨v, kind, unit, spare⟩] ∧ ∀ r ∈ s.repairs, r.version < v

/-- A core's number is out of service, or spare `i` has taken it (R328). -/
def TakenBy (s u : State) (c : Nat) (i : Option Nat) : Prop :=
  match i with
  | none => (u.core c).service = false ∧ u.repairs = s.repairs
  | some i => (u.core c).service = true ∧ (u.core c).testing = false ∧ (u.core c).marked = false ∧ (u.core c).closed = false ∧ (u.core c).mism = [] ∧ (u.core c).test = s.ns ∧
      (nth {} u.spares i).free = false ∧ Mapped s u 0 c (i % 2)

/-- A core that leaves service for good, or whose number the first spare that passes its test takes (R328); what a spare's test says is a free value. -/
def Replaced (s u : State) (c : Nat) : Prop :=
  let passes (k : Nat) : Bool := Config.freeValue (s.draw + k) % 2 == 0
  (s.sparesOf (c / 24) = [] → TakenBy s u c none) ∧
  (∀ i l, s.sparesOf (c / 24) = i :: l → passes 0 = true → TakenBy s u c (some i)) ∧
  (∀ i j, s.sparesOf (c / 24) = [i, j] → passes 0 = false → TakenBy s u c (if passes 1 then some j else none)) ∧
  (∀ i, s.sparesOf (c / 24) = [i] → passes 0 = false → TakenBy s u c none)

/-- No byte of memory and no poison changes outside the firmware's own majority pages (R269, R331). -/
def FirmLines (s u : State) : Prop := FirmOnly s u ∧ ∀ k, firmByte (128 * k) = false → (k ∈ u.poison ↔ k ∈ s.poison)

end Sys2Proof.Claims

/-- R296, R303, R321, R322, R325, R328, R329, R330, R331, R332: an error's record is the last of the log and stands in its ring, or adds to the count of the one before it; a corrected error is logged and
changes no data; a directory entry that could not be corrected reads general, and its row takes a spare; an uncorrectable error poisons its line, whose tile becomes general; lost state fails a launch that is not replayable with cause 0x0C and DETAIL 0x0100; a drained core is replaced; rows,
channels and ways take spares, which the repair map holds; a core or spare under test returns to service, or is replaced.
That the second corrected error at a line marks its row, the class 12 of a report, the thresholds and the DETAIL in minutes are log entry 66, the test of a spare is log entry 65, the places of the log's ring and the kinds of repairs are log
entry 83: the model's choices. -/
def Obligations.ErrorsAndRepairs : Prop :=
  (∀ (s : State) (r : LogRec) (i : Nat),
    let u := s.logError r
    let a := errLogAt + 32 * ((u.errCount - 1) % 1024)
    Sparse.wf s.mem = true → FirmLines s u ∧
      (s.errLog = [] → u.errLog = [r] ∧ u.errCount = s.errCount + 1) ∧
      (∀ l, s.errLog.getLast? = some l →
        (l.cls = r.cls → l.unit = r.unit → l.addr = r.addr → s.ns < l.time + 1000000 → s.logBase < s.errCount →
          u.errCount = s.errCount ∧ u.errLog.getLast? = some { l with count := min (2 ^ 32 - 1) (l.count + r.count) }) ∧
        (l.cls ≠ r.cls ∨ l.unit ≠ r.unit ∨ l.addr ≠ r.addr ∨ l.time + 1000000 ≤ s.ns → u.errCount = s.errCount + 1 ∧ u.errLog.getLast? = some r)) ∧
      (∀ l, writtenCopy s a i → u.errLog.getLast? = some l → Mem.nat u.mem (copyAddr firmSet i a) 32 = l.word % 2 ^ 256)) ∧
  (∀ (s : State) (e : ErrInfo), e.cls = 1 ∨ e.cls = 7 → Sparse.wf s.mem = true →
    let (n, total, _) := s.countCorrected e.loc (lineOf e.addr)
    Answers (.correctedError e) s (fun u => FirmLines s u ∧ (s.errLog = [] → u.errLog.head? = some ⟨s.ns, 128 * lineOf e.addr, 0, e.loc, e.cls, 0, 1, 0, 0⟩) ∧
      u = { s with errLog := u.errLog, errCount := u.errCount, mem := u.mem, poison := u.poison, mtags := u.mtags, readBuf := u.readBuf, firmLate := u.firmLate, corrected := u.corrected, cores := u.cores
                   badChans := u.badChans, repairs := u.repairs, planeBad := u.planeBad } ∧
      (e.cls = 1 → e.loc < 4096 → e.loc < s.cores.length → 2 ≤ n → (u.core e.loc).badRow = true) ∧
      (e.cls = 1 → e.loc / 4096 = 1 → s.corrLimit ≠ 0 → s.corrLimit ≤ total → e.loc % 4096 ∈ u.badChans ∨ e.loc % 4096 ∈ s.lostChans))) ∧
  (∀ (s : State) (e : ErrInfo) (fmt : Nat), e.cls = 12 → s.trackFmt e.addr = some fmt → Sparse.wf s.dir = true →
    Answers (.correctedError e) s (fun u => (∀ k, Sparse.read u.dir k = if k = e.addr / 8192 then dirEntry 0 0 fmt 0 0 else Sparse.read s.dir k) ∧
      (e.loc / 4096 = 2 → Mapped s u 2 (e.loc % 4096) 0) ∧ (e.loc / 4096 ≠ 2 → u.repairs = s.repairs))) ∧
  (∀ (s : State) (e : ErrInfo), e.cls = 2 ∨ e.cls = 6 → (s.poolOf e.addr).isSome = true → Sparse.wf s.mem = true →
    Answers (.uncorrectedMemoryError e) s (fun u => FirmOnly s u ∧ (∀ k, firmByte (128 * k) = false → (k ∈ u.poison ↔ k = lineOf e.addr ∨ k ∈ s.poison)) ∧
      (Sparse.wf s.dir = true → (s.trackFmt (e.addr / 8192 * 8192)).isSome = true → dirClass (Sparse.read u.dir (e.addr / 8192)).toNat = 0) ∧
      (e.cls = 2 → e.loc / 4096 = 1 → e.loc % 4096 ∈ u.badChans ∨ e.loc % 4096 ∈ s.lostChans) ∧
      (s.errLog = [] → u.errLog.head? = some ⟨s.ns, 128 * lineOf e.addr, 0, e.loc, e.cls, 1, 1, 0, 0⟩))) ∧
  (∀ (s : State) (core : Nat) (e : ErrInfo) (l : Launch),
    s.teams.any (fun t => t.serial == e.addr && t.onCore && t.halves.any (fun h => h.core == core)) = true → s.launch? e.addr = some l → l.st.final = false → l.replaying = false →
    Answers (.stateLoss core e) s (fun u => (Sparse.wf s.mem = true → FirmOnly s u) ∧ (core < s.cores.length → (u.core core).badRow = true) ∧ (∀ t ∈ u.teams, t.serial ≠ e.addr) ∧
      ∃ y, u.launch? e.addr = some y ∧ y.st = .failed ∧ y.err = 0x0C ∧ y.detail = 0x0100)) ∧
  (∀ (s : State) (c : Nat), c < 96 → c < s.cores.length → s.halted = false → (s.core c).service = true → (s.core c).marked = true ∨ (s.core c).worn = true → idleCore s c = true →
    Answers (.coreRetireDrain c) s (fun u => Replaced s u c ∧ (Sparse.wf s.mem = true → FirmOnly s u))) ∧
  (∀ (s : State) (stack chan : Nat),
    let c := 32 * stack + chan
    let n := nth 0 s.spareChans stack
    stack < 16 → chan < 30 → c ∈ s.badChans →
    Answers (.channelRepair stack chan) s (fun u => (Sparse.wf s.mem = true → FirmOnly s u) ∧ c ∉ u.badChans ∧
      (n ≠ 0 → nth 0 u.spareChans stack = n - 1 ∧ Mapped s u 1 c (2 - n)) ∧ (n = 0 → u = { s with badChans := u.badChans, lostChans := s.lostChans ++ [c] }))) ∧
  (∀ (s : State) (c : Nat),
    c < 96 → c < s.cores.length → s.halted = false → (s.core c).service = true → (s.core c).testing = false → s.testsOn (c / 24) c = false → s.coreEmpty c = true → (s.core c).l1 = [] →
    Answers (.infieldTest c) s (fun u => (u.core c).testing = true ∧ (u.core c).closed = true ∧ (u.core c).badRow = false ∧ (∀ k, k ≠ c → u.core k = s.core k) ∧
      if (s.core c).badRow then Mapped s u 0 c 0 else u = { s with cores := u.cores })) ∧
  (∀ (s : State) (i : Nat) (y : Spare), s.spares[i]? = some y → y.free = true →
    (s.halted = false → s.testsOn (i / 2) (96 + i) = false →
      Answers (.infieldTest (96 + i)) s (fun u => u = { s with spares := u.spares } ∧ u.spares[i]? = some { y with testing := true })) ∧
    (y.testing = true →
      Answers (.infieldTestComplete (96 + i) true) s (fun u => u = { s with spares := u.spares } ∧ u.spares[i]? = some { y with testing := false, test := s.ns }) ∧
      Answers (.infieldTestComplete (96 + i) false) s (fun u => (u.spares[i]?).map (·.free) = some false ∧
        (s.errLog = [] → u.errLog = [⟨s.ns, 0, 0, 96 + i, 9, 4, 1, y.test / 60000000000 % 65536, 0⟩])))) ∧
  (∀ (s : State) (c : Nat), c < 96 → (s.core c).testing = true →
    Answers (.infieldTestComplete c true) s (fun u => u = { s with cores := u.cores } ∧ u.core c = { s.core c with testing := false, closed := (s.core c).marked, test := s.ns }) ∧
    Answers (.infieldTestComplete c false) s (fun u => Replaced s u c ∧ (Sparse.wf s.mem = true → FirmOnly s u))) ∧
  (∀ (s : State) (die way : Nat), die < 4 → s.sparedWays.any (fun x => x.1 == die && x.2 / 16 == way / 16) = false →
    Answers (.l2WayRepair die way) s (fun u => (Sparse.wf s.mem = true → FirmOnly s u) ∧ u.sparedWays = s.sparedWays ++ [(die, way)] ∧ Mapped s u 2 die way))

/-! ## Dies -/

namespace Sys2Proof.Claims

/-- Only one die's endpoint register differs, and it becomes `x`. -/
def EpOnly (s u : State) (d : Nat) (x : Eps) : Prop := u = { s with eps := u.eps } ∧ u.ep d = x ∧ ∀ k, k ≠ d → u.ep k = s.ep k

/-- A die with no team, no transaction and nothing in its caches. -/
def quietDie (s : State) (d : Nat) : Prop := s.teams.all (fun t => !t.onDie d) = true ∧ s.flights = [] ∧ ∀ c, coreOnDie c d = true → (s.core c).l1 = []

/-- A quiet die that is lost: its register becomes `x`, no line and no translation is left in its cores, and memory changes only where the error log stands. -/
def Lost (s u : State) (d : Nat) (x : Eps) : Prop :=
  u.ep d = x ∧ (∀ k, k ≠ d → u.ep k = s.ep k) ∧ (Sparse.wf s.mem = true → FirmLines s u) ∧ u.launches = s.launches ∧ nth [] u.dtlb d = [] ∧
  ∀ c, coreOnDie c d = true → (u.core c).l1 = [] ∧ (c < s.cores.length → (u.core c).tlb = [])

/-- Of the module, only its ports may differ, and what a record of the error log writes. -/
def PortsLogged (s u : State) : Prop :=
  u = { s with ports := u.ports, errLog := u.errLog, errCount := u.errCount, mem := u.mem, poison := u.poison, mtags := u.mtags, readBuf := u.readBuf, firmLate := u.firmLate, repairs := u.repairs }

end Sys2Proof.Claims

/-- R326, R334, R335, R336, R338, R354: the endpoint of a die. A command that its state admits is taken, one that it does not sets REFUSED; a held command proceeds once the die is drained; a die without a heartbeat
is ORPHANED with HANG set; a reset that passes returns the die to ACTIVE, with poison in all its memory when its power was off. That an admitted
command clears REFUSED, and that a release gives up a held command, is log entry 64, the model's reading; records that wait for a die to come back are log entry 106. -/
def Obligations.DieCommands : Prop :=
  ∀ (s : State) (d : Nat),
    let x := s.ep d
    d < s.eps.length →
    (s.mx.lock = false →
      (x.st = .active → quietDie s d → Answers (.cmdQuiesce d) s (fun u => EpOnly s u d { x with st := .quiescing, refused := false })) ∧
      (x.st = .quiescing → Answers (.cmdRelease d) s (fun u => EpOnly s u d { x with st := .active, refused := false, held := none })) ∧
      (quietDie s d → x.st = .active ∨ s.drained d = true → Answers (.cmdComputeReset d) s (fun u => Lost s u d { x with st := .orphaned, refused := false, held := none })) ∧
      (x.st = .quiescing → s.drained d = false → Answers (.cmdComputeReset d) s (fun u => EpOnly s u d { x with refused := false, held := some false })) ∧
      (quietDie s d → x.st = .orphaned ∨ s.drained d = true → Answers (.cmdPowerOff d) s (fun u => Lost s u d { x with st := .dark, refused := false, held := none, cold := true })) ∧
      (x.st = .quiescing → s.drained d = false → Answers (.cmdPowerOff d) s (fun u => EpOnly s u d { x with refused := false, held := some true })) ∧
      (x.st = .dark → Answers (.cmdPowerOn d) s (fun u => EpOnly s u d { x with st := .orphaned, refused := false }))) ∧
    (s.mx.lock = true ∨ x.st ≠ .active → Answers (.cmdQuiesce d) s (fun u => EpOnly s u d { x with refused := true })) ∧
    (s.mx.lock = true ∨ x.st ≠ .quiescing → Answers (.cmdRelease d) s (fun u => EpOnly s u d { x with refused := true })) ∧
    (s.mx.lock = true ∨ x.st = .orphaned ∨ x.st = .dark → Answers (.cmdComputeReset d) s (fun u => EpOnly s u d { x with refused := true })) ∧
    (s.mx.lock = true ∨ x.st = .active ∨ x.st = .dark → Answers (.cmdPowerOff d) s (fun u => EpOnly s u d { x with refused := true })) ∧
    (s.mx.lock = true ∨ x.st ≠ .dark → Answers (.cmdPowerOn d) s (fun u => EpOnly s u d { x with refused := true })) ∧
    (∀ off, quietDie s d → s.drained d = true → x.held = some off →
      Answers (.dieDrained d) s (fun u => Lost s u d { x with st := if off then .dark else .orphaned, held := none, cold := x.cold || off })) ∧
    (quietDie s d → d < 4 → s.served d = true →
      Answers (.dieWatchdog d) s (fun u => Lost s u d { x with st := .orphaned, held := none, hang := true } ∧
        (s.errLog = [] → u.errLog = [⟨s.ns, 0, 0, 4 * 4096 + d, 8, 0, 1, 0, 0⟩]))) ∧
    (x.st = .orphaned → s.mx.lock = false → s.halted = false → d < 4 → (∀ c, c < 64 → (s.ctx c).waiting = []) →
      Answers (.dieResetComplete d false) s (fun u => u = s) ∧
      Answers (.dieResetComplete d true) s (fun u => u.ep d = { x with st := .active, cold := false } ∧ u.mem = s.mem ∧ (x.cold = false → u.poison = s.poison) ∧
        (x.cold = true → ∀ k, k ∈ u.poison ↔ k ∈ s.dieLines d ∨ k ∈ s.poison))) ∧
    (∀ bits, Answers (.epsFlagClear d bits) s (fun u => EpOnly s u d { x with refused := x.refused && !nbit bits 4, hang := x.hang && !nbit bits 3 }))

/-! ## The Lighthouse and the fabric -/

namespace Sys2Proof.Claims

/-- Of the module, only one port differs. -/
def PortOnly (s u : State) (p : Nat) : Prop := u = { s with ports := u.ports } ∧ ∀ q, q ≠ p → u.port q = s.port q

/-- A port has asked its neighbour for the flits after the last good one (R343). -/
def AsksAgain (x y : Port) : Prop := y.ack = x.ack ∧ ∃ g, y.out = [flitBytes g] ∧ g.kind = 2 ∧ g.ack = x.ack

/-- The flits that a port keeps which come after an ACK. -/
def keptAfter (x : Port) (ack : Nat) : List Flit := x.kept.filter (fun k => decide ((k.seq % 4096 + 4096 - (ack + 1) % 4096) % 4096 < 2048))

/-- The port as it stands once a data flit in order has been accepted with one transaction: credits come back, what its ACK names is no longer retried, and its slots are owed. -/
def accepted1 (x : Port) (f : Flit) (t : Txn) : Port :=
  { x.heard f with ack := f.seq % 4096, owed := (x.owed.1 + (slotUse t).1, x.owed.2 + (slotUse t).2) }

/-- The line of a physical address is a memory's line with the bytes of a mask taken from a number. -/
def Masked (m n : Mem) (pa mask data : Nat) : Prop :=
  ∀ a, Sparse.read n a = if lineOf a = lineOf pa ∧ nbit mask (a % 128) = true then BitVec.ofNat 8 (data / 256 ^ (a % 128)) else Sparse.read m a

end Sys2Proof.Claims

/-- R321, R324, R328, R337 to R345: the island reset, in which a failed crossbar plane takes the spare one if it is left; a ROUTE write, in force at once on the lanes without an outstanding request
and on the others when they change over; flits: one that is not good, or shows a gap, is asked for again, one that comes again is discarded, the next in order is accepted once, a retry request resends what
follows its ACK, and the eighth retry of a flit retrains the port;
requests of other modules performed with check values, forwarded within three hops or answered ENDPOINT-DOWN; TYPEs 6 to 15 discarded and counted in RETRIES; lanes and ports, whose errors are logged. What an island
reset leaves of the ports and how a port trains are log entry 65, the kinds of a repair log entry 83, which requests keep a lane from changing over and the order of leaving log entry 57: the model's choices. -/
def Obligations.FabricEvents : Prop :=
  (∀ s : State,
    ((∀ d, d < 4 → (s.ep d).st = .dark ∨ s.drained d = true) → (∀ p ∈ s.ports, p.en = false) →
      Answers .islandReset s (fun u => u.islReset = true ∧ (s.planeBad = true → s.sparePlane = true → u.planeBad = false ∧ u.sparePlane = false ∧ Mapped s u 5 0 0) ∧
        (s.planeBad = false ∨ s.sparePlane = false → u = { s with islReset := true }))) ∧
    ((∃ d, d < 4 ∧ (s.ep d).st ≠ .dark ∧ s.drained d = false) ∨ (∃ p ∈ s.ports, p.en = true) → Answers .islandReset s (fun u => u = { s with islRefused := true })) ∧
    (s.islReset = true → Answers .islandResetComplete s (fun u => u.islReset = false ∧ u.islRefused = false ∧ (∀ m, m < 256 → u.routeWord m = 0) ∧ (∀ p, p < 32 → u.port p = {}) ∧
      u = { s with islReset := false, islRefused := false, routes := u.routes, ports := u.ports, transit := [] }))) ∧
  (∀ (s : State) (k v lane : Nat), k < 256 → k < s.routes.length → s.islReset = false → s.mx.lock = false → lane < 16 →
    Answers (.routeWrite k v) s (fun u => u = { s with routes := u.routes } ∧ (∀ m, m ≠ k → u.routeFor m lane = s.routeFor m lane) ∧
      u.routeFor k lane = if k = s.mid ∨ s.laneBusy k lane = true then s.routeFor k lane else (nbit v 32, v % 2 ^ 32))) ∧
  (∀ (s : State) (k lane : Nat), s.laneBusy k lane = false →
    Answers (.routeLaneChangeover k lane) s (fun u => u = { s with routes := u.routes } ∧ u.routeFor k lane = ((nth {} s.routes k).valid, (nth {} s.routes k).ports) ∧
      ∀ n, n ≠ lane → u.routeFor k n = s.routeFor k n)) ∧
  (∀ (s : State) (p : Nat) (f : Flit), p < 32 → p < s.ports.length → s.portDown p = false → s.islReset = false →
    let x := s.port p; let d := (f.seq % 4096 + 4096 - (x.ack + 1) % 4096) % 4096; let again := keptAfter x f.ack
    (flitGood f = false → Answers (.flitReceive p f) s (fun u => PortsLogged s u ∧ (∀ q, q ≠ p → u.port q = s.port q) ∧ AsksAgain x (u.port p) ∧
      (s.errLog = [] → u.errLog = [⟨s.ns, 0, 0, 3 * 4096 + p, 7, 0, 1, 18, 0⟩]))) ∧
    (flitGood f = true → f.kind = 0 → 2048 ≤ d → Answers (.flitReceive p f) s (fun u => u = s)) ∧
    (flitGood f = true → f.kind = 0 → d ≠ 0 → d < 2048 → Answers (.flitReceive p f) s (fun u => PortOnly s u p ∧ AsksAgain x (u.port p))) ∧
    (∀ t, flitGood f = true → f.kind = 0 → d = 0 → f.txns = [t] →
      (t.typ ≤ 2 → t.dst ≠ s.mid → t.hops < 3 →
        Answers (.flitReceive p f) s (fun u => u.port p = accepted1 x f t ∧ u = { s with ports := u.ports, outQ := s.outQ ++ [{ t with hops := t.hops + 1, port := 0 }] })) ∧
      (6 ≤ t.typ → Answers (.flitReceive p f) s (fun u => u.port p = { accepted1 x f t with retries := min (2 ^ 32 - 1) (x.retries + 1) } ∧ PortOnly s u p))) ∧
    (flitGood f = true → f.kind = 1 ∨ f.kind = 3 → Answers (.flitReceive p f) s (fun u => u.port p = x.heard f ∧ PortOnly s u p)) ∧
    (flitGood f = true → 4 ≤ f.kind → Answers (.flitReceive p f) s (fun u => u = s)) ∧
    (flitGood f = true → f.kind = 2 → (∀ r ∈ x.row, r.2 < 7) →
      Answers (.flitReceive p f) s (fun u => PortsLogged s u ∧ (u.port p).out = again.map flitBytes ∧ (u.port p).retries = min (2 ^ 32 - 1) (x.retries + again.length) ∧
        (s.errLog = [] → u.errLog = [⟨s.ns, 0, 0, 3 * 4096 + p, 7, 0, 1, 17, 0⟩]))) ∧
    (∀ k n, flitGood f = true → f.kind = 2 → k ∈ again → x.row = [(k.seq, n)] → 7 ≤ n → Answers (.flitReceive p f) s (fun u => PortsLogged s u ∧ (u.port p).row = []))) ∧
  (∀ (s : State) (f : Txn), s.islReset = false → s.outQ.find? (fun x => sameWay x f) ≠ some f →
    (f.typ ≤ 2 → f.dst ≠ s.mid → f.hops < 3 → Answers (.fabricTransaction f) s (fun u => u = s.send { f with hops := f.hops + 1, port := 0 })) ∧
    (f.typ ≤ 2 → f.dst ≠ s.mid → 3 ≤ f.hops → f.src ≠ s.mid → Answers (.fabricTransaction f) s (fun u => u = s.send (txnAnswer f s.mid 1 0 true))) ∧
    (3 ≤ f.typ → f.typ < 6 → f.dst ≠ s.mid → f.hops ≤ 3 → Answers (.fabricTransaction f) s (fun u => u.outQ = s.outQ ++ [{ f with hops := min 3 (f.hops + 1), port := 0 }] ∧
      u = { s with outQ := u.outQ, transit := s.transit.eraseP (fun (x : Nat × Nat × Nat × Nat) => x.2 == (f.lane, f.dst, f.tag)) })) ∧
    (6 ≤ f.typ → f.port < s.ports.length → Answers (.fabricTransaction f) s (fun u =>
      PortOnly s u f.port ∧ u.port f.port = { s.port f.port with retries := min (2 ^ 32 - 1) ((s.port f.port).retries + 1) })) ∧
    (f.dst = s.mid → f.src ≠ s.mid → f.typ ≤ 2 → Answers (.fabricTransaction f) s (fun u => match Config.domainWindow f.src f.addr with
      | none => u = s.send (txnAnswer f s.mid 2 0 false)
      | some (w0, w, maj) =>
        let pa := 128 * lineOf w0 + f.addr % 128; let n := txnBytes f; let old := s.devRead pa n
        (maj = true ∨ (f.typ ≠ 0 ∧ w = false) → u = s.send (txnAnswer f s.mid 3 0 false)) ∧
        (maj = false → s.served (s.dieOf pa) = true → s.poison.contains (lineOf pa) = false →
          (f.typ = 0 → u = s.send (txnAnswer f s.mid 0 (s.devRead (128 * lineOf pa) 128) false)) ∧
          (f.typ = 1 → w = true → f.pois = false → f.cv = lineCheck f.data → s.launch? 0 = none → Memory.wf s.mem = true →
            Masked s.mem u.mem pa f.mask f.data ∧ u.outQ = s.outQ ++ [txnAnswer f s.mid 0 0 false]) ∧
          (f.typ = 2 → w = true → f.pois = false → f.cv = lineCheck f.data → s.launch? 0 = none →
            u.outQ = s.outQ ++ [txnAnswer f s.mid 0 old false] ∧
            u.mem = match atomOp (f.aop % 16) (f.aop / 2 ^ 10) old (f.data % 256 ^ n) (f.data / 256 ^ n % 256 ^ n) with | some v => Sparse.writeList s.mem pa (leBytes n v) | none => s.mem) ∧
          (f.typ = 1 → w = true → f.cv ≠ lineCheck f.data → f.mask % 2 ^ 128 ≠ 0 → firmByte (128 * lineOf pa) = false → s.launch? 0 = none →
            lineOf pa ∈ u.poison ∧ u.outQ = s.outQ ++ [txnAnswer f s.mid 0 0 false] ∧ (s.errLog = [] → u.errLog = [⟨s.ns, 128 * lineOf pa, 0, 5 * 4096, 6, 1, 1, 0, 0x0C⟩])))))) ∧
  (∀ (s : State) (f : Txn), s.islReset = false → s.outQ.find? (fun x => sameWay x f) = some f → f.dst ≠ s.mid →
    (∀ p, s.outPort f.dst f.lane = some p → p < s.ports.length → s.portDown p = false → (slotUse f).1 ≤ (s.port p).credits.1 → (slotUse f).2 ≤ (s.port p).credits.2 →
      Answers (.fabricTransaction f) s (fun u => u.outQ = s.outQ.erase f ∧ (f.typ ≤ 2 → u.transit = s.transit ++ [(f.dst, f.lane, f.src, f.tag)]) ∧
        (u.port p).txSeq = ((s.port p).txSeq + 1) % 4096 ∧ (u.port p).credits = ((s.port p).credits.1 - (slotUse f).1, (s.port p).credits.2 - (slotUse f).2) ∧
        ∃ g, (u.port p).kept = ((s.port p).kept ++ [g]).drop ((s.port p).kept.length + 1 - 512) ∧ (u.port p).out = [flitBytes g] ∧ flitGood g = true ∧ g.txns = [f] ∧ g.seq = (s.port p).txSeq ∧
          g.ack = (s.port p).ack ∧ g.kind = 0)) ∧
    (s.outPort f.dst f.lane = none → f.typ ≤ 2 → f.src ≠ s.mid →
      Answers (.fabricTransaction f) s (fun u => u = ({ s with outQ := s.outQ.erase f } : State).send (txnAnswer f s.mid 1 0 true)))) ∧
  (∀ (s : State) (p : Nat) (l : LaneFail), p < 32 → p < s.ports.length → l.lane < 9 →
    ((∀ n, l.errs = some n → s.laneLimit < n) →
      Answers (.laneSpare p l) s (fun u => u.port p = { s.port p with bad := if (s.port p).bad.contains l.lane then (s.port p).bad else (s.port p).bad ++ [l.lane] } ∧ PortsLogged s u ∧
        (s.errLog = [] → u.errLog = [⟨s.ns, 0, 0, 3 * 4096 + p, 7, 0, 1, l.lane, 0⟩]))) ∧
    (∀ n, l.errs = some n → n ≤ s.laneLimit → Answers (.laneSpare p l) s (fun u => u = s))) ∧
  (∀ (s : State) (p : Nat), p < 32 → p < s.ports.length →
    let x := s.port p; let k := x.bad.length; let takes := x.bad.any (fun l => decide (l < 8)) && !x.bad.contains 8
    Answers (.portRetrain p) s (fun u => PortsLogged s u ∧ (x.spared = false → x.en = true → takes = true → Mapped s u 3 p 0) ∧
      (x.en = false → (u.port p).up = false ∧ (u.port p).width = 0) ∧
      (x.en = true → (u.port p).spared = (x.spared || takes) ∧ (k ≤ 1 → (u.port p).up = true ∧ (u.port p).width = 2) ∧ (1 < k → k ≤ 5 → (u.port p).up = true ∧ (u.port p).width = 1) ∧
        (5 < k → (u.port p).up = false))))

/-! ## The host, power, the mailbox and the Shutter -/

/-- R54, R144, R303, R311, R312, R328, R332, R336, R346 to R348, R357: a host write within a line of a function's window is performed at device scope, or dropped and counted in DROPS while its home is not
served; one to an executable page writes nothing; a host read gives the bytes of its line and its poison; a host AtomicOp is performed and brings the old value; BAR0 registers; AtomicOp Requester Enable
and the size of BAR2; a notice held by a masked vector is sent when it is unmasked; the power cap and the steps of the arithmetic clock with what allows them. The places of
registers, windows and configuration bits are log entry 53, which pages count as executable is 58, an access beside all windows 63, and the operands of an AtomicOp 107: the model's choices. What the sensors show is a
free value (log entry 68). -/
def Obligations.HostAndPower : Prop :=
  (∀ (s : State) (x : HostAccess) (data : List Nat) (w : Window),
    let pa := w.pa + (x.off - w.lo)
    s.halted = false → s.window? x.fn x.off = some w →
    (x.atom = none → 0 < data.length → x.off / 128 = (x.off + data.length - 1) / 128 →
      (s.codePage pa = true → Answers (.bar2Write x data) s (fun u => u = s)) ∧
      (w.mset = none → s.codePage pa = false → s.served (s.dieOf pa) = true → s.launch? 0 = none →
        Answers (.bar2Write x data) s (fun u => u.mem = Sparse.writeList s.mem pa (data.map (BitVec.ofNat 8)))) ∧
      (w.mset = none → s.codePage pa = false → s.served (s.dieOf pa) = false →
        Answers (.bar2Write x data) s (fun u => (u.ep (s.dieOf pa)).drops = min (2 ^ 32 - 1) ((s.ep (s.dieOf pa)).drops + 1)))) ∧
    (∀ k n, x.atom = some k → k ≤ 2 → n = 4 ∨ n = 8 → data.length = (if k = 2 then 2 * n else n) → x.off % n = 0 → pa % n = 0 → w.mset = none → s.codePage pa = false → s.poisoned pa n = false →
      s.served (s.dieOf pa) = true → s.launch? 0 = none → Memory.wf s.mem = true →
      let old := s.devRead pa n; let v := leNat (data.map (BitVec.ofNat 8)); let a := v % 256 ^ n; let b := v / 256 ^ n
      let new := match k with | 0 => (old + a) % 256 ^ n | 1 => a | _ => if old = a then b else old
      Answers (.bar2Write x data) s (fun u => u.readOut = leBytes n old ∧ u.readEp = false ∧
        ∀ i, Sparse.read u.mem i = if pa ≤ i ∧ i < pa + n then BitVec.ofNat 8 (new / 256 ^ (i - pa)) else Sparse.read s.mem i))) ∧
  (∀ (s : State) (x : HostAccess) (size : Nat), 0 < size → x.off / 128 = (x.off + size - 1) / 128 →
    (s.window? x.fn x.off = none → Answers (.bar2Read x size) s (fun u => u.readOut = List.replicate size 0 ∧ u.readEp = true ∧ u = { s with readOut := u.readOut, readEp := u.readEp })) ∧
    (∀ w, let pa := w.pa + (x.off - w.lo)
      s.window? x.fn x.off = some w → w.mset = none → pa % 128 + size ≤ 128 → s.readBuf.all (fun b => b.line != lineOf pa) = true → s.served (s.dieOf pa) = true →
      Answers (.bar2Read x size) s (fun u => u.readOut = Sparse.readList s.mem pa size ∧ u.readEp = s.poison.contains (lineOf pa) ∧ u.mem = s.mem))) ∧
  (∀ (s : State) (v : Nat), s.mx.lock = false →
    (v ≠ 0 → Answers (.controlRegisterWrite 0x50008 v) s (fun u => u = { s with scrubHours := v })) ∧
    (1 ≤ v → v ≤ 168 → Answers (.controlRegisterWrite 0x50010 v) s (fun u => u = { s with testHours := v })) ∧
    Answers (.controlRegisterWrite 0x50018 v) s (fun u => u = { s with cap := v }) ∧
    Answers (.controlRegisterWrite 0x50020 v) s (fun u => u = { s with corrLimit := v }) ∧
    Answers (.controlRegisterWrite 0x50028 v) s (fun u => u = { s with laneLimit := v }) ∧
    (∀ p, p < 32 → p < s.ports.length → s.islReset = false → Answers (.controlRegisterWrite (0x71000 + 8 * p) v) s (fun u => (u.port p).en = nbit v 0 ∧
      ∀ q, q ≠ p → u.port q = s.port q))) ∧
  (∀ (s : State) (fn v g : Nat), fn < 64 → let n := nbits v 8 6
    Answers (.pcieConfigWrite fn 0x28 v) s (fun u => u = { s with atomEn := u.atomEn } ∧ (g ∈ u.atomEn ↔ if g = fn then nbit v 6 = true else g ∈ s.atomEn)) ∧
    Answers (.pcieConfigWrite fn 0x208 v) s (fun u => u = { s with barSizes := if 10 ≤ n ∧ n ≤ 20 then s.barSizes.set fn (20 + n) else s.barSizes })) ∧
  (∀ (s : State) (v : Nat), v % 2 ^ 16 < vecCount (v / 2 ^ 16) →
    Answers (.vectorUnmask v) s (fun u => v ∉ u.vecMask ∧ v ∉ u.vecPend ∧ u.notices = s.notices ++ (if v ∈ s.vecPend then [v] else []) ∧
      u = { s with vecMask := u.vecMask, vecPend := u.vecPend, notices := u.notices })) ∧
  (∀ (s : State) (w : Nat), Answers (.powerCapWrite w) s (fun u => u = { s with cap := w })) ∧
  (∀ s : State, s.throttle ≤ 22 →
    let trigger : Prop := 9200 < s.sensePower ∨ (∃ t ∈ s.senseTemps, 105 < t) ∨ (s.cap ≠ 0 ∧ 2 * s.cap < s.sensePower)
    let cooled : Prop := (∀ t ∈ s.senseTemps, t < 100) ∧ s.hotAt + 10000000 ≤ s.ns ∧ s.stepAt + 10000000 ≤ s.ns
    Answers .throttleStepDown s (fun u => u = { s with draw := s.draw + 5, throttle := u.throttle, stepAt := u.stepAt, hotAt := u.hotAt } ∧
      (trigger → s.throttle = 0 ∨ s.stepAt + 1000000 ≤ s.ns → u.clockMHz = max 500 (s.clockMHz - 20)) ∧ (¬ trigger → u.throttle = s.throttle) ∧
      (s.throttle ≠ 0 → s.ns < s.stepAt + 1000000 → u.throttle = s.throttle)) ∧
    Answers .throttleStepUp s (fun u => u = { s with draw := s.draw + 5, throttle := u.throttle, stepAt := u.stepAt, hotAt := u.hotAt } ∧
      (¬ trigger → cooled → u.clockMHz = min 940 (s.clockMHz + 20)) ∧ (trigger ∨ ¬ cooled → u.throttle = s.throttle)))

namespace Sys2Proof.Claims

/-- May a command of a number end: no other runs in the mailbox (R352)? -/
def mayEnd (s : State) (n : Nat) : Prop := s.mx.cmd = none ∨ s.mx.cmd = some n

end Sys2Proof.Claims

/-- R326, R330, R346, R349 to R354, R356: the mailbox commands and their STATUS, REFUSED while another runs and STATUS 4 under the Shutter's lock; its control word, whose CMD runs until its result is there; the
Shutter erases the keys, makes every IDE stream insecure, stops the command processor and orphans the dies with the launches on them; a module reset brings the module up again, as far as the first part that
fails: each image signed and not older than the fused minimum, and the repair map that the fuses and its copy give. How the mailbox runs is log entry 56, the numbers of streams 12, and what survives a module
reset, the order of bring-up and what a stopped one leaves undone 55: the model's choices. -/
def Obligations.MailboxAndShutter : Prop :=
  (∀ (s : State) (i : Instr) (n : Nat),
    (i, n) ∈ [(Instr.attestationReport, 1), (.extendRegister, 2), (.addContainerKey, 3), (.readCertificateChain, 4), (.ideKeyExchange, 5), (.mailboxBadCommand 0, 0), (.mailboxBadCommand 6, 6)] →
    (∀ c, s.mx.cmd = some c → c ≠ n → Answers i s (fun u => u = { s with mx := { s.mx with refused := true } })) ∧
    (mayEnd s n → s.mx.lock = true → Answers i s (fun u => u = { s with mx := { s.mx with cmd := none, status := 4, len := 0 } }))) ∧
  (∀ (s : State) (v : Nat),
    (nbit v 9 = true → v % 256 = 0 → Answers (.controlRegisterWrite 0x80000 v) s (fun u => u = { s with mx := { s.mx with refused := false } })) ∧
    (nbit v 9 = false → s.mx.cmd.isSome = true → Answers (.controlRegisterWrite 0x80000 v) s (fun u => u = { s with mx := { s.mx with refused := true } })) ∧
    (nbit v 9 = false → s.mx.cmd = none → Answers (.controlRegisterWrite 0x80000 v) s (fun u => u = { s with mx :=
      if s.mx.lock then { s.mx with status := 4, len := 0 } else { s.mx with cmd := some (v % 256) } }))) ∧
  (∀ s : State, s.mx.lock = false → Sparse.wf s.mx.buf = true →
    (mayEnd s 1 → s.mx.identity = true → Answers .attestationReport s (fun u => u.mx.cmd = none ∧ u.mx.status = 0 ∧ u.mx.len = s.reportBody.length + 4627 ∧
      Sparse.readList u.mx.buf 0 s.reportBody.length = s.reportBody)) ∧
    (mayEnd s 1 → s.mx.identity = false → Answers .attestationReport s (fun u => u.mx = { s.mx with cmd := none, status := 3, len := 0 })) ∧
    (∀ x, mayEnd s 2 → s.mx.m[6]? = some x → Answers .extendRegister s (fun u => u.mx.status = 0 ∧ u.mx.m[6]? = some (sha3_512 (leBytes 64 x.toNat ++ s.mx.bytes 64)) ∧
      ∀ k, k ≠ 6 → u.mx.m[k]? = s.mx.m[k]?)) ∧
    (mayEnd s 3 → Answers .addContainerKey s (fun u => (s.mx.keys.length < 8 → u.mx.status = 0 ∧ u.mx.keys = s.mx.keys ++ [s.mx.bytes 2592]) ∧
      (8 ≤ s.mx.keys.length → u.mx.status = 5 ∧ u.mx.keys = s.mx.keys))) ∧
    (mayEnd s 4 → Answers .readCertificateChain s (fun u => u.mx.status = 0 ∧ u.mx.len = Config.certificate.length ∧ Sparse.readList u.mx.buf 0 Config.certificate.length = Config.certificate)) ∧
    (mayEnd s 5 → s.mx.identity = true → Answers .ideKeyExchange s (fun u => u.mx.status = 0 ∧ match (Config.spdm (s.mx.bytes 8192)).2 with
      | some (n, key) => if n < 257 then (n, key) ∈ u.mx.ide ∧ n ∈ u.mx.secure ∧ (∀ x, x.1 ≠ n → (x ∈ u.mx.ide ↔ x ∈ s.mx.ide)) else u.mx.ide = s.mx.ide ∧ u.mx.secure = s.mx.secure
      | none => u.mx.ide = s.mx.ide ∧ u.mx.secure = s.mx.secure)) ∧
    (mayEnd s 5 → s.mx.identity = false → Answers .ideKeyExchange s (fun u => u.mx = { s.mx with cmd := none, status := 3, len := 0 })) ∧
    (∀ c, c = 0 ∨ 5 < c → mayEnd s c → Answers (.mailboxBadCommand c) s (fun u => u.mx = { s.mx with cmd := none, status := 1, len := 0 }))) ∧
  (∀ s : State, Answers .mailboxRefusedClear s (fun u => u = { s with mx := { s.mx with refused := false } })) ∧
  (∀ (s : State) (alarm : Nat), s.mx.lock = false → 1 ≤ alarm → alarm ≤ 5 → s.eps.length = 4 →
    let m := if s.mx.cmd = none then s.mx else { s.mx with cmd := none, status := 4, len := 0 }
    Answers (.shutter alarm) s (fun u => u.mx = { m with identity := false, keys := [], ide := [], secure := [], lock := true, shut := true, alrm := alarm, count := s.mx.count + 1 } ∧
      u.halted = true ∧ u.teams = [] ∧ (∀ d, d < 4 → (u.ep d).st = if s.served d then .orphaned else (s.ep d).st) ∧
      ∀ (l : Launch) (d : Nat), s.flights = [] → d < 4 → s.served d = true → l.serial ∈ s.launchesOn d → s.launch? l.serial = some l → l.st.final = false → l.replaying = false →
        ∃ y, u.launch? l.serial = some y ∧ y.st = .failed ∧ y.err = 0x0D ∧ y.detail = 0x0200)) ∧
  (∀ s : State, let done := bootDone s.draw; let zeroed : Bool := s.mx.shut && done.contains .zero
    Answers .moduleReset s (fun u =>
      u.mem = (if zeroed then [] else s.mem) ∧ u.launches = (if zeroed then [] else s.launches.filter (fun l => l.st.final)) ∧ u.teams = [] ∧ u.flights = [] ∧
      (∀ i k, Boot.image i k ∈ done → Config.imageSigned i k = true ∧ Config.securityVersion.toNat ≤ Config.imageVersion i k) ∧
      (Boot.map ∈ done → u.repairs = applyMap s.fuses s.repairs ∧ u.fuses = applyMap s.fuses s.repairs) ∧ (Boot.map ∉ done → u.repairs = s.repairs ∧ u.fuses = s.fuses) ∧
      (Boot.work 3 ∉ done → ∀ p, p < 32 → (u.port p).up = false) ∧
      (∀ c, c < 64 → (u.ctx c).reg = false) ∧ (∀ q, q < 256 → (u.queue q).reg = false) ∧ u.mx.lock = false ∧ u.mx.keys = [] ∧ u.mx.secure = [] ∧ u.mx.identity = s.mx.identity ∧
      ((∀ p ∈ bootOrder, p.ok s.draw = true) → u.halted = false ∧ ∀ d, d < 4 → u.ep d = {}) ∧
      ((∃ p ∈ bootOrder, p.ok s.draw = false) → u.halted = true ∧ (∀ d, d < 4 → (u.ep d).st = .orphaned) ∧
        ∀ i k, bootOrder[done.length]? = some (.image i k) → u.mx.status = 2)))
end

