-- ==== Sys2Proof/Laws/Access.lean ====
section
/-!
SUPPORT. What a lookup finds after an update: teams, waves, halves, groups, cores, contexts, launches and transactions.
-/

namespace Sys2Proof.Machine

theorem nth_modNth {α : Type} (d : α) (l : List α) (i j : Nat) (f : α → α) (h : i < l.length) :
    nth d (modNth l i f) j = if j = i then f (nth d l j) else nth d l j := by
  unfold nth modNth
  simp only [List.getD_eq_getElem?_getD, List.getElem?_modify]
  by_cases hj : j = i
  · subst hj; simp [h]
  · simp [hj, Ne.symm hj]

theorem find?_map_key {α : Type} (key : α → Nat) (f : α → α) (t n : Nat) (hf : ∀ x, key (f x) = key x) :
    ∀ l : List α, (l.map (fun x => if key x = t then f x else x)).find? (fun x => key x == n) =
      (l.find? (fun x => key x == n)).map (fun x => if n = t then f x else x)
  | [] => rfl
  | x :: l => by
    have ih := find?_map_key key f t n hf l
    by_cases hx : key x = t
    · by_cases hn : key x = n
      · have : n = t := by omega
        simp [hx, this, hf]
      · have : ¬ t = n := by omega
        simp only [List.map_cons, hx, if_true]
        rw [List.find?_cons_of_neg (by simp [hf, hn]), List.find?_cons_of_neg (by simp [hn]), ih]
    · by_cases hn : key x = n
      · have : ¬ n = t := by omega
        simp [hn, this]
      · simp only [List.map_cons, hx, if_false]
        rw [List.find?_cons_of_neg (by simp [hn]), List.find?_cons_of_neg (by simp [hn]), ih]

/-- The team of an id after a change of a team that keeps its id. -/
theorem State.team?_modTeam (s : State) (t n : Nat) (f : Team → Team) (hf : ∀ x : Team, (f x).id = x.id) :
    (s.modTeam t f).team? n = (s.team? n).map (fun x => if n = t then f x else x) :=
  find?_map_key (fun x : Team => x.id) f t n hf s.teams

@[simp] theorem Team.modWave_id (x : Team) (w : Nat) (f : Wave → Wave) : (x.modWave w f).id = x.id := rfl
@[simp] theorem Team.modHalf_id (x : Team) (h : Nat) (f : Half → Half) : (x.modHalf h f).id = x.id := rfl
@[simp] theorem Team.modWave_halves (x : Team) (w : Nat) (f : Wave → Wave) : (x.modWave w f).halves = x.halves := rfl
@[simp] theorem Team.modHalf_waves (x : Team) (h : Nat) (f : Half → Half) : (x.modHalf h f).waves = x.waves := rfl
@[simp] theorem Team.modWave_waves (x : Team) (w : Nat) (f : Wave → Wave) : (x.modWave w f).waves = modNth x.waves w f := rfl
@[simp] theorem Team.modHalf_halves (x : Team) (h : Nat) (f : Half → Half) : (x.modHalf h f).halves = modNth x.halves h f := rfl

/-- The team of an id after a change of a wave. -/
theorem State.team?_modWave (s : State) (t n w : Nat) (f : Wave → Wave) :
    (s.modWave t w f).team? n = (s.team? n).map (fun x => if n = t then x.modWave w f else x) :=
  s.team?_modTeam t n (fun x => x.modWave w f) (fun _ => rfl)

/-- The team of an id after a change of a half. -/
theorem State.team?_modHalf (s : State) (t n h : Nat) (f : Half → Half) :
    (s.modHalf t h f).team? n = (s.team? n).map (fun x => if n = t then x.modHalf h f else x) :=
  s.team?_modTeam t n (fun x => x.modHalf h f) (fun _ => rfl)

/-- A wave after its own change. -/
theorem State.wave?_modWave (s : State) (t w : Nat) (f : Wave → Wave) : (s.modWave t w f).wave? t w = (s.wave? t w).map f := by
  unfold State.wave?
  rw [s.team?_modWave]
  cases s.team? t with
  | none => rfl
  | some x => simp [modNth]

/-- A wave after the change of another wave of its team, or of a wave of another team. -/
theorem State.wave?_modWave_ne (s : State) (t w n k : Nat) (f : Wave → Wave) (h : n ≠ t ∨ k ≠ w) : (s.modWave t w f).wave? n k = s.wave? n k := by
  unfold State.wave?
  rw [s.team?_modWave]
  cases s.team? n with
  | none => rfl
  | some x =>
    by_cases hn : n = t
    · rcases h with h | h
      · exact absurd hn h
      · simp [hn, modNth, Ne.symm h]
    · simp [hn]

/-- A wave after a change of a half. -/
theorem State.wave?_modHalf (s : State) (t n h k : Nat) (f : Half → Half) : (s.modHalf t h f).wave? n k = s.wave? n k := by
  unfold State.wave?
  rw [s.team?_modHalf]
  cases s.team? n with
  | none => rfl
  | some x => by_cases hn : n = t <;> simp [hn]

/-- A half after its own change. -/
theorem State.half?_modHalf (s : State) (t h : Nat) (f : Half → Half) : (s.modHalf t h f).half? t h = (s.half? t h).map f := by
  unfold State.half?
  rw [s.team?_modHalf]
  cases s.team? t with
  | none => rfl
  | some x => simp [modNth]

/-- A half after a change of a wave. -/
theorem State.half?_modWave (s : State) (t n w h : Nat) (f : Wave → Wave) : (s.modWave t w f).half? n h = s.half? n h := by
  unfold State.half?
  rw [s.team?_modWave]
  cases s.team? n with
  | none => rfl
  | some x => by_cases hn : n = t <;> simp [hn]

/-- A launch after a change of a launch that keeps its serial. -/
theorem State.launch?_modLaunch (s : State) (n k : Nat) (f : Launch → Launch) (hf : ∀ x : Launch, (f x).serial = x.serial) :
    (s.modLaunch n f).launch? k = (s.launch? k).map (fun x => if k = n then f x else x) :=
  find?_map_key (fun x : Launch => x.serial) f n k hf s.launches

/-- A core after the change of a core. -/
theorem State.core_modCore (s : State) (c k : Nat) (f : CoreSt → CoreSt) (h : c < s.cores.length) :
    (s.modCore c f).core k = if k = c then f (s.core k) else s.core k := nth_modNth _ _ _ _ _ h

/-- A context after the change of a context. -/
theorem State.ctx_modCtx (s : State) (c k : Nat) (f : CtxSt → CtxSt) (h : c < s.ctxs.length) :
    (s.modCtx c f).ctx k = if k = c then f (s.ctx k) else s.ctx k := nth_modNth _ _ _ _ _ h

/-- A queue after the change of a queue. -/
theorem State.queues_modQueue (s : State) (q k : Nat) (f : QueueSt → QueueSt) (h : q < s.queues.length) :
    nth {} (s.modQueue q f).queues k = if k = q then f (nth {} s.queues k) else nth {} s.queues k := nth_modNth _ _ _ _ _ h

/-- Updates of cores, contexts and launches find the same teams. -/
@[simp] theorem State.team?_modCore (s : State) (c n : Nat) (f : CoreSt → CoreSt) : (s.modCore c f).team? n = s.team? n := rfl
@[simp] theorem State.team?_modCtx (s : State) (c n : Nat) (f : CtxSt → CtxSt) : (s.modCtx c f).team? n = s.team? n := rfl
@[simp] theorem State.team?_modLaunch (s : State) (k n : Nat) (f : Launch → Launch) : (s.modLaunch k f).team? n = s.team? n := rfl
@[simp] theorem State.wave?_modCore (s : State) (c n w : Nat) (f : CoreSt → CoreSt) : (s.modCore c f).wave? n w = s.wave? n w := rfl
@[simp] theorem State.wave?_modCtx (s : State) (c n w : Nat) (f : CtxSt → CtxSt) : (s.modCtx c f).wave? n w = s.wave? n w := rfl
@[simp] theorem State.wave?_modLaunch (s : State) (k n w : Nat) (f : Launch → Launch) : (s.modLaunch k f).wave? n w = s.wave? n w := rfl

/-- The wave's register writes: a lane reads back what was written to one of its main registers (R18, R21). -/
theorem Lane.reg_setReg (l : Lane) (i j : Nat) (x : Word) (h : i < l.v.length) :
    (l.setReg i x).reg j = if j = i then ⟨x, false, 0⟩ else l.reg j := by
  unfold Lane.setReg Lane.reg nth
  simp only [List.getD_eq_getElem?_getD, List.getElem?_set]
  by_cases hj : j = i
  · subst hj; simp [h]
  · simp [hj, Ne.symm hj]

end Sys2Proof.Machine
end

