-- ==== Sys2Proof/Laws/Exec.lean ====
section
/-!
SUPPORT. Which instructions issue as trees: every one of class A or M but `bar.arr.m`, which is an exchange.
-/

namespace Sys2Proof.Machine

/-- Does an instruction issue as a tree (R73, R77, R186)? -/
def Instr.asTree (i : Instr) : Bool :=
  match i.op? with
  | some (k, _, _) => opClass k.byte != .H && k != .barArrM
  | none => true

/-- The row of an instruction that issues as a tree executes the issue of its tree. -/
theorem exec_asTree (i : Instr) (t : Tree) (h : i.tree? = some t) (ha : Instr.asTree i = true) (s : State) : exec i s = .next (issueTree t s) := by
  cases i <;> first
    | (injection h with h; subst h; rfl)
    | (have h : (none : Option Tree) = some t := h; simp at h; done)
    | (have ha : false = true := ha; simp at ha; done)

/-- An instruction of class-A operations issues as a tree. -/
theorem asTree_of_classA (i : Instr) (t : Tree) (h : i.tree? = some t) (hc : t.ops.all (fun o => decide (opClass o.opc.toNat = .A)) = true) :
    Instr.asTree i = true := by
  cases i <;> first
    | rfl
    | (injection h with h; subst h; exact absurd hc (by simp [Tree.one, Opcode.byte, opClass]))

end Sys2Proof.Machine
end

