-- ==== Sys2Proof/Laws/Fabric.lean ====
section
/-!
SUPPORT. What a port puts on its link (R343).
-/

namespace Sys2Proof.Machine

/-- The bytes that the CRC covers do not hold it. -/
theorem flitBody_crc (f : Flit) (n : Nat) : flitBody { f with crc := n } = flitBody f := rfl

theorem Port.emit_crc (x : Port) (kind : Nat) (l : List Txn) : (x.emit kind l).2 = { (x.emit kind l).2 with crc := (crc32c (flitBody (x.emit kind l).2)).toNat } := rfl

/-- The flit that a port puts on its link is good. -/
theorem Port.emit_good (x : Port) (kind : Nat) (l : List Txn) : flitGood (x.emit kind l).2 = true := by
  unfold flitGood
  rw [show (x.emit kind l).2.crc = _ from congrArg Flit.crc (x.emit_crc kind l)]
  simp only [beq_self_eq_true, Bool.and_true]
  rfl

theorem Port.emit_out (x : Port) (kind : Nat) (l : List Txn) : (x.emit kind l).1.out = [flitBytes (x.emit kind l).2] := rfl
theorem Port.emit_kind (x : Port) (kind : Nat) (l : List Txn) : (x.emit kind l).2.kind = kind := rfl
theorem Port.emit_ack (x : Port) (kind : Nat) (l : List Txn) : (x.emit kind l).2.ack = x.ack := rfl
theorem Port.emit_seq (x : Port) (kind : Nat) (l : List Txn) : (x.emit kind l).2.seq = x.txSeq := rfl
theorem Port.emit_txns (x : Port) (kind : Nat) (l : List Txn) : (x.emit kind l).2.txns = l := rfl

/-- Of the port, only the slots that it owes and what stands on its link change. -/
theorem Port.emit_frame (x : Port) (kind : Nat) (l : List Txn) : (x.emit kind l).1 = { x with owed := (x.emit kind l).1.owed, out := (x.emit kind l).1.out } := rfl

end Sys2Proof.Machine
end

