-- ==== Sys2Proof/Laws/State.lean ====
section
/-!
SUPPORT. What each update of the state leaves alone: one lemma per field.
-/

namespace Sys2Proof.Machine

variable (s : State)


@[simp] theorem State.modTeam_cores (t : Nat) (f : Team → Team) : (s.modTeam t f).cores = s.cores := rfl
@[simp] theorem State.modTeam_mem (t : Nat) (f : Team → Team) : (s.modTeam t f).mem = s.mem := rfl
@[simp] theorem State.modTeam_hostMem (t : Nat) (f : Team → Team) : (s.modTeam t f).hostMem = s.hostMem := rfl
@[simp] theorem State.modTeam_poison (t : Nat) (f : Team → Team) : (s.modTeam t f).poison = s.poison := rfl
@[simp] theorem State.modTeam_tracked (t : Nat) (f : Team → Team) : (s.modTeam t f).tracked = s.tracked := rfl
@[simp] theorem State.modTeam_dir (t : Nat) (f : Team → Team) : (s.modTeam t f).dir = s.dir := rfl
@[simp] theorem State.modTeam_msets (t : Nat) (f : Team → Team) : (s.modTeam t f).msets = s.msets := rfl
@[simp] theorem State.modTeam_msetLen (t : Nat) (f : Team → Team) : (s.modTeam t f).msetLen = s.msetLen := rfl
@[simp] theorem State.modTeam_mtags (t : Nat) (f : Team → Team) : (s.modTeam t f).mtags = s.mtags := rfl
@[simp] theorem State.modTeam_pools (t : Nat) (f : Team → Team) : (s.modTeam t f).pools = s.pools := rfl
@[simp] theorem State.modTeam_flights (t : Nat) (f : Team → Team) : (s.modTeam t f).flights = s.flights := rfl
@[simp] theorem State.modTeam_ats (t : Nat) (f : Team → Team) : (s.modTeam t f).ats = s.ats := rfl
@[simp] theorem State.modTeam_ctxs (t : Nat) (f : Team → Team) : (s.modTeam t f).ctxs = s.ctxs := rfl
@[simp] theorem State.modTeam_queues (t : Nat) (f : Team → Team) : (s.modTeam t f).queues = s.queues := rfl
@[simp] theorem State.modTeam_launches (t : Nat) (f : Team → Team) : (s.modTeam t f).launches = s.launches := rfl
@[simp] theorem State.modTeam_nextSerial (t : Nat) (f : Team → Team) : (s.modTeam t f).nextSerial = s.nextSerial := rfl
@[simp] theorem State.modTeam_lastQueue (t : Nat) (f : Team → Team) : (s.modTeam t f).lastQueue = s.lastQueue := rfl
@[simp] theorem State.modTeam_halted (t : Nat) (f : Team → Team) : (s.modTeam t f).halted = s.halted := rfl
@[simp] theorem State.modTeam_wanted (t : Nat) (f : Team → Team) : (s.modTeam t f).wanted = s.wanted := rfl
@[simp] theorem State.modTeam_conts (t : Nat) (f : Team → Team) : (s.modTeam t f).conts = s.conts := rfl
@[simp] theorem State.modTeam_codes (t : Nat) (f : Team → Team) : (s.modTeam t f).codes = s.codes := rfl
@[simp] theorem State.modTeam_dtlb (t : Nat) (f : Team → Team) : (s.modTeam t f).dtlb = s.dtlb := rfl
@[simp] theorem State.modTeam_windows (t : Nat) (f : Team → Team) : (s.modTeam t f).windows = s.windows := rfl
@[simp] theorem State.modTeam_barSizes (t : Nat) (f : Team → Team) : (s.modTeam t f).barSizes = s.barSizes := rfl
@[simp] theorem State.modTeam_readBuf (t : Nat) (f : Team → Team) : (s.modTeam t f).readBuf = s.readBuf := rfl
@[simp] theorem State.modTeam_atomEn (t : Nat) (f : Team → Team) : (s.modTeam t f).atomEn = s.atomEn := rfl
@[simp] theorem State.modTeam_vecMask (t : Nat) (f : Team → Team) : (s.modTeam t f).vecMask = s.vecMask := rfl
@[simp] theorem State.modTeam_vecPend (t : Nat) (f : Team → Team) : (s.modTeam t f).vecPend = s.vecPend := rfl
@[simp] theorem State.modTeam_notices (t : Nat) (f : Team → Team) : (s.modTeam t f).notices = s.notices := rfl
@[simp] theorem State.modTeam_hostAdds (t : Nat) (f : Team → Team) : (s.modTeam t f).hostAdds = s.hostAdds := rfl
@[simp] theorem State.modTeam_readOut (t : Nat) (f : Team → Team) : (s.modTeam t f).readOut = s.readOut := rfl
@[simp] theorem State.modTeam_readEp (t : Nat) (f : Team → Team) : (s.modTeam t f).readEp = s.readEp := rfl
@[simp] theorem State.modTeam_errLog (t : Nat) (f : Team → Team) : (s.modTeam t f).errLog = s.errLog := rfl
@[simp] theorem State.modTeam_errCount (t : Nat) (f : Team → Team) : (s.modTeam t f).errCount = s.errCount := rfl
@[simp] theorem State.modTeam_logBase (t : Nat) (f : Team → Team) : (s.modTeam t f).logBase = s.logBase := rfl
@[simp] theorem State.modTeam_repairs (t : Nat) (f : Team → Team) : (s.modTeam t f).repairs = s.repairs := rfl
@[simp] theorem State.modTeam_fuses (t : Nat) (f : Team → Team) : (s.modTeam t f).fuses = s.fuses := rfl
@[simp] theorem State.modTeam_spares (t : Nat) (f : Team → Team) : (s.modTeam t f).spares = s.spares := rfl
@[simp] theorem State.modTeam_spareChans (t : Nat) (f : Team → Team) : (s.modTeam t f).spareChans = s.spareChans := rfl
@[simp] theorem State.modTeam_badChans (t : Nat) (f : Team → Team) : (s.modTeam t f).badChans = s.badChans := rfl
@[simp] theorem State.modTeam_lostChans (t : Nat) (f : Team → Team) : (s.modTeam t f).lostChans = s.lostChans := rfl
@[simp] theorem State.modTeam_corrected (t : Nat) (f : Team → Team) : (s.modTeam t f).corrected = s.corrected := rfl
@[simp] theorem State.modTeam_corrLimit (t : Nat) (f : Team → Team) : (s.modTeam t f).corrLimit = s.corrLimit := rfl
@[simp] theorem State.modTeam_laneLimit (t : Nat) (f : Team → Team) : (s.modTeam t f).laneLimit = s.laneLimit := rfl
@[simp] theorem State.modTeam_planeBad (t : Nat) (f : Team → Team) : (s.modTeam t f).planeBad = s.planeBad := rfl
@[simp] theorem State.modTeam_sparePlane (t : Nat) (f : Team → Team) : (s.modTeam t f).sparePlane = s.sparePlane := rfl
@[simp] theorem State.modTeam_firmLate (t : Nat) (f : Team → Team) : (s.modTeam t f).firmLate = s.firmLate := rfl
@[simp] theorem State.modTeam_sparedWays (t : Nat) (f : Team → Team) : (s.modTeam t f).sparedWays = s.sparedWays := rfl
@[simp] theorem State.modTeam_testHours (t : Nat) (f : Team → Team) : (s.modTeam t f).testHours = s.testHours := rfl
@[simp] theorem State.modTeam_scrubHours (t : Nat) (f : Team → Team) : (s.modTeam t f).scrubHours = s.scrubHours := rfl
@[simp] theorem State.modTeam_mid (t : Nat) (f : Team → Team) : (s.modTeam t f).mid = s.mid := rfl
@[simp] theorem State.modTeam_eps (t : Nat) (f : Team → Team) : (s.modTeam t f).eps = s.eps := rfl
@[simp] theorem State.modTeam_routes (t : Nat) (f : Team → Team) : (s.modTeam t f).routes = s.routes := rfl
@[simp] theorem State.modTeam_ports (t : Nat) (f : Team → Team) : (s.modTeam t f).ports = s.ports := rfl
@[simp] theorem State.modTeam_islRefused (t : Nat) (f : Team → Team) : (s.modTeam t f).islRefused = s.islRefused := rfl
@[simp] theorem State.modTeam_islReset (t : Nat) (f : Team → Team) : (s.modTeam t f).islReset = s.islReset := rfl
@[simp] theorem State.modTeam_outQ (t : Nat) (f : Team → Team) : (s.modTeam t f).outQ = s.outQ := rfl
@[simp] theorem State.modTeam_transit (t : Nat) (f : Team → Team) : (s.modTeam t f).transit = s.transit := rfl
@[simp] theorem State.modTeam_mx (t : Nat) (f : Team → Team) : (s.modTeam t f).mx = s.mx := rfl
@[simp] theorem State.modTeam_throttle (t : Nat) (f : Team → Team) : (s.modTeam t f).throttle = s.throttle := rfl
@[simp] theorem State.modTeam_hotAt (t : Nat) (f : Team → Team) : (s.modTeam t f).hotAt = s.hotAt := rfl
@[simp] theorem State.modTeam_stepAt (t : Nat) (f : Team → Team) : (s.modTeam t f).stepAt = s.stepAt := rfl
@[simp] theorem State.modTeam_cap (t : Nat) (f : Team → Team) : (s.modTeam t f).cap = s.cap := rfl
@[simp] theorem State.modTeam_clock (t : Nat) (f : Team → Team) : (s.modTeam t f).clock = s.clock := rfl
@[simp] theorem State.modTeam_ns (t : Nat) (f : Team → Team) : (s.modTeam t f).ns = s.ns := rfl
@[simp] theorem State.modTeam_agenda (t : Nat) (f : Team → Team) : (s.modTeam t f).agenda = s.agenda := rfl
@[simp] theorem State.modTeam_cur (t : Nat) (f : Team → Team) : (s.modTeam t f).cur = s.cur := rfl
@[simp] theorem State.modTeam_disagree (t : Nat) (f : Team → Team) : (s.modTeam t f).disagree = s.disagree := rfl
@[simp] theorem State.modTeam_draw (t : Nat) (f : Team → Team) : (s.modTeam t f).draw = s.draw := rfl
@[simp] theorem State.modTeam_nextId (t : Nat) (f : Team → Team) : (s.modTeam t f).nextId = s.nextId := rfl
@[simp] theorem State.modTeam_seqNo (t : Nat) (f : Team → Team) : (s.modTeam t f).seqNo = s.seqNo := rfl
@[simp] theorem State.modTeam_admitNo (t : Nat) (f : Team → Team) : (s.modTeam t f).admitNo = s.admitNo := rfl

@[simp] theorem State.modWave_cores (t w : Nat) (f : Wave → Wave) : (s.modWave t w f).cores = s.cores := rfl
@[simp] theorem State.modWave_mem (t w : Nat) (f : Wave → Wave) : (s.modWave t w f).mem = s.mem := rfl
@[simp] theorem State.modWave_hostMem (t w : Nat) (f : Wave → Wave) : (s.modWave t w f).hostMem = s.hostMem := rfl
@[simp] theorem State.modWave_poison (t w : Nat) (f : Wave → Wave) : (s.modWave t w f).poison = s.poison := rfl
@[simp] theorem State.modWave_tracked (t w : Nat) (f : Wave → Wave) : (s.modWave t w f).tracked = s.tracked := rfl
@[simp] theorem State.modWave_dir (t w : Nat) (f : Wave → Wave) : (s.modWave t w f).dir = s.dir := rfl
@[simp] theorem State.modWave_msets (t w : Nat) (f : Wave → Wave) : (s.modWave t w f).msets = s.msets := rfl
@[simp] theorem State.modWave_msetLen (t w : Nat) (f : Wave → Wave) : (s.modWave t w f).msetLen = s.msetLen := rfl
@[simp] theorem State.modWave_mtags (t w : Nat) (f : Wave → Wave) : (s.modWave t w f).mtags = s.mtags := rfl
@[simp] theorem State.modWave_pools (t w : Nat) (f : Wave → Wave) : (s.modWave t w f).pools = s.pools := rfl
@[simp] theorem State.modWave_flights (t w : Nat) (f : Wave → Wave) : (s.modWave t w f).flights = s.flights := rfl
@[simp] theorem State.modWave_ats (t w : Nat) (f : Wave → Wave) : (s.modWave t w f).ats = s.ats := rfl
@[simp] theorem State.modWave_ctxs (t w : Nat) (f : Wave → Wave) : (s.modWave t w f).ctxs = s.ctxs := rfl
@[simp] theorem State.modWave_queues (t w : Nat) (f : Wave → Wave) : (s.modWave t w f).queues = s.queues := rfl
@[simp] theorem State.modWave_launches (t w : Nat) (f : Wave → Wave) : (s.modWave t w f).launches = s.launches := rfl
@[simp] theorem State.modWave_nextSerial (t w : Nat) (f : Wave → Wave) : (s.modWave t w f).nextSerial = s.nextSerial := rfl
@[simp] theorem State.modWave_lastQueue (t w : Nat) (f : Wave → Wave) : (s.modWave t w f).lastQueue = s.lastQueue := rfl
@[simp] theorem State.modWave_halted (t w : Nat) (f : Wave → Wave) : (s.modWave t w f).halted = s.halted := rfl
@[simp] theorem State.modWave_wanted (t w : Nat) (f : Wave → Wave) : (s.modWave t w f).wanted = s.wanted := rfl
@[simp] theorem State.modWave_conts (t w : Nat) (f : Wave → Wave) : (s.modWave t w f).conts = s.conts := rfl
@[simp] theorem State.modWave_codes (t w : Nat) (f : Wave → Wave) : (s.modWave t w f).codes = s.codes := rfl
@[simp] theorem State.modWave_dtlb (t w : Nat) (f : Wave → Wave) : (s.modWave t w f).dtlb = s.dtlb := rfl
@[simp] theorem State.modWave_windows (t w : Nat) (f : Wave → Wave) : (s.modWave t w f).windows = s.windows := rfl
@[simp] theorem State.modWave_barSizes (t w : Nat) (f : Wave → Wave) : (s.modWave t w f).barSizes = s.barSizes := rfl
@[simp] theorem State.modWave_readBuf (t w : Nat) (f : Wave → Wave) : (s.modWave t w f).readBuf = s.readBuf := rfl
@[simp] theorem State.modWave_atomEn (t w : Nat) (f : Wave → Wave) : (s.modWave t w f).atomEn = s.atomEn := rfl
@[simp] theorem State.modWave_vecMask (t w : Nat) (f : Wave → Wave) : (s.modWave t w f).vecMask = s.vecMask := rfl
@[simp] theorem State.modWave_vecPend (t w : Nat) (f : Wave → Wave) : (s.modWave t w f).vecPend = s.vecPend := rfl
@[simp] theorem State.modWave_notices (t w : Nat) (f : Wave → Wave) : (s.modWave t w f).notices = s.notices := rfl
@[simp] theorem State.modWave_hostAdds (t w : Nat) (f : Wave → Wave) : (s.modWave t w f).hostAdds = s.hostAdds := rfl
@[simp] theorem State.modWave_readOut (t w : Nat) (f : Wave → Wave) : (s.modWave t w f).readOut = s.readOut := rfl
@[simp] theorem State.modWave_readEp (t w : Nat) (f : Wave → Wave) : (s.modWave t w f).readEp = s.readEp := rfl
@[simp] theorem State.modWave_errLog (t w : Nat) (f : Wave → Wave) : (s.modWave t w f).errLog = s.errLog := rfl
@[simp] theorem State.modWave_errCount (t w : Nat) (f : Wave → Wave) : (s.modWave t w f).errCount = s.errCount := rfl
@[simp] theorem State.modWave_logBase (t w : Nat) (f : Wave → Wave) : (s.modWave t w f).logBase = s.logBase := rfl
@[simp] theorem State.modWave_repairs (t w : Nat) (f : Wave → Wave) : (s.modWave t w f).repairs = s.repairs := rfl
@[simp] theorem State.modWave_fuses (t w : Nat) (f : Wave → Wave) : (s.modWave t w f).fuses = s.fuses := rfl
@[simp] theorem State.modWave_spares (t w : Nat) (f : Wave → Wave) : (s.modWave t w f).spares = s.spares := rfl
@[simp] theorem State.modWave_spareChans (t w : Nat) (f : Wave → Wave) : (s.modWave t w f).spareChans = s.spareChans := rfl
@[simp] theorem State.modWave_badChans (t w : Nat) (f : Wave → Wave) : (s.modWave t w f).badChans = s.badChans := rfl
@[simp] theorem State.modWave_lostChans (t w : Nat) (f : Wave → Wave) : (s.modWave t w f).lostChans = s.lostChans := rfl
@[simp] theorem State.modWave_corrected (t w : Nat) (f : Wave → Wave) : (s.modWave t w f).corrected = s.corrected := rfl
@[simp] theorem State.modWave_corrLimit (t w : Nat) (f : Wave → Wave) : (s.modWave t w f).corrLimit = s.corrLimit := rfl
@[simp] theorem State.modWave_laneLimit (t w : Nat) (f : Wave → Wave) : (s.modWave t w f).laneLimit = s.laneLimit := rfl
@[simp] theorem State.modWave_planeBad (t w : Nat) (f : Wave → Wave) : (s.modWave t w f).planeBad = s.planeBad := rfl
@[simp] theorem State.modWave_sparePlane (t w : Nat) (f : Wave → Wave) : (s.modWave t w f).sparePlane = s.sparePlane := rfl
@[simp] theorem State.modWave_firmLate (t w : Nat) (f : Wave → Wave) : (s.modWave t w f).firmLate = s.firmLate := rfl
@[simp] theorem State.modWave_sparedWays (t w : Nat) (f : Wave → Wave) : (s.modWave t w f).sparedWays = s.sparedWays := rfl
@[simp] theorem State.modWave_testHours (t w : Nat) (f : Wave → Wave) : (s.modWave t w f).testHours = s.testHours := rfl
@[simp] theorem State.modWave_scrubHours (t w : Nat) (f : Wave → Wave) : (s.modWave t w f).scrubHours = s.scrubHours := rfl
@[simp] theorem State.modWave_mid (t w : Nat) (f : Wave → Wave) : (s.modWave t w f).mid = s.mid := rfl
@[simp] theorem State.modWave_eps (t w : Nat) (f : Wave → Wave) : (s.modWave t w f).eps = s.eps := rfl
@[simp] theorem State.modWave_routes (t w : Nat) (f : Wave → Wave) : (s.modWave t w f).routes = s.routes := rfl
@[simp] theorem State.modWave_ports (t w : Nat) (f : Wave → Wave) : (s.modWave t w f).ports = s.ports := rfl
@[simp] theorem State.modWave_islRefused (t w : Nat) (f : Wave → Wave) : (s.modWave t w f).islRefused = s.islRefused := rfl
@[simp] theorem State.modWave_islReset (t w : Nat) (f : Wave → Wave) : (s.modWave t w f).islReset = s.islReset := rfl
@[simp] theorem State.modWave_outQ (t w : Nat) (f : Wave → Wave) : (s.modWave t w f).outQ = s.outQ := rfl
@[simp] theorem State.modWave_transit (t w : Nat) (f : Wave → Wave) : (s.modWave t w f).transit = s.transit := rfl
@[simp] theorem State.modWave_mx (t w : Nat) (f : Wave → Wave) : (s.modWave t w f).mx = s.mx := rfl
@[simp] theorem State.modWave_throttle (t w : Nat) (f : Wave → Wave) : (s.modWave t w f).throttle = s.throttle := rfl
@[simp] theorem State.modWave_hotAt (t w : Nat) (f : Wave → Wave) : (s.modWave t w f).hotAt = s.hotAt := rfl
@[simp] theorem State.modWave_stepAt (t w : Nat) (f : Wave → Wave) : (s.modWave t w f).stepAt = s.stepAt := rfl
@[simp] theorem State.modWave_cap (t w : Nat) (f : Wave → Wave) : (s.modWave t w f).cap = s.cap := rfl
@[simp] theorem State.modWave_clock (t w : Nat) (f : Wave → Wave) : (s.modWave t w f).clock = s.clock := rfl
@[simp] theorem State.modWave_ns (t w : Nat) (f : Wave → Wave) : (s.modWave t w f).ns = s.ns := rfl
@[simp] theorem State.modWave_agenda (t w : Nat) (f : Wave → Wave) : (s.modWave t w f).agenda = s.agenda := rfl
@[simp] theorem State.modWave_cur (t w : Nat) (f : Wave → Wave) : (s.modWave t w f).cur = s.cur := rfl
@[simp] theorem State.modWave_disagree (t w : Nat) (f : Wave → Wave) : (s.modWave t w f).disagree = s.disagree := rfl
@[simp] theorem State.modWave_draw (t w : Nat) (f : Wave → Wave) : (s.modWave t w f).draw = s.draw := rfl
@[simp] theorem State.modWave_nextId (t w : Nat) (f : Wave → Wave) : (s.modWave t w f).nextId = s.nextId := rfl
@[simp] theorem State.modWave_seqNo (t w : Nat) (f : Wave → Wave) : (s.modWave t w f).seqNo = s.seqNo := rfl
@[simp] theorem State.modWave_admitNo (t w : Nat) (f : Wave → Wave) : (s.modWave t w f).admitNo = s.admitNo := rfl

@[simp] theorem State.modHalf_cores (t h : Nat) (f : Half → Half) : (s.modHalf t h f).cores = s.cores := rfl
@[simp] theorem State.modHalf_mem (t h : Nat) (f : Half → Half) : (s.modHalf t h f).mem = s.mem := rfl
@[simp] theorem State.modHalf_hostMem (t h : Nat) (f : Half → Half) : (s.modHalf t h f).hostMem = s.hostMem := rfl
@[simp] theorem State.modHalf_poison (t h : Nat) (f : Half → Half) : (s.modHalf t h f).poison = s.poison := rfl
@[simp] theorem State.modHalf_tracked (t h : Nat) (f : Half → Half) : (s.modHalf t h f).tracked = s.tracked := rfl
@[simp] theorem State.modHalf_dir (t h : Nat) (f : Half → Half) : (s.modHalf t h f).dir = s.dir := rfl
@[simp] theorem State.modHalf_msets (t h : Nat) (f : Half → Half) : (s.modHalf t h f).msets = s.msets := rfl
@[simp] theorem State.modHalf_msetLen (t h : Nat) (f : Half → Half) : (s.modHalf t h f).msetLen = s.msetLen := rfl
@[simp] theorem State.modHalf_mtags (t h : Nat) (f : Half → Half) : (s.modHalf t h f).mtags = s.mtags := rfl
@[simp] theorem State.modHalf_pools (t h : Nat) (f : Half → Half) : (s.modHalf t h f).pools = s.pools := rfl
@[simp] theorem State.modHalf_flights (t h : Nat) (f : Half → Half) : (s.modHalf t h f).flights = s.flights := rfl
@[simp] theorem State.modHalf_ats (t h : Nat) (f : Half → Half) : (s.modHalf t h f).ats = s.ats := rfl
@[simp] theorem State.modHalf_ctxs (t h : Nat) (f : Half → Half) : (s.modHalf t h f).ctxs = s.ctxs := rfl
@[simp] theorem State.modHalf_queues (t h : Nat) (f : Half → Half) : (s.modHalf t h f).queues = s.queues := rfl
@[simp] theorem State.modHalf_launches (t h : Nat) (f : Half → Half) : (s.modHalf t h f).launches = s.launches := rfl
@[simp] theorem State.modHalf_nextSerial (t h : Nat) (f : Half → Half) : (s.modHalf t h f).nextSerial = s.nextSerial := rfl
@[simp] theorem State.modHalf_lastQueue (t h : Nat) (f : Half → Half) : (s.modHalf t h f).lastQueue = s.lastQueue := rfl
@[simp] theorem State.modHalf_halted (t h : Nat) (f : Half → Half) : (s.modHalf t h f).halted = s.halted := rfl
@[simp] theorem State.modHalf_wanted (t h : Nat) (f : Half → Half) : (s.modHalf t h f).wanted = s.wanted := rfl
@[simp] theorem State.modHalf_conts (t h : Nat) (f : Half → Half) : (s.modHalf t h f).conts = s.conts := rfl
@[simp] theorem State.modHalf_codes (t h : Nat) (f : Half → Half) : (s.modHalf t h f).codes = s.codes := rfl
@[simp] theorem State.modHalf_dtlb (t h : Nat) (f : Half → Half) : (s.modHalf t h f).dtlb = s.dtlb := rfl
@[simp] theorem State.modHalf_windows (t h : Nat) (f : Half → Half) : (s.modHalf t h f).windows = s.windows := rfl
@[simp] theorem State.modHalf_barSizes (t h : Nat) (f : Half → Half) : (s.modHalf t h f).barSizes = s.barSizes := rfl
@[simp] theorem State.modHalf_readBuf (t h : Nat) (f : Half → Half) : (s.modHalf t h f).readBuf = s.readBuf := rfl
@[simp] theorem State.modHalf_atomEn (t h : Nat) (f : Half → Half) : (s.modHalf t h f).atomEn = s.atomEn := rfl
@[simp] theorem State.modHalf_vecMask (t h : Nat) (f : Half → Half) : (s.modHalf t h f).vecMask = s.vecMask := rfl
@[simp] theorem State.modHalf_vecPend (t h : Nat) (f : Half → Half) : (s.modHalf t h f).vecPend = s.vecPend := rfl
@[simp] theorem State.modHalf_notices (t h : Nat) (f : Half → Half) : (s.modHalf t h f).notices = s.notices := rfl
@[simp] theorem State.modHalf_hostAdds (t h : Nat) (f : Half → Half) : (s.modHalf t h f).hostAdds = s.hostAdds := rfl
@[simp] theorem State.modHalf_readOut (t h : Nat) (f : Half → Half) : (s.modHalf t h f).readOut = s.readOut := rfl
@[simp] theorem State.modHalf_readEp (t h : Nat) (f : Half → Half) : (s.modHalf t h f).readEp = s.readEp := rfl
@[simp] theorem State.modHalf_errLog (t h : Nat) (f : Half → Half) : (s.modHalf t h f).errLog = s.errLog := rfl
@[simp] theorem State.modHalf_errCount (t h : Nat) (f : Half → Half) : (s.modHalf t h f).errCount = s.errCount := rfl
@[simp] theorem State.modHalf_logBase (t h : Nat) (f : Half → Half) : (s.modHalf t h f).logBase = s.logBase := rfl
@[simp] theorem State.modHalf_repairs (t h : Nat) (f : Half → Half) : (s.modHalf t h f).repairs = s.repairs := rfl
@[simp] theorem State.modHalf_fuses (t h : Nat) (f : Half → Half) : (s.modHalf t h f).fuses = s.fuses := rfl
@[simp] theorem State.modHalf_spares (t h : Nat) (f : Half → Half) : (s.modHalf t h f).spares = s.spares := rfl
@[simp] theorem State.modHalf_spareChans (t h : Nat) (f : Half → Half) : (s.modHalf t h f).spareChans = s.spareChans := rfl
@[simp] theorem State.modHalf_badChans (t h : Nat) (f : Half → Half) : (s.modHalf t h f).badChans = s.badChans := rfl
@[simp] theorem State.modHalf_lostChans (t h : Nat) (f : Half → Half) : (s.modHalf t h f).lostChans = s.lostChans := rfl
@[simp] theorem State.modHalf_corrected (t h : Nat) (f : Half → Half) : (s.modHalf t h f).corrected = s.corrected := rfl
@[simp] theorem State.modHalf_corrLimit (t h : Nat) (f : Half → Half) : (s.modHalf t h f).corrLimit = s.corrLimit := rfl
@[simp] theorem State.modHalf_laneLimit (t h : Nat) (f : Half → Half) : (s.modHalf t h f).laneLimit = s.laneLimit := rfl
@[simp] theorem State.modHalf_planeBad (t h : Nat) (f : Half → Half) : (s.modHalf t h f).planeBad = s.planeBad := rfl
@[simp] theorem State.modHalf_sparePlane (t h : Nat) (f : Half → Half) : (s.modHalf t h f).sparePlane = s.sparePlane := rfl
@[simp] theorem State.modHalf_firmLate (t h : Nat) (f : Half → Half) : (s.modHalf t h f).firmLate = s.firmLate := rfl
@[simp] theorem State.modHalf_sparedWays (t h : Nat) (f : Half → Half) : (s.modHalf t h f).sparedWays = s.sparedWays := rfl
@[simp] theorem State.modHalf_testHours (t h : Nat) (f : Half → Half) : (s.modHalf t h f).testHours = s.testHours := rfl
@[simp] theorem State.modHalf_scrubHours (t h : Nat) (f : Half → Half) : (s.modHalf t h f).scrubHours = s.scrubHours := rfl
@[simp] theorem State.modHalf_mid (t h : Nat) (f : Half → Half) : (s.modHalf t h f).mid = s.mid := rfl
@[simp] theorem State.modHalf_eps (t h : Nat) (f : Half → Half) : (s.modHalf t h f).eps = s.eps := rfl
@[simp] theorem State.modHalf_routes (t h : Nat) (f : Half → Half) : (s.modHalf t h f).routes = s.routes := rfl
@[simp] theorem State.modHalf_ports (t h : Nat) (f : Half → Half) : (s.modHalf t h f).ports = s.ports := rfl
@[simp] theorem State.modHalf_islRefused (t h : Nat) (f : Half → Half) : (s.modHalf t h f).islRefused = s.islRefused := rfl
@[simp] theorem State.modHalf_islReset (t h : Nat) (f : Half → Half) : (s.modHalf t h f).islReset = s.islReset := rfl
@[simp] theorem State.modHalf_outQ (t h : Nat) (f : Half → Half) : (s.modHalf t h f).outQ = s.outQ := rfl
@[simp] theorem State.modHalf_transit (t h : Nat) (f : Half → Half) : (s.modHalf t h f).transit = s.transit := rfl
@[simp] theorem State.modHalf_mx (t h : Nat) (f : Half → Half) : (s.modHalf t h f).mx = s.mx := rfl
@[simp] theorem State.modHalf_throttle (t h : Nat) (f : Half → Half) : (s.modHalf t h f).throttle = s.throttle := rfl
@[simp] theorem State.modHalf_hotAt (t h : Nat) (f : Half → Half) : (s.modHalf t h f).hotAt = s.hotAt := rfl
@[simp] theorem State.modHalf_stepAt (t h : Nat) (f : Half → Half) : (s.modHalf t h f).stepAt = s.stepAt := rfl
@[simp] theorem State.modHalf_cap (t h : Nat) (f : Half → Half) : (s.modHalf t h f).cap = s.cap := rfl
@[simp] theorem State.modHalf_clock (t h : Nat) (f : Half → Half) : (s.modHalf t h f).clock = s.clock := rfl
@[simp] theorem State.modHalf_ns (t h : Nat) (f : Half → Half) : (s.modHalf t h f).ns = s.ns := rfl
@[simp] theorem State.modHalf_agenda (t h : Nat) (f : Half → Half) : (s.modHalf t h f).agenda = s.agenda := rfl
@[simp] theorem State.modHalf_cur (t h : Nat) (f : Half → Half) : (s.modHalf t h f).cur = s.cur := rfl
@[simp] theorem State.modHalf_disagree (t h : Nat) (f : Half → Half) : (s.modHalf t h f).disagree = s.disagree := rfl
@[simp] theorem State.modHalf_draw (t h : Nat) (f : Half → Half) : (s.modHalf t h f).draw = s.draw := rfl
@[simp] theorem State.modHalf_nextId (t h : Nat) (f : Half → Half) : (s.modHalf t h f).nextId = s.nextId := rfl
@[simp] theorem State.modHalf_seqNo (t h : Nat) (f : Half → Half) : (s.modHalf t h f).seqNo = s.seqNo := rfl
@[simp] theorem State.modHalf_admitNo (t h : Nat) (f : Half → Half) : (s.modHalf t h f).admitNo = s.admitNo := rfl

@[simp] theorem State.modGroup_cores (l : Loc) (f : Group → Group) : (s.modGroup l f).cores = s.cores := rfl
@[simp] theorem State.modGroup_mem (l : Loc) (f : Group → Group) : (s.modGroup l f).mem = s.mem := rfl
@[simp] theorem State.modGroup_hostMem (l : Loc) (f : Group → Group) : (s.modGroup l f).hostMem = s.hostMem := rfl
@[simp] theorem State.modGroup_poison (l : Loc) (f : Group → Group) : (s.modGroup l f).poison = s.poison := rfl
@[simp] theorem State.modGroup_tracked (l : Loc) (f : Group → Group) : (s.modGroup l f).tracked = s.tracked := rfl
@[simp] theorem State.modGroup_dir (l : Loc) (f : Group → Group) : (s.modGroup l f).dir = s.dir := rfl
@[simp] theorem State.modGroup_msets (l : Loc) (f : Group → Group) : (s.modGroup l f).msets = s.msets := rfl
@[simp] theorem State.modGroup_msetLen (l : Loc) (f : Group → Group) : (s.modGroup l f).msetLen = s.msetLen := rfl
@[simp] theorem State.modGroup_mtags (l : Loc) (f : Group → Group) : (s.modGroup l f).mtags = s.mtags := rfl
@[simp] theorem State.modGroup_pools (l : Loc) (f : Group → Group) : (s.modGroup l f).pools = s.pools := rfl
@[simp] theorem State.modGroup_flights (l : Loc) (f : Group → Group) : (s.modGroup l f).flights = s.flights := rfl
@[simp] theorem State.modGroup_ats (l : Loc) (f : Group → Group) : (s.modGroup l f).ats = s.ats := rfl
@[simp] theorem State.modGroup_ctxs (l : Loc) (f : Group → Group) : (s.modGroup l f).ctxs = s.ctxs := rfl
@[simp] theorem State.modGroup_queues (l : Loc) (f : Group → Group) : (s.modGroup l f).queues = s.queues := rfl
@[simp] theorem State.modGroup_launches (l : Loc) (f : Group → Group) : (s.modGroup l f).launches = s.launches := rfl
@[simp] theorem State.modGroup_nextSerial (l : Loc) (f : Group → Group) : (s.modGroup l f).nextSerial = s.nextSerial := rfl
@[simp] theorem State.modGroup_lastQueue (l : Loc) (f : Group → Group) : (s.modGroup l f).lastQueue = s.lastQueue := rfl
@[simp] theorem State.modGroup_halted (l : Loc) (f : Group → Group) : (s.modGroup l f).halted = s.halted := rfl
@[simp] theorem State.modGroup_wanted (l : Loc) (f : Group → Group) : (s.modGroup l f).wanted = s.wanted := rfl
@[simp] theorem State.modGroup_conts (l : Loc) (f : Group → Group) : (s.modGroup l f).conts = s.conts := rfl
@[simp] theorem State.modGroup_codes (l : Loc) (f : Group → Group) : (s.modGroup l f).codes = s.codes := rfl
@[simp] theorem State.modGroup_dtlb (l : Loc) (f : Group → Group) : (s.modGroup l f).dtlb = s.dtlb := rfl
@[simp] theorem State.modGroup_windows (l : Loc) (f : Group → Group) : (s.modGroup l f).windows = s.windows := rfl
@[simp] theorem State.modGroup_barSizes (l : Loc) (f : Group → Group) : (s.modGroup l f).barSizes = s.barSizes := rfl
@[simp] theorem State.modGroup_readBuf (l : Loc) (f : Group → Group) : (s.modGroup l f).readBuf = s.readBuf := rfl
@[simp] theorem State.modGroup_atomEn (l : Loc) (f : Group → Group) : (s.modGroup l f).atomEn = s.atomEn := rfl
@[simp] theorem State.modGroup_vecMask (l : Loc) (f : Group → Group) : (s.modGroup l f).vecMask = s.vecMask := rfl
@[simp] theorem State.modGroup_vecPend (l : Loc) (f : Group → Group) : (s.modGroup l f).vecPend = s.vecPend := rfl
@[simp] theorem State.modGroup_notices (l : Loc) (f : Group → Group) : (s.modGroup l f).notices = s.notices := rfl
@[simp] theorem State.modGroup_hostAdds (l : Loc) (f : Group → Group) : (s.modGroup l f).hostAdds = s.hostAdds := rfl
@[simp] theorem State.modGroup_readOut (l : Loc) (f : Group → Group) : (s.modGroup l f).readOut = s.readOut := rfl
@[simp] theorem State.modGroup_readEp (l : Loc) (f : Group → Group) : (s.modGroup l f).readEp = s.readEp := rfl
@[simp] theorem State.modGroup_errLog (l : Loc) (f : Group → Group) : (s.modGroup l f).errLog = s.errLog := rfl
@[simp] theorem State.modGroup_errCount (l : Loc) (f : Group → Group) : (s.modGroup l f).errCount = s.errCount := rfl
@[simp] theorem State.modGroup_logBase (l : Loc) (f : Group → Group) : (s.modGroup l f).logBase = s.logBase := rfl
@[simp] theorem State.modGroup_repairs (l : Loc) (f : Group → Group) : (s.modGroup l f).repairs = s.repairs := rfl
@[simp] theorem State.modGroup_fuses (l : Loc) (f : Group → Group) : (s.modGroup l f).fuses = s.fuses := rfl
@[simp] theorem State.modGroup_spares (l : Loc) (f : Group → Group) : (s.modGroup l f).spares = s.spares := rfl
@[simp] theorem State.modGroup_spareChans (l : Loc) (f : Group → Group) : (s.modGroup l f).spareChans = s.spareChans := rfl
@[simp] theorem State.modGroup_badChans (l : Loc) (f : Group → Group) : (s.modGroup l f).badChans = s.badChans := rfl
@[simp] theorem State.modGroup_lostChans (l : Loc) (f : Group → Group) : (s.modGroup l f).lostChans = s.lostChans := rfl
@[simp] theorem State.modGroup_corrected (l : Loc) (f : Group → Group) : (s.modGroup l f).corrected = s.corrected := rfl
@[simp] theorem State.modGroup_corrLimit (l : Loc) (f : Group → Group) : (s.modGroup l f).corrLimit = s.corrLimit := rfl
@[simp] theorem State.modGroup_laneLimit (l : Loc) (f : Group → Group) : (s.modGroup l f).laneLimit = s.laneLimit := rfl
@[simp] theorem State.modGroup_planeBad (l : Loc) (f : Group → Group) : (s.modGroup l f).planeBad = s.planeBad := rfl
@[simp] theorem State.modGroup_sparePlane (l : Loc) (f : Group → Group) : (s.modGroup l f).sparePlane = s.sparePlane := rfl
@[simp] theorem State.modGroup_firmLate (l : Loc) (f : Group → Group) : (s.modGroup l f).firmLate = s.firmLate := rfl
@[simp] theorem State.modGroup_sparedWays (l : Loc) (f : Group → Group) : (s.modGroup l f).sparedWays = s.sparedWays := rfl
@[simp] theorem State.modGroup_testHours (l : Loc) (f : Group → Group) : (s.modGroup l f).testHours = s.testHours := rfl
@[simp] theorem State.modGroup_scrubHours (l : Loc) (f : Group → Group) : (s.modGroup l f).scrubHours = s.scrubHours := rfl
@[simp] theorem State.modGroup_mid (l : Loc) (f : Group → Group) : (s.modGroup l f).mid = s.mid := rfl
@[simp] theorem State.modGroup_eps (l : Loc) (f : Group → Group) : (s.modGroup l f).eps = s.eps := rfl
@[simp] theorem State.modGroup_routes (l : Loc) (f : Group → Group) : (s.modGroup l f).routes = s.routes := rfl
@[simp] theorem State.modGroup_ports (l : Loc) (f : Group → Group) : (s.modGroup l f).ports = s.ports := rfl
@[simp] theorem State.modGroup_islRefused (l : Loc) (f : Group → Group) : (s.modGroup l f).islRefused = s.islRefused := rfl
@[simp] theorem State.modGroup_islReset (l : Loc) (f : Group → Group) : (s.modGroup l f).islReset = s.islReset := rfl
@[simp] theorem State.modGroup_outQ (l : Loc) (f : Group → Group) : (s.modGroup l f).outQ = s.outQ := rfl
@[simp] theorem State.modGroup_transit (l : Loc) (f : Group → Group) : (s.modGroup l f).transit = s.transit := rfl
@[simp] theorem State.modGroup_mx (l : Loc) (f : Group → Group) : (s.modGroup l f).mx = s.mx := rfl
@[simp] theorem State.modGroup_throttle (l : Loc) (f : Group → Group) : (s.modGroup l f).throttle = s.throttle := rfl
@[simp] theorem State.modGroup_hotAt (l : Loc) (f : Group → Group) : (s.modGroup l f).hotAt = s.hotAt := rfl
@[simp] theorem State.modGroup_stepAt (l : Loc) (f : Group → Group) : (s.modGroup l f).stepAt = s.stepAt := rfl
@[simp] theorem State.modGroup_cap (l : Loc) (f : Group → Group) : (s.modGroup l f).cap = s.cap := rfl
@[simp] theorem State.modGroup_clock (l : Loc) (f : Group → Group) : (s.modGroup l f).clock = s.clock := rfl
@[simp] theorem State.modGroup_ns (l : Loc) (f : Group → Group) : (s.modGroup l f).ns = s.ns := rfl
@[simp] theorem State.modGroup_agenda (l : Loc) (f : Group → Group) : (s.modGroup l f).agenda = s.agenda := rfl
@[simp] theorem State.modGroup_cur (l : Loc) (f : Group → Group) : (s.modGroup l f).cur = s.cur := rfl
@[simp] theorem State.modGroup_disagree (l : Loc) (f : Group → Group) : (s.modGroup l f).disagree = s.disagree := rfl
@[simp] theorem State.modGroup_draw (l : Loc) (f : Group → Group) : (s.modGroup l f).draw = s.draw := rfl
@[simp] theorem State.modGroup_nextId (l : Loc) (f : Group → Group) : (s.modGroup l f).nextId = s.nextId := rfl
@[simp] theorem State.modGroup_seqNo (l : Loc) (f : Group → Group) : (s.modGroup l f).seqNo = s.seqNo := rfl
@[simp] theorem State.modGroup_admitNo (l : Loc) (f : Group → Group) : (s.modGroup l f).admitNo = s.admitNo := rfl

@[simp] theorem State.modCore_teams (c : Nat) (f : CoreSt → CoreSt) : (s.modCore c f).teams = s.teams := rfl
@[simp] theorem State.modCore_mem (c : Nat) (f : CoreSt → CoreSt) : (s.modCore c f).mem = s.mem := rfl
@[simp] theorem State.modCore_hostMem (c : Nat) (f : CoreSt → CoreSt) : (s.modCore c f).hostMem = s.hostMem := rfl
@[simp] theorem State.modCore_poison (c : Nat) (f : CoreSt → CoreSt) : (s.modCore c f).poison = s.poison := rfl
@[simp] theorem State.modCore_tracked (c : Nat) (f : CoreSt → CoreSt) : (s.modCore c f).tracked = s.tracked := rfl
@[simp] theorem State.modCore_dir (c : Nat) (f : CoreSt → CoreSt) : (s.modCore c f).dir = s.dir := rfl
@[simp] theorem State.modCore_msets (c : Nat) (f : CoreSt → CoreSt) : (s.modCore c f).msets = s.msets := rfl
@[simp] theorem State.modCore_msetLen (c : Nat) (f : CoreSt → CoreSt) : (s.modCore c f).msetLen = s.msetLen := rfl
@[simp] theorem State.modCore_mtags (c : Nat) (f : CoreSt → CoreSt) : (s.modCore c f).mtags = s.mtags := rfl
@[simp] theorem State.modCore_pools (c : Nat) (f : CoreSt → CoreSt) : (s.modCore c f).pools = s.pools := rfl
@[simp] theorem State.modCore_flights (c : Nat) (f : CoreSt → CoreSt) : (s.modCore c f).flights = s.flights := rfl
@[simp] theorem State.modCore_ats (c : Nat) (f : CoreSt → CoreSt) : (s.modCore c f).ats = s.ats := rfl
@[simp] theorem State.modCore_ctxs (c : Nat) (f : CoreSt → CoreSt) : (s.modCore c f).ctxs = s.ctxs := rfl
@[simp] theorem State.modCore_queues (c : Nat) (f : CoreSt → CoreSt) : (s.modCore c f).queues = s.queues := rfl
@[simp] theorem State.modCore_launches (c : Nat) (f : CoreSt → CoreSt) : (s.modCore c f).launches = s.launches := rfl
@[simp] theorem State.modCore_nextSerial (c : Nat) (f : CoreSt → CoreSt) : (s.modCore c f).nextSerial = s.nextSerial := rfl
@[simp] theorem State.modCore_lastQueue (c : Nat) (f : CoreSt → CoreSt) : (s.modCore c f).lastQueue = s.lastQueue := rfl
@[simp] theorem State.modCore_halted (c : Nat) (f : CoreSt → CoreSt) : (s.modCore c f).halted = s.halted := rfl
@[simp] theorem State.modCore_wanted (c : Nat) (f : CoreSt → CoreSt) : (s.modCore c f).wanted = s.wanted := rfl
@[simp] theorem State.modCore_conts (c : Nat) (f : CoreSt → CoreSt) : (s.modCore c f).conts = s.conts := rfl
@[simp] theorem State.modCore_codes (c : Nat) (f : CoreSt → CoreSt) : (s.modCore c f).codes = s.codes := rfl
@[simp] theorem State.modCore_dtlb (c : Nat) (f : CoreSt → CoreSt) : (s.modCore c f).dtlb = s.dtlb := rfl
@[simp] theorem State.modCore_windows (c : Nat) (f : CoreSt → CoreSt) : (s.modCore c f).windows = s.windows := rfl
@[simp] theorem State.modCore_barSizes (c : Nat) (f : CoreSt → CoreSt) : (s.modCore c f).barSizes = s.barSizes := rfl
@[simp] theorem State.modCore_readBuf (c : Nat) (f : CoreSt → CoreSt) : (s.modCore c f).readBuf = s.readBuf := rfl
@[simp] theorem State.modCore_atomEn (c : Nat) (f : CoreSt → CoreSt) : (s.modCore c f).atomEn = s.atomEn := rfl
@[simp] theorem State.modCore_vecMask (c : Nat) (f : CoreSt → CoreSt) : (s.modCore c f).vecMask = s.vecMask := rfl
@[simp] theorem State.modCore_vecPend (c : Nat) (f : CoreSt → CoreSt) : (s.modCore c f).vecPend = s.vecPend := rfl
@[simp] theorem State.modCore_notices (c : Nat) (f : CoreSt → CoreSt) : (s.modCore c f).notices = s.notices := rfl
@[simp] theorem State.modCore_hostAdds (c : Nat) (f : CoreSt → CoreSt) : (s.modCore c f).hostAdds = s.hostAdds := rfl
@[simp] theorem State.modCore_readOut (c : Nat) (f : CoreSt → CoreSt) : (s.modCore c f).readOut = s.readOut := rfl
@[simp] theorem State.modCore_readEp (c : Nat) (f : CoreSt → CoreSt) : (s.modCore c f).readEp = s.readEp := rfl
@[simp] theorem State.modCore_errLog (c : Nat) (f : CoreSt → CoreSt) : (s.modCore c f).errLog = s.errLog := rfl
@[simp] theorem State.modCore_errCount (c : Nat) (f : CoreSt → CoreSt) : (s.modCore c f).errCount = s.errCount := rfl
@[simp] theorem State.modCore_logBase (c : Nat) (f : CoreSt → CoreSt) : (s.modCore c f).logBase = s.logBase := rfl
@[simp] theorem State.modCore_repairs (c : Nat) (f : CoreSt → CoreSt) : (s.modCore c f).repairs = s.repairs := rfl
@[simp] theorem State.modCore_fuses (c : Nat) (f : CoreSt → CoreSt) : (s.modCore c f).fuses = s.fuses := rfl
@[simp] theorem State.modCore_spares (c : Nat) (f : CoreSt → CoreSt) : (s.modCore c f).spares = s.spares := rfl
@[simp] theorem State.modCore_spareChans (c : Nat) (f : CoreSt → CoreSt) : (s.modCore c f).spareChans = s.spareChans := rfl
@[simp] theorem State.modCore_badChans (c : Nat) (f : CoreSt → CoreSt) : (s.modCore c f).badChans = s.badChans := rfl
@[simp] theorem State.modCore_lostChans (c : Nat) (f : CoreSt → CoreSt) : (s.modCore c f).lostChans = s.lostChans := rfl
@[simp] theorem State.modCore_corrected (c : Nat) (f : CoreSt → CoreSt) : (s.modCore c f).corrected = s.corrected := rfl
@[simp] theorem State.modCore_corrLimit (c : Nat) (f : CoreSt → CoreSt) : (s.modCore c f).corrLimit = s.corrLimit := rfl
@[simp] theorem State.modCore_laneLimit (c : Nat) (f : CoreSt → CoreSt) : (s.modCore c f).laneLimit = s.laneLimit := rfl
@[simp] theorem State.modCore_planeBad (c : Nat) (f : CoreSt → CoreSt) : (s.modCore c f).planeBad = s.planeBad := rfl
@[simp] theorem State.modCore_sparePlane (c : Nat) (f : CoreSt → CoreSt) : (s.modCore c f).sparePlane = s.sparePlane := rfl
@[simp] theorem State.modCore_firmLate (c : Nat) (f : CoreSt → CoreSt) : (s.modCore c f).firmLate = s.firmLate := rfl
@[simp] theorem State.modCore_sparedWays (c : Nat) (f : CoreSt → CoreSt) : (s.modCore c f).sparedWays = s.sparedWays := rfl
@[simp] theorem State.modCore_testHours (c : Nat) (f : CoreSt → CoreSt) : (s.modCore c f).testHours = s.testHours := rfl
@[simp] theorem State.modCore_scrubHours (c : Nat) (f : CoreSt → CoreSt) : (s.modCore c f).scrubHours = s.scrubHours := rfl
@[simp] theorem State.modCore_mid (c : Nat) (f : CoreSt → CoreSt) : (s.modCore c f).mid = s.mid := rfl
@[simp] theorem State.modCore_eps (c : Nat) (f : CoreSt → CoreSt) : (s.modCore c f).eps = s.eps := rfl
@[simp] theorem State.modCore_routes (c : Nat) (f : CoreSt → CoreSt) : (s.modCore c f).routes = s.routes := rfl
@[simp] theorem State.modCore_ports (c : Nat) (f : CoreSt → CoreSt) : (s.modCore c f).ports = s.ports := rfl
@[simp] theorem State.modCore_islRefused (c : Nat) (f : CoreSt → CoreSt) : (s.modCore c f).islRefused = s.islRefused := rfl
@[simp] theorem State.modCore_islReset (c : Nat) (f : CoreSt → CoreSt) : (s.modCore c f).islReset = s.islReset := rfl
@[simp] theorem State.modCore_outQ (c : Nat) (f : CoreSt → CoreSt) : (s.modCore c f).outQ = s.outQ := rfl
@[simp] theorem State.modCore_transit (c : Nat) (f : CoreSt → CoreSt) : (s.modCore c f).transit = s.transit := rfl
@[simp] theorem State.modCore_mx (c : Nat) (f : CoreSt → CoreSt) : (s.modCore c f).mx = s.mx := rfl
@[simp] theorem State.modCore_throttle (c : Nat) (f : CoreSt → CoreSt) : (s.modCore c f).throttle = s.throttle := rfl
@[simp] theorem State.modCore_hotAt (c : Nat) (f : CoreSt → CoreSt) : (s.modCore c f).hotAt = s.hotAt := rfl
@[simp] theorem State.modCore_stepAt (c : Nat) (f : CoreSt → CoreSt) : (s.modCore c f).stepAt = s.stepAt := rfl
@[simp] theorem State.modCore_cap (c : Nat) (f : CoreSt → CoreSt) : (s.modCore c f).cap = s.cap := rfl
@[simp] theorem State.modCore_clock (c : Nat) (f : CoreSt → CoreSt) : (s.modCore c f).clock = s.clock := rfl
@[simp] theorem State.modCore_ns (c : Nat) (f : CoreSt → CoreSt) : (s.modCore c f).ns = s.ns := rfl
@[simp] theorem State.modCore_agenda (c : Nat) (f : CoreSt → CoreSt) : (s.modCore c f).agenda = s.agenda := rfl
@[simp] theorem State.modCore_cur (c : Nat) (f : CoreSt → CoreSt) : (s.modCore c f).cur = s.cur := rfl
@[simp] theorem State.modCore_disagree (c : Nat) (f : CoreSt → CoreSt) : (s.modCore c f).disagree = s.disagree := rfl
@[simp] theorem State.modCore_draw (c : Nat) (f : CoreSt → CoreSt) : (s.modCore c f).draw = s.draw := rfl
@[simp] theorem State.modCore_nextId (c : Nat) (f : CoreSt → CoreSt) : (s.modCore c f).nextId = s.nextId := rfl
@[simp] theorem State.modCore_seqNo (c : Nat) (f : CoreSt → CoreSt) : (s.modCore c f).seqNo = s.seqNo := rfl
@[simp] theorem State.modCore_admitNo (c : Nat) (f : CoreSt → CoreSt) : (s.modCore c f).admitNo = s.admitNo := rfl

@[simp] theorem State.modQuad_teams (c q : Nat) (f : Quad → Quad) : (s.modQuad c q f).teams = s.teams := rfl
@[simp] theorem State.modQuad_mem (c q : Nat) (f : Quad → Quad) : (s.modQuad c q f).mem = s.mem := rfl
@[simp] theorem State.modQuad_hostMem (c q : Nat) (f : Quad → Quad) : (s.modQuad c q f).hostMem = s.hostMem := rfl
@[simp] theorem State.modQuad_poison (c q : Nat) (f : Quad → Quad) : (s.modQuad c q f).poison = s.poison := rfl
@[simp] theorem State.modQuad_tracked (c q : Nat) (f : Quad → Quad) : (s.modQuad c q f).tracked = s.tracked := rfl
@[simp] theorem State.modQuad_dir (c q : Nat) (f : Quad → Quad) : (s.modQuad c q f).dir = s.dir := rfl
@[simp] theorem State.modQuad_msets (c q : Nat) (f : Quad → Quad) : (s.modQuad c q f).msets = s.msets := rfl
@[simp] theorem State.modQuad_msetLen (c q : Nat) (f : Quad → Quad) : (s.modQuad c q f).msetLen = s.msetLen := rfl
@[simp] theorem State.modQuad_mtags (c q : Nat) (f : Quad → Quad) : (s.modQuad c q f).mtags = s.mtags := rfl
@[simp] theorem State.modQuad_pools (c q : Nat) (f : Quad → Quad) : (s.modQuad c q f).pools = s.pools := rfl
@[simp] theorem State.modQuad_flights (c q : Nat) (f : Quad → Quad) : (s.modQuad c q f).flights = s.flights := rfl
@[simp] theorem State.modQuad_ats (c q : Nat) (f : Quad → Quad) : (s.modQuad c q f).ats = s.ats := rfl
@[simp] theorem State.modQuad_ctxs (c q : Nat) (f : Quad → Quad) : (s.modQuad c q f).ctxs = s.ctxs := rfl
@[simp] theorem State.modQuad_queues (c q : Nat) (f : Quad → Quad) : (s.modQuad c q f).queues = s.queues := rfl
@[simp] theorem State.modQuad_launches (c q : Nat) (f : Quad → Quad) : (s.modQuad c q f).launches = s.launches := rfl
@[simp] theorem State.modQuad_nextSerial (c q : Nat) (f : Quad → Quad) : (s.modQuad c q f).nextSerial = s.nextSerial := rfl
@[simp] theorem State.modQuad_lastQueue (c q : Nat) (f : Quad → Quad) : (s.modQuad c q f).lastQueue = s.lastQueue := rfl
@[simp] theorem State.modQuad_halted (c q : Nat) (f : Quad → Quad) : (s.modQuad c q f).halted = s.halted := rfl
@[simp] theorem State.modQuad_wanted (c q : Nat) (f : Quad → Quad) : (s.modQuad c q f).wanted = s.wanted := rfl
@[simp] theorem State.modQuad_conts (c q : Nat) (f : Quad → Quad) : (s.modQuad c q f).conts = s.conts := rfl
@[simp] theorem State.modQuad_codes (c q : Nat) (f : Quad → Quad) : (s.modQuad c q f).codes = s.codes := rfl
@[simp] theorem State.modQuad_dtlb (c q : Nat) (f : Quad → Quad) : (s.modQuad c q f).dtlb = s.dtlb := rfl
@[simp] theorem State.modQuad_windows (c q : Nat) (f : Quad → Quad) : (s.modQuad c q f).windows = s.windows := rfl
@[simp] theorem State.modQuad_barSizes (c q : Nat) (f : Quad → Quad) : (s.modQuad c q f).barSizes = s.barSizes := rfl
@[simp] theorem State.modQuad_readBuf (c q : Nat) (f : Quad → Quad) : (s.modQuad c q f).readBuf = s.readBuf := rfl
@[simp] theorem State.modQuad_atomEn (c q : Nat) (f : Quad → Quad) : (s.modQuad c q f).atomEn = s.atomEn := rfl
@[simp] theorem State.modQuad_vecMask (c q : Nat) (f : Quad → Quad) : (s.modQuad c q f).vecMask = s.vecMask := rfl
@[simp] theorem State.modQuad_vecPend (c q : Nat) (f : Quad → Quad) : (s.modQuad c q f).vecPend = s.vecPend := rfl
@[simp] theorem State.modQuad_notices (c q : Nat) (f : Quad → Quad) : (s.modQuad c q f).notices = s.notices := rfl
@[simp] theorem State.modQuad_hostAdds (c q : Nat) (f : Quad → Quad) : (s.modQuad c q f).hostAdds = s.hostAdds := rfl
@[simp] theorem State.modQuad_readOut (c q : Nat) (f : Quad → Quad) : (s.modQuad c q f).readOut = s.readOut := rfl
@[simp] theorem State.modQuad_readEp (c q : Nat) (f : Quad → Quad) : (s.modQuad c q f).readEp = s.readEp := rfl
@[simp] theorem State.modQuad_errLog (c q : Nat) (f : Quad → Quad) : (s.modQuad c q f).errLog = s.errLog := rfl
@[simp] theorem State.modQuad_errCount (c q : Nat) (f : Quad → Quad) : (s.modQuad c q f).errCount = s.errCount := rfl
@[simp] theorem State.modQuad_logBase (c q : Nat) (f : Quad → Quad) : (s.modQuad c q f).logBase = s.logBase := rfl
@[simp] theorem State.modQuad_repairs (c q : Nat) (f : Quad → Quad) : (s.modQuad c q f).repairs = s.repairs := rfl
@[simp] theorem State.modQuad_fuses (c q : Nat) (f : Quad → Quad) : (s.modQuad c q f).fuses = s.fuses := rfl
@[simp] theorem State.modQuad_spares (c q : Nat) (f : Quad → Quad) : (s.modQuad c q f).spares = s.spares := rfl
@[simp] theorem State.modQuad_spareChans (c q : Nat) (f : Quad → Quad) : (s.modQuad c q f).spareChans = s.spareChans := rfl
@[simp] theorem State.modQuad_badChans (c q : Nat) (f : Quad → Quad) : (s.modQuad c q f).badChans = s.badChans := rfl
@[simp] theorem State.modQuad_lostChans (c q : Nat) (f : Quad → Quad) : (s.modQuad c q f).lostChans = s.lostChans := rfl
@[simp] theorem State.modQuad_corrected (c q : Nat) (f : Quad → Quad) : (s.modQuad c q f).corrected = s.corrected := rfl
@[simp] theorem State.modQuad_corrLimit (c q : Nat) (f : Quad → Quad) : (s.modQuad c q f).corrLimit = s.corrLimit := rfl
@[simp] theorem State.modQuad_laneLimit (c q : Nat) (f : Quad → Quad) : (s.modQuad c q f).laneLimit = s.laneLimit := rfl
@[simp] theorem State.modQuad_planeBad (c q : Nat) (f : Quad → Quad) : (s.modQuad c q f).planeBad = s.planeBad := rfl
@[simp] theorem State.modQuad_sparePlane (c q : Nat) (f : Quad → Quad) : (s.modQuad c q f).sparePlane = s.sparePlane := rfl
@[simp] theorem State.modQuad_firmLate (c q : Nat) (f : Quad → Quad) : (s.modQuad c q f).firmLate = s.firmLate := rfl
@[simp] theorem State.modQuad_sparedWays (c q : Nat) (f : Quad → Quad) : (s.modQuad c q f).sparedWays = s.sparedWays := rfl
@[simp] theorem State.modQuad_testHours (c q : Nat) (f : Quad → Quad) : (s.modQuad c q f).testHours = s.testHours := rfl
@[simp] theorem State.modQuad_scrubHours (c q : Nat) (f : Quad → Quad) : (s.modQuad c q f).scrubHours = s.scrubHours := rfl
@[simp] theorem State.modQuad_mid (c q : Nat) (f : Quad → Quad) : (s.modQuad c q f).mid = s.mid := rfl
@[simp] theorem State.modQuad_eps (c q : Nat) (f : Quad → Quad) : (s.modQuad c q f).eps = s.eps := rfl
@[simp] theorem State.modQuad_routes (c q : Nat) (f : Quad → Quad) : (s.modQuad c q f).routes = s.routes := rfl
@[simp] theorem State.modQuad_ports (c q : Nat) (f : Quad → Quad) : (s.modQuad c q f).ports = s.ports := rfl
@[simp] theorem State.modQuad_islRefused (c q : Nat) (f : Quad → Quad) : (s.modQuad c q f).islRefused = s.islRefused := rfl
@[simp] theorem State.modQuad_islReset (c q : Nat) (f : Quad → Quad) : (s.modQuad c q f).islReset = s.islReset := rfl
@[simp] theorem State.modQuad_outQ (c q : Nat) (f : Quad → Quad) : (s.modQuad c q f).outQ = s.outQ := rfl
@[simp] theorem State.modQuad_transit (c q : Nat) (f : Quad → Quad) : (s.modQuad c q f).transit = s.transit := rfl
@[simp] theorem State.modQuad_mx (c q : Nat) (f : Quad → Quad) : (s.modQuad c q f).mx = s.mx := rfl
@[simp] theorem State.modQuad_throttle (c q : Nat) (f : Quad → Quad) : (s.modQuad c q f).throttle = s.throttle := rfl
@[simp] theorem State.modQuad_hotAt (c q : Nat) (f : Quad → Quad) : (s.modQuad c q f).hotAt = s.hotAt := rfl
@[simp] theorem State.modQuad_stepAt (c q : Nat) (f : Quad → Quad) : (s.modQuad c q f).stepAt = s.stepAt := rfl
@[simp] theorem State.modQuad_cap (c q : Nat) (f : Quad → Quad) : (s.modQuad c q f).cap = s.cap := rfl
@[simp] theorem State.modQuad_clock (c q : Nat) (f : Quad → Quad) : (s.modQuad c q f).clock = s.clock := rfl
@[simp] theorem State.modQuad_ns (c q : Nat) (f : Quad → Quad) : (s.modQuad c q f).ns = s.ns := rfl
@[simp] theorem State.modQuad_agenda (c q : Nat) (f : Quad → Quad) : (s.modQuad c q f).agenda = s.agenda := rfl
@[simp] theorem State.modQuad_cur (c q : Nat) (f : Quad → Quad) : (s.modQuad c q f).cur = s.cur := rfl
@[simp] theorem State.modQuad_disagree (c q : Nat) (f : Quad → Quad) : (s.modQuad c q f).disagree = s.disagree := rfl
@[simp] theorem State.modQuad_draw (c q : Nat) (f : Quad → Quad) : (s.modQuad c q f).draw = s.draw := rfl
@[simp] theorem State.modQuad_nextId (c q : Nat) (f : Quad → Quad) : (s.modQuad c q f).nextId = s.nextId := rfl
@[simp] theorem State.modQuad_seqNo (c q : Nat) (f : Quad → Quad) : (s.modQuad c q f).seqNo = s.seqNo := rfl
@[simp] theorem State.modQuad_admitNo (c q : Nat) (f : Quad → Quad) : (s.modQuad c q f).admitNo = s.admitNo := rfl

@[simp] theorem State.modCtx_teams (c : Nat) (f : CtxSt → CtxSt) : (s.modCtx c f).teams = s.teams := rfl
@[simp] theorem State.modCtx_cores (c : Nat) (f : CtxSt → CtxSt) : (s.modCtx c f).cores = s.cores := rfl
@[simp] theorem State.modCtx_mem (c : Nat) (f : CtxSt → CtxSt) : (s.modCtx c f).mem = s.mem := rfl
@[simp] theorem State.modCtx_hostMem (c : Nat) (f : CtxSt → CtxSt) : (s.modCtx c f).hostMem = s.hostMem := rfl
@[simp] theorem State.modCtx_poison (c : Nat) (f : CtxSt → CtxSt) : (s.modCtx c f).poison = s.poison := rfl
@[simp] theorem State.modCtx_tracked (c : Nat) (f : CtxSt → CtxSt) : (s.modCtx c f).tracked = s.tracked := rfl
@[simp] theorem State.modCtx_dir (c : Nat) (f : CtxSt → CtxSt) : (s.modCtx c f).dir = s.dir := rfl
@[simp] theorem State.modCtx_msets (c : Nat) (f : CtxSt → CtxSt) : (s.modCtx c f).msets = s.msets := rfl
@[simp] theorem State.modCtx_msetLen (c : Nat) (f : CtxSt → CtxSt) : (s.modCtx c f).msetLen = s.msetLen := rfl
@[simp] theorem State.modCtx_mtags (c : Nat) (f : CtxSt → CtxSt) : (s.modCtx c f).mtags = s.mtags := rfl
@[simp] theorem State.modCtx_pools (c : Nat) (f : CtxSt → CtxSt) : (s.modCtx c f).pools = s.pools := rfl
@[simp] theorem State.modCtx_flights (c : Nat) (f : CtxSt → CtxSt) : (s.modCtx c f).flights = s.flights := rfl
@[simp] theorem State.modCtx_ats (c : Nat) (f : CtxSt → CtxSt) : (s.modCtx c f).ats = s.ats := rfl
@[simp] theorem State.modCtx_queues (c : Nat) (f : CtxSt → CtxSt) : (s.modCtx c f).queues = s.queues := rfl
@[simp] theorem State.modCtx_launches (c : Nat) (f : CtxSt → CtxSt) : (s.modCtx c f).launches = s.launches := rfl
@[simp] theorem State.modCtx_nextSerial (c : Nat) (f : CtxSt → CtxSt) : (s.modCtx c f).nextSerial = s.nextSerial := rfl
@[simp] theorem State.modCtx_lastQueue (c : Nat) (f : CtxSt → CtxSt) : (s.modCtx c f).lastQueue = s.lastQueue := rfl
@[simp] theorem State.modCtx_halted (c : Nat) (f : CtxSt → CtxSt) : (s.modCtx c f).halted = s.halted := rfl
@[simp] theorem State.modCtx_wanted (c : Nat) (f : CtxSt → CtxSt) : (s.modCtx c f).wanted = s.wanted := rfl
@[simp] theorem State.modCtx_conts (c : Nat) (f : CtxSt → CtxSt) : (s.modCtx c f).conts = s.conts := rfl
@[simp] theorem State.modCtx_codes (c : Nat) (f : CtxSt → CtxSt) : (s.modCtx c f).codes = s.codes := rfl
@[simp] theorem State.modCtx_dtlb (c : Nat) (f : CtxSt → CtxSt) : (s.modCtx c f).dtlb = s.dtlb := rfl
@[simp] theorem State.modCtx_windows (c : Nat) (f : CtxSt → CtxSt) : (s.modCtx c f).windows = s.windows := rfl
@[simp] theorem State.modCtx_barSizes (c : Nat) (f : CtxSt → CtxSt) : (s.modCtx c f).barSizes = s.barSizes := rfl
@[simp] theorem State.modCtx_readBuf (c : Nat) (f : CtxSt → CtxSt) : (s.modCtx c f).readBuf = s.readBuf := rfl
@[simp] theorem State.modCtx_atomEn (c : Nat) (f : CtxSt → CtxSt) : (s.modCtx c f).atomEn = s.atomEn := rfl
@[simp] theorem State.modCtx_vecMask (c : Nat) (f : CtxSt → CtxSt) : (s.modCtx c f).vecMask = s.vecMask := rfl
@[simp] theorem State.modCtx_vecPend (c : Nat) (f : CtxSt → CtxSt) : (s.modCtx c f).vecPend = s.vecPend := rfl
@[simp] theorem State.modCtx_notices (c : Nat) (f : CtxSt → CtxSt) : (s.modCtx c f).notices = s.notices := rfl
@[simp] theorem State.modCtx_hostAdds (c : Nat) (f : CtxSt → CtxSt) : (s.modCtx c f).hostAdds = s.hostAdds := rfl
@[simp] theorem State.modCtx_readOut (c : Nat) (f : CtxSt → CtxSt) : (s.modCtx c f).readOut = s.readOut := rfl
@[simp] theorem State.modCtx_readEp (c : Nat) (f : CtxSt → CtxSt) : (s.modCtx c f).readEp = s.readEp := rfl
@[simp] theorem State.modCtx_errLog (c : Nat) (f : CtxSt → CtxSt) : (s.modCtx c f).errLog = s.errLog := rfl
@[simp] theorem State.modCtx_errCount (c : Nat) (f : CtxSt → CtxSt) : (s.modCtx c f).errCount = s.errCount := rfl
@[simp] theorem State.modCtx_logBase (c : Nat) (f : CtxSt → CtxSt) : (s.modCtx c f).logBase = s.logBase := rfl
@[simp] theorem State.modCtx_repairs (c : Nat) (f : CtxSt → CtxSt) : (s.modCtx c f).repairs = s.repairs := rfl
@[simp] theorem State.modCtx_fuses (c : Nat) (f : CtxSt → CtxSt) : (s.modCtx c f).fuses = s.fuses := rfl
@[simp] theorem State.modCtx_spares (c : Nat) (f : CtxSt → CtxSt) : (s.modCtx c f).spares = s.spares := rfl
@[simp] theorem State.modCtx_spareChans (c : Nat) (f : CtxSt → CtxSt) : (s.modCtx c f).spareChans = s.spareChans := rfl
@[simp] theorem State.modCtx_badChans (c : Nat) (f : CtxSt → CtxSt) : (s.modCtx c f).badChans = s.badChans := rfl
@[simp] theorem State.modCtx_lostChans (c : Nat) (f : CtxSt → CtxSt) : (s.modCtx c f).lostChans = s.lostChans := rfl
@[simp] theorem State.modCtx_corrected (c : Nat) (f : CtxSt → CtxSt) : (s.modCtx c f).corrected = s.corrected := rfl
@[simp] theorem State.modCtx_corrLimit (c : Nat) (f : CtxSt → CtxSt) : (s.modCtx c f).corrLimit = s.corrLimit := rfl
@[simp] theorem State.modCtx_laneLimit (c : Nat) (f : CtxSt → CtxSt) : (s.modCtx c f).laneLimit = s.laneLimit := rfl
@[simp] theorem State.modCtx_planeBad (c : Nat) (f : CtxSt → CtxSt) : (s.modCtx c f).planeBad = s.planeBad := rfl
@[simp] theorem State.modCtx_sparePlane (c : Nat) (f : CtxSt → CtxSt) : (s.modCtx c f).sparePlane = s.sparePlane := rfl
@[simp] theorem State.modCtx_firmLate (c : Nat) (f : CtxSt → CtxSt) : (s.modCtx c f).firmLate = s.firmLate := rfl
@[simp] theorem State.modCtx_sparedWays (c : Nat) (f : CtxSt → CtxSt) : (s.modCtx c f).sparedWays = s.sparedWays := rfl
@[simp] theorem State.modCtx_testHours (c : Nat) (f : CtxSt → CtxSt) : (s.modCtx c f).testHours = s.testHours := rfl
@[simp] theorem State.modCtx_scrubHours (c : Nat) (f : CtxSt → CtxSt) : (s.modCtx c f).scrubHours = s.scrubHours := rfl
@[simp] theorem State.modCtx_mid (c : Nat) (f : CtxSt → CtxSt) : (s.modCtx c f).mid = s.mid := rfl
@[simp] theorem State.modCtx_eps (c : Nat) (f : CtxSt → CtxSt) : (s.modCtx c f).eps = s.eps := rfl
@[simp] theorem State.modCtx_routes (c : Nat) (f : CtxSt → CtxSt) : (s.modCtx c f).routes = s.routes := rfl
@[simp] theorem State.modCtx_ports (c : Nat) (f : CtxSt → CtxSt) : (s.modCtx c f).ports = s.ports := rfl
@[simp] theorem State.modCtx_islRefused (c : Nat) (f : CtxSt → CtxSt) : (s.modCtx c f).islRefused = s.islRefused := rfl
@[simp] theorem State.modCtx_islReset (c : Nat) (f : CtxSt → CtxSt) : (s.modCtx c f).islReset = s.islReset := rfl
@[simp] theorem State.modCtx_outQ (c : Nat) (f : CtxSt → CtxSt) : (s.modCtx c f).outQ = s.outQ := rfl
@[simp] theorem State.modCtx_transit (c : Nat) (f : CtxSt → CtxSt) : (s.modCtx c f).transit = s.transit := rfl
@[simp] theorem State.modCtx_mx (c : Nat) (f : CtxSt → CtxSt) : (s.modCtx c f).mx = s.mx := rfl
@[simp] theorem State.modCtx_throttle (c : Nat) (f : CtxSt → CtxSt) : (s.modCtx c f).throttle = s.throttle := rfl
@[simp] theorem State.modCtx_hotAt (c : Nat) (f : CtxSt → CtxSt) : (s.modCtx c f).hotAt = s.hotAt := rfl
@[simp] theorem State.modCtx_stepAt (c : Nat) (f : CtxSt → CtxSt) : (s.modCtx c f).stepAt = s.stepAt := rfl
@[simp] theorem State.modCtx_cap (c : Nat) (f : CtxSt → CtxSt) : (s.modCtx c f).cap = s.cap := rfl
@[simp] theorem State.modCtx_clock (c : Nat) (f : CtxSt → CtxSt) : (s.modCtx c f).clock = s.clock := rfl
@[simp] theorem State.modCtx_ns (c : Nat) (f : CtxSt → CtxSt) : (s.modCtx c f).ns = s.ns := rfl
@[simp] theorem State.modCtx_agenda (c : Nat) (f : CtxSt → CtxSt) : (s.modCtx c f).agenda = s.agenda := rfl
@[simp] theorem State.modCtx_cur (c : Nat) (f : CtxSt → CtxSt) : (s.modCtx c f).cur = s.cur := rfl
@[simp] theorem State.modCtx_disagree (c : Nat) (f : CtxSt → CtxSt) : (s.modCtx c f).disagree = s.disagree := rfl
@[simp] theorem State.modCtx_draw (c : Nat) (f : CtxSt → CtxSt) : (s.modCtx c f).draw = s.draw := rfl
@[simp] theorem State.modCtx_nextId (c : Nat) (f : CtxSt → CtxSt) : (s.modCtx c f).nextId = s.nextId := rfl
@[simp] theorem State.modCtx_seqNo (c : Nat) (f : CtxSt → CtxSt) : (s.modCtx c f).seqNo = s.seqNo := rfl
@[simp] theorem State.modCtx_admitNo (c : Nat) (f : CtxSt → CtxSt) : (s.modCtx c f).admitNo = s.admitNo := rfl

@[simp] theorem State.modLaunch_teams (n : Nat) (f : Launch → Launch) : (s.modLaunch n f).teams = s.teams := rfl
@[simp] theorem State.modLaunch_cores (n : Nat) (f : Launch → Launch) : (s.modLaunch n f).cores = s.cores := rfl
@[simp] theorem State.modLaunch_mem (n : Nat) (f : Launch → Launch) : (s.modLaunch n f).mem = s.mem := rfl
@[simp] theorem State.modLaunch_hostMem (n : Nat) (f : Launch → Launch) : (s.modLaunch n f).hostMem = s.hostMem := rfl
@[simp] theorem State.modLaunch_poison (n : Nat) (f : Launch → Launch) : (s.modLaunch n f).poison = s.poison := rfl
@[simp] theorem State.modLaunch_tracked (n : Nat) (f : Launch → Launch) : (s.modLaunch n f).tracked = s.tracked := rfl
@[simp] theorem State.modLaunch_dir (n : Nat) (f : Launch → Launch) : (s.modLaunch n f).dir = s.dir := rfl
@[simp] theorem State.modLaunch_msets (n : Nat) (f : Launch → Launch) : (s.modLaunch n f).msets = s.msets := rfl
@[simp] theorem State.modLaunch_msetLen (n : Nat) (f : Launch → Launch) : (s.modLaunch n f).msetLen = s.msetLen := rfl
@[simp] theorem State.modLaunch_mtags (n : Nat) (f : Launch → Launch) : (s.modLaunch n f).mtags = s.mtags := rfl
@[simp] theorem State.modLaunch_pools (n : Nat) (f : Launch → Launch) : (s.modLaunch n f).pools = s.pools := rfl
@[simp] theorem State.modLaunch_flights (n : Nat) (f : Launch → Launch) : (s.modLaunch n f).flights = s.flights := rfl
@[simp] theorem State.modLaunch_ats (n : Nat) (f : Launch → Launch) : (s.modLaunch n f).ats = s.ats := rfl
@[simp] theorem State.modLaunch_ctxs (n : Nat) (f : Launch → Launch) : (s.modLaunch n f).ctxs = s.ctxs := rfl
@[simp] theorem State.modLaunch_queues (n : Nat) (f : Launch → Launch) : (s.modLaunch n f).queues = s.queues := rfl
@[simp] theorem State.modLaunch_nextSerial (n : Nat) (f : Launch → Launch) : (s.modLaunch n f).nextSerial = s.nextSerial := rfl
@[simp] theorem State.modLaunch_lastQueue (n : Nat) (f : Launch → Launch) : (s.modLaunch n f).lastQueue = s.lastQueue := rfl
@[simp] theorem State.modLaunch_halted (n : Nat) (f : Launch → Launch) : (s.modLaunch n f).halted = s.halted := rfl
@[simp] theorem State.modLaunch_wanted (n : Nat) (f : Launch → Launch) : (s.modLaunch n f).wanted = s.wanted := rfl
@[simp] theorem State.modLaunch_conts (n : Nat) (f : Launch → Launch) : (s.modLaunch n f).conts = s.conts := rfl
@[simp] theorem State.modLaunch_codes (n : Nat) (f : Launch → Launch) : (s.modLaunch n f).codes = s.codes := rfl
@[simp] theorem State.modLaunch_dtlb (n : Nat) (f : Launch → Launch) : (s.modLaunch n f).dtlb = s.dtlb := rfl
@[simp] theorem State.modLaunch_windows (n : Nat) (f : Launch → Launch) : (s.modLaunch n f).windows = s.windows := rfl
@[simp] theorem State.modLaunch_barSizes (n : Nat) (f : Launch → Launch) : (s.modLaunch n f).barSizes = s.barSizes := rfl
@[simp] theorem State.modLaunch_readBuf (n : Nat) (f : Launch → Launch) : (s.modLaunch n f).readBuf = s.readBuf := rfl
@[simp] theorem State.modLaunch_atomEn (n : Nat) (f : Launch → Launch) : (s.modLaunch n f).atomEn = s.atomEn := rfl
@[simp] theorem State.modLaunch_vecMask (n : Nat) (f : Launch → Launch) : (s.modLaunch n f).vecMask = s.vecMask := rfl
@[simp] theorem State.modLaunch_vecPend (n : Nat) (f : Launch → Launch) : (s.modLaunch n f).vecPend = s.vecPend := rfl
@[simp] theorem State.modLaunch_notices (n : Nat) (f : Launch → Launch) : (s.modLaunch n f).notices = s.notices := rfl
@[simp] theorem State.modLaunch_hostAdds (n : Nat) (f : Launch → Launch) : (s.modLaunch n f).hostAdds = s.hostAdds := rfl
@[simp] theorem State.modLaunch_readOut (n : Nat) (f : Launch → Launch) : (s.modLaunch n f).readOut = s.readOut := rfl
@[simp] theorem State.modLaunch_readEp (n : Nat) (f : Launch → Launch) : (s.modLaunch n f).readEp = s.readEp := rfl
@[simp] theorem State.modLaunch_errLog (n : Nat) (f : Launch → Launch) : (s.modLaunch n f).errLog = s.errLog := rfl
@[simp] theorem State.modLaunch_errCount (n : Nat) (f : Launch → Launch) : (s.modLaunch n f).errCount = s.errCount := rfl
@[simp] theorem State.modLaunch_logBase (n : Nat) (f : Launch → Launch) : (s.modLaunch n f).logBase = s.logBase := rfl
@[simp] theorem State.modLaunch_repairs (n : Nat) (f : Launch → Launch) : (s.modLaunch n f).repairs = s.repairs := rfl
@[simp] theorem State.modLaunch_fuses (n : Nat) (f : Launch → Launch) : (s.modLaunch n f).fuses = s.fuses := rfl
@[simp] theorem State.modLaunch_spares (n : Nat) (f : Launch → Launch) : (s.modLaunch n f).spares = s.spares := rfl
@[simp] theorem State.modLaunch_spareChans (n : Nat) (f : Launch → Launch) : (s.modLaunch n f).spareChans = s.spareChans := rfl
@[simp] theorem State.modLaunch_badChans (n : Nat) (f : Launch → Launch) : (s.modLaunch n f).badChans = s.badChans := rfl
@[simp] theorem State.modLaunch_lostChans (n : Nat) (f : Launch → Launch) : (s.modLaunch n f).lostChans = s.lostChans := rfl
@[simp] theorem State.modLaunch_corrected (n : Nat) (f : Launch → Launch) : (s.modLaunch n f).corrected = s.corrected := rfl
@[simp] theorem State.modLaunch_corrLimit (n : Nat) (f : Launch → Launch) : (s.modLaunch n f).corrLimit = s.corrLimit := rfl
@[simp] theorem State.modLaunch_laneLimit (n : Nat) (f : Launch → Launch) : (s.modLaunch n f).laneLimit = s.laneLimit := rfl
@[simp] theorem State.modLaunch_planeBad (n : Nat) (f : Launch → Launch) : (s.modLaunch n f).planeBad = s.planeBad := rfl
@[simp] theorem State.modLaunch_sparePlane (n : Nat) (f : Launch → Launch) : (s.modLaunch n f).sparePlane = s.sparePlane := rfl
@[simp] theorem State.modLaunch_firmLate (n : Nat) (f : Launch → Launch) : (s.modLaunch n f).firmLate = s.firmLate := rfl
@[simp] theorem State.modLaunch_sparedWays (n : Nat) (f : Launch → Launch) : (s.modLaunch n f).sparedWays = s.sparedWays := rfl
@[simp] theorem State.modLaunch_testHours (n : Nat) (f : Launch → Launch) : (s.modLaunch n f).testHours = s.testHours := rfl
@[simp] theorem State.modLaunch_scrubHours (n : Nat) (f : Launch → Launch) : (s.modLaunch n f).scrubHours = s.scrubHours := rfl
@[simp] theorem State.modLaunch_mid (n : Nat) (f : Launch → Launch) : (s.modLaunch n f).mid = s.mid := rfl
@[simp] theorem State.modLaunch_eps (n : Nat) (f : Launch → Launch) : (s.modLaunch n f).eps = s.eps := rfl
@[simp] theorem State.modLaunch_routes (n : Nat) (f : Launch → Launch) : (s.modLaunch n f).routes = s.routes := rfl
@[simp] theorem State.modLaunch_ports (n : Nat) (f : Launch → Launch) : (s.modLaunch n f).ports = s.ports := rfl
@[simp] theorem State.modLaunch_islRefused (n : Nat) (f : Launch → Launch) : (s.modLaunch n f).islRefused = s.islRefused := rfl
@[simp] theorem State.modLaunch_islReset (n : Nat) (f : Launch → Launch) : (s.modLaunch n f).islReset = s.islReset := rfl
@[simp] theorem State.modLaunch_outQ (n : Nat) (f : Launch → Launch) : (s.modLaunch n f).outQ = s.outQ := rfl
@[simp] theorem State.modLaunch_transit (n : Nat) (f : Launch → Launch) : (s.modLaunch n f).transit = s.transit := rfl
@[simp] theorem State.modLaunch_mx (n : Nat) (f : Launch → Launch) : (s.modLaunch n f).mx = s.mx := rfl
@[simp] theorem State.modLaunch_throttle (n : Nat) (f : Launch → Launch) : (s.modLaunch n f).throttle = s.throttle := rfl
@[simp] theorem State.modLaunch_hotAt (n : Nat) (f : Launch → Launch) : (s.modLaunch n f).hotAt = s.hotAt := rfl
@[simp] theorem State.modLaunch_stepAt (n : Nat) (f : Launch → Launch) : (s.modLaunch n f).stepAt = s.stepAt := rfl
@[simp] theorem State.modLaunch_cap (n : Nat) (f : Launch → Launch) : (s.modLaunch n f).cap = s.cap := rfl
@[simp] theorem State.modLaunch_clock (n : Nat) (f : Launch → Launch) : (s.modLaunch n f).clock = s.clock := rfl
@[simp] theorem State.modLaunch_ns (n : Nat) (f : Launch → Launch) : (s.modLaunch n f).ns = s.ns := rfl
@[simp] theorem State.modLaunch_agenda (n : Nat) (f : Launch → Launch) : (s.modLaunch n f).agenda = s.agenda := rfl
@[simp] theorem State.modLaunch_cur (n : Nat) (f : Launch → Launch) : (s.modLaunch n f).cur = s.cur := rfl
@[simp] theorem State.modLaunch_disagree (n : Nat) (f : Launch → Launch) : (s.modLaunch n f).disagree = s.disagree := rfl
@[simp] theorem State.modLaunch_draw (n : Nat) (f : Launch → Launch) : (s.modLaunch n f).draw = s.draw := rfl
@[simp] theorem State.modLaunch_nextId (n : Nat) (f : Launch → Launch) : (s.modLaunch n f).nextId = s.nextId := rfl
@[simp] theorem State.modLaunch_seqNo (n : Nat) (f : Launch → Launch) : (s.modLaunch n f).seqNo = s.seqNo := rfl
@[simp] theorem State.modLaunch_admitNo (n : Nat) (f : Launch → Launch) : (s.modLaunch n f).admitNo = s.admitNo := rfl

@[simp] theorem State.modFlight_teams (id : Nat) (f : Flight → Flight) : (s.modFlight id f).teams = s.teams := rfl
@[simp] theorem State.modFlight_cores (id : Nat) (f : Flight → Flight) : (s.modFlight id f).cores = s.cores := rfl
@[simp] theorem State.modFlight_mem (id : Nat) (f : Flight → Flight) : (s.modFlight id f).mem = s.mem := rfl
@[simp] theorem State.modFlight_hostMem (id : Nat) (f : Flight → Flight) : (s.modFlight id f).hostMem = s.hostMem := rfl
@[simp] theorem State.modFlight_poison (id : Nat) (f : Flight → Flight) : (s.modFlight id f).poison = s.poison := rfl
@[simp] theorem State.modFlight_tracked (id : Nat) (f : Flight → Flight) : (s.modFlight id f).tracked = s.tracked := rfl
@[simp] theorem State.modFlight_dir (id : Nat) (f : Flight → Flight) : (s.modFlight id f).dir = s.dir := rfl
@[simp] theorem State.modFlight_msets (id : Nat) (f : Flight → Flight) : (s.modFlight id f).msets = s.msets := rfl
@[simp] theorem State.modFlight_msetLen (id : Nat) (f : Flight → Flight) : (s.modFlight id f).msetLen = s.msetLen := rfl
@[simp] theorem State.modFlight_mtags (id : Nat) (f : Flight → Flight) : (s.modFlight id f).mtags = s.mtags := rfl
@[simp] theorem State.modFlight_pools (id : Nat) (f : Flight → Flight) : (s.modFlight id f).pools = s.pools := rfl
@[simp] theorem State.modFlight_ats (id : Nat) (f : Flight → Flight) : (s.modFlight id f).ats = s.ats := rfl
@[simp] theorem State.modFlight_ctxs (id : Nat) (f : Flight → Flight) : (s.modFlight id f).ctxs = s.ctxs := rfl
@[simp] theorem State.modFlight_queues (id : Nat) (f : Flight → Flight) : (s.modFlight id f).queues = s.queues := rfl
@[simp] theorem State.modFlight_launches (id : Nat) (f : Flight → Flight) : (s.modFlight id f).launches = s.launches := rfl
@[simp] theorem State.modFlight_nextSerial (id : Nat) (f : Flight → Flight) : (s.modFlight id f).nextSerial = s.nextSerial := rfl
@[simp] theorem State.modFlight_lastQueue (id : Nat) (f : Flight → Flight) : (s.modFlight id f).lastQueue = s.lastQueue := rfl
@[simp] theorem State.modFlight_halted (id : Nat) (f : Flight → Flight) : (s.modFlight id f).halted = s.halted := rfl
@[simp] theorem State.modFlight_wanted (id : Nat) (f : Flight → Flight) : (s.modFlight id f).wanted = s.wanted := rfl
@[simp] theorem State.modFlight_conts (id : Nat) (f : Flight → Flight) : (s.modFlight id f).conts = s.conts := rfl
@[simp] theorem State.modFlight_codes (id : Nat) (f : Flight → Flight) : (s.modFlight id f).codes = s.codes := rfl
@[simp] theorem State.modFlight_dtlb (id : Nat) (f : Flight → Flight) : (s.modFlight id f).dtlb = s.dtlb := rfl
@[simp] theorem State.modFlight_windows (id : Nat) (f : Flight → Flight) : (s.modFlight id f).windows = s.windows := rfl
@[simp] theorem State.modFlight_barSizes (id : Nat) (f : Flight → Flight) : (s.modFlight id f).barSizes = s.barSizes := rfl
@[simp] theorem State.modFlight_readBuf (id : Nat) (f : Flight → Flight) : (s.modFlight id f).readBuf = s.readBuf := rfl
@[simp] theorem State.modFlight_atomEn (id : Nat) (f : Flight → Flight) : (s.modFlight id f).atomEn = s.atomEn := rfl
@[simp] theorem State.modFlight_vecMask (id : Nat) (f : Flight → Flight) : (s.modFlight id f).vecMask = s.vecMask := rfl
@[simp] theorem State.modFlight_vecPend (id : Nat) (f : Flight → Flight) : (s.modFlight id f).vecPend = s.vecPend := rfl
@[simp] theorem State.modFlight_notices (id : Nat) (f : Flight → Flight) : (s.modFlight id f).notices = s.notices := rfl
@[simp] theorem State.modFlight_hostAdds (id : Nat) (f : Flight → Flight) : (s.modFlight id f).hostAdds = s.hostAdds := rfl
@[simp] theorem State.modFlight_readOut (id : Nat) (f : Flight → Flight) : (s.modFlight id f).readOut = s.readOut := rfl
@[simp] theorem State.modFlight_readEp (id : Nat) (f : Flight → Flight) : (s.modFlight id f).readEp = s.readEp := rfl
@[simp] theorem State.modFlight_errLog (id : Nat) (f : Flight → Flight) : (s.modFlight id f).errLog = s.errLog := rfl
@[simp] theorem State.modFlight_errCount (id : Nat) (f : Flight → Flight) : (s.modFlight id f).errCount = s.errCount := rfl
@[simp] theorem State.modFlight_logBase (id : Nat) (f : Flight → Flight) : (s.modFlight id f).logBase = s.logBase := rfl
@[simp] theorem State.modFlight_repairs (id : Nat) (f : Flight → Flight) : (s.modFlight id f).repairs = s.repairs := rfl
@[simp] theorem State.modFlight_fuses (id : Nat) (f : Flight → Flight) : (s.modFlight id f).fuses = s.fuses := rfl
@[simp] theorem State.modFlight_spares (id : Nat) (f : Flight → Flight) : (s.modFlight id f).spares = s.spares := rfl
@[simp] theorem State.modFlight_spareChans (id : Nat) (f : Flight → Flight) : (s.modFlight id f).spareChans = s.spareChans := rfl
@[simp] theorem State.modFlight_badChans (id : Nat) (f : Flight → Flight) : (s.modFlight id f).badChans = s.badChans := rfl
@[simp] theorem State.modFlight_lostChans (id : Nat) (f : Flight → Flight) : (s.modFlight id f).lostChans = s.lostChans := rfl
@[simp] theorem State.modFlight_corrected (id : Nat) (f : Flight → Flight) : (s.modFlight id f).corrected = s.corrected := rfl
@[simp] theorem State.modFlight_corrLimit (id : Nat) (f : Flight → Flight) : (s.modFlight id f).corrLimit = s.corrLimit := rfl
@[simp] theorem State.modFlight_laneLimit (id : Nat) (f : Flight → Flight) : (s.modFlight id f).laneLimit = s.laneLimit := rfl
@[simp] theorem State.modFlight_planeBad (id : Nat) (f : Flight → Flight) : (s.modFlight id f).planeBad = s.planeBad := rfl
@[simp] theorem State.modFlight_sparePlane (id : Nat) (f : Flight → Flight) : (s.modFlight id f).sparePlane = s.sparePlane := rfl
@[simp] theorem State.modFlight_firmLate (id : Nat) (f : Flight → Flight) : (s.modFlight id f).firmLate = s.firmLate := rfl
@[simp] theorem State.modFlight_sparedWays (id : Nat) (f : Flight → Flight) : (s.modFlight id f).sparedWays = s.sparedWays := rfl
@[simp] theorem State.modFlight_testHours (id : Nat) (f : Flight → Flight) : (s.modFlight id f).testHours = s.testHours := rfl
@[simp] theorem State.modFlight_scrubHours (id : Nat) (f : Flight → Flight) : (s.modFlight id f).scrubHours = s.scrubHours := rfl
@[simp] theorem State.modFlight_mid (id : Nat) (f : Flight → Flight) : (s.modFlight id f).mid = s.mid := rfl
@[simp] theorem State.modFlight_eps (id : Nat) (f : Flight → Flight) : (s.modFlight id f).eps = s.eps := rfl
@[simp] theorem State.modFlight_routes (id : Nat) (f : Flight → Flight) : (s.modFlight id f).routes = s.routes := rfl
@[simp] theorem State.modFlight_ports (id : Nat) (f : Flight → Flight) : (s.modFlight id f).ports = s.ports := rfl
@[simp] theorem State.modFlight_islRefused (id : Nat) (f : Flight → Flight) : (s.modFlight id f).islRefused = s.islRefused := rfl
@[simp] theorem State.modFlight_islReset (id : Nat) (f : Flight → Flight) : (s.modFlight id f).islReset = s.islReset := rfl
@[simp] theorem State.modFlight_outQ (id : Nat) (f : Flight → Flight) : (s.modFlight id f).outQ = s.outQ := rfl
@[simp] theorem State.modFlight_transit (id : Nat) (f : Flight → Flight) : (s.modFlight id f).transit = s.transit := rfl
@[simp] theorem State.modFlight_mx (id : Nat) (f : Flight → Flight) : (s.modFlight id f).mx = s.mx := rfl
@[simp] theorem State.modFlight_throttle (id : Nat) (f : Flight → Flight) : (s.modFlight id f).throttle = s.throttle := rfl
@[simp] theorem State.modFlight_hotAt (id : Nat) (f : Flight → Flight) : (s.modFlight id f).hotAt = s.hotAt := rfl
@[simp] theorem State.modFlight_stepAt (id : Nat) (f : Flight → Flight) : (s.modFlight id f).stepAt = s.stepAt := rfl
@[simp] theorem State.modFlight_cap (id : Nat) (f : Flight → Flight) : (s.modFlight id f).cap = s.cap := rfl
@[simp] theorem State.modFlight_clock (id : Nat) (f : Flight → Flight) : (s.modFlight id f).clock = s.clock := rfl
@[simp] theorem State.modFlight_ns (id : Nat) (f : Flight → Flight) : (s.modFlight id f).ns = s.ns := rfl
@[simp] theorem State.modFlight_agenda (id : Nat) (f : Flight → Flight) : (s.modFlight id f).agenda = s.agenda := rfl
@[simp] theorem State.modFlight_cur (id : Nat) (f : Flight → Flight) : (s.modFlight id f).cur = s.cur := rfl
@[simp] theorem State.modFlight_disagree (id : Nat) (f : Flight → Flight) : (s.modFlight id f).disagree = s.disagree := rfl
@[simp] theorem State.modFlight_draw (id : Nat) (f : Flight → Flight) : (s.modFlight id f).draw = s.draw := rfl
@[simp] theorem State.modFlight_nextId (id : Nat) (f : Flight → Flight) : (s.modFlight id f).nextId = s.nextId := rfl
@[simp] theorem State.modFlight_seqNo (id : Nat) (f : Flight → Flight) : (s.modFlight id f).seqNo = s.seqNo := rfl
@[simp] theorem State.modFlight_admitNo (id : Nat) (f : Flight → Flight) : (s.modFlight id f).admitNo = s.admitNo := rfl

@[simp] theorem State.modQueue_teams (q : Nat) (f : QueueSt → QueueSt) : (s.modQueue q f).teams = s.teams := rfl
@[simp] theorem State.modQueue_cores (q : Nat) (f : QueueSt → QueueSt) : (s.modQueue q f).cores = s.cores := rfl
@[simp] theorem State.modQueue_mem (q : Nat) (f : QueueSt → QueueSt) : (s.modQueue q f).mem = s.mem := rfl
@[simp] theorem State.modQueue_hostMem (q : Nat) (f : QueueSt → QueueSt) : (s.modQueue q f).hostMem = s.hostMem := rfl
@[simp] theorem State.modQueue_poison (q : Nat) (f : QueueSt → QueueSt) : (s.modQueue q f).poison = s.poison := rfl
@[simp] theorem State.modQueue_tracked (q : Nat) (f : QueueSt → QueueSt) : (s.modQueue q f).tracked = s.tracked := rfl
@[simp] theorem State.modQueue_dir (q : Nat) (f : QueueSt → QueueSt) : (s.modQueue q f).dir = s.dir := rfl
@[simp] theorem State.modQueue_msets (q : Nat) (f : QueueSt → QueueSt) : (s.modQueue q f).msets = s.msets := rfl
@[simp] theorem State.modQueue_msetLen (q : Nat) (f : QueueSt → QueueSt) : (s.modQueue q f).msetLen = s.msetLen := rfl
@[simp] theorem State.modQueue_mtags (q : Nat) (f : QueueSt → QueueSt) : (s.modQueue q f).mtags = s.mtags := rfl
@[simp] theorem State.modQueue_pools (q : Nat) (f : QueueSt → QueueSt) : (s.modQueue q f).pools = s.pools := rfl
@[simp] theorem State.modQueue_flights (q : Nat) (f : QueueSt → QueueSt) : (s.modQueue q f).flights = s.flights := rfl
@[simp] theorem State.modQueue_ats (q : Nat) (f : QueueSt → QueueSt) : (s.modQueue q f).ats = s.ats := rfl
@[simp] theorem State.modQueue_ctxs (q : Nat) (f : QueueSt → QueueSt) : (s.modQueue q f).ctxs = s.ctxs := rfl
@[simp] theorem State.modQueue_launches (q : Nat) (f : QueueSt → QueueSt) : (s.modQueue q f).launches = s.launches := rfl
@[simp] theorem State.modQueue_nextSerial (q : Nat) (f : QueueSt → QueueSt) : (s.modQueue q f).nextSerial = s.nextSerial := rfl
@[simp] theorem State.modQueue_lastQueue (q : Nat) (f : QueueSt → QueueSt) : (s.modQueue q f).lastQueue = s.lastQueue := rfl
@[simp] theorem State.modQueue_halted (q : Nat) (f : QueueSt → QueueSt) : (s.modQueue q f).halted = s.halted := rfl
@[simp] theorem State.modQueue_wanted (q : Nat) (f : QueueSt → QueueSt) : (s.modQueue q f).wanted = s.wanted := rfl
@[simp] theorem State.modQueue_conts (q : Nat) (f : QueueSt → QueueSt) : (s.modQueue q f).conts = s.conts := rfl
@[simp] theorem State.modQueue_codes (q : Nat) (f : QueueSt → QueueSt) : (s.modQueue q f).codes = s.codes := rfl
@[simp] theorem State.modQueue_dtlb (q : Nat) (f : QueueSt → QueueSt) : (s.modQueue q f).dtlb = s.dtlb := rfl
@[simp] theorem State.modQueue_windows (q : Nat) (f : QueueSt → QueueSt) : (s.modQueue q f).windows = s.windows := rfl
@[simp] theorem State.modQueue_barSizes (q : Nat) (f : QueueSt → QueueSt) : (s.modQueue q f).barSizes = s.barSizes := rfl
@[simp] theorem State.modQueue_readBuf (q : Nat) (f : QueueSt → QueueSt) : (s.modQueue q f).readBuf = s.readBuf := rfl
@[simp] theorem State.modQueue_atomEn (q : Nat) (f : QueueSt → QueueSt) : (s.modQueue q f).atomEn = s.atomEn := rfl
@[simp] theorem State.modQueue_vecMask (q : Nat) (f : QueueSt → QueueSt) : (s.modQueue q f).vecMask = s.vecMask := rfl
@[simp] theorem State.modQueue_vecPend (q : Nat) (f : QueueSt → QueueSt) : (s.modQueue q f).vecPend = s.vecPend := rfl
@[simp] theorem State.modQueue_notices (q : Nat) (f : QueueSt → QueueSt) : (s.modQueue q f).notices = s.notices := rfl
@[simp] theorem State.modQueue_hostAdds (q : Nat) (f : QueueSt → QueueSt) : (s.modQueue q f).hostAdds = s.hostAdds := rfl
@[simp] theorem State.modQueue_readOut (q : Nat) (f : QueueSt → QueueSt) : (s.modQueue q f).readOut = s.readOut := rfl
@[simp] theorem State.modQueue_readEp (q : Nat) (f : QueueSt → QueueSt) : (s.modQueue q f).readEp = s.readEp := rfl
@[simp] theorem State.modQueue_errLog (q : Nat) (f : QueueSt → QueueSt) : (s.modQueue q f).errLog = s.errLog := rfl
@[simp] theorem State.modQueue_errCount (q : Nat) (f : QueueSt → QueueSt) : (s.modQueue q f).errCount = s.errCount := rfl
@[simp] theorem State.modQueue_logBase (q : Nat) (f : QueueSt → QueueSt) : (s.modQueue q f).logBase = s.logBase := rfl
@[simp] theorem State.modQueue_repairs (q : Nat) (f : QueueSt → QueueSt) : (s.modQueue q f).repairs = s.repairs := rfl
@[simp] theorem State.modQueue_fuses (q : Nat) (f : QueueSt → QueueSt) : (s.modQueue q f).fuses = s.fuses := rfl
@[simp] theorem State.modQueue_spares (q : Nat) (f : QueueSt → QueueSt) : (s.modQueue q f).spares = s.spares := rfl
@[simp] theorem State.modQueue_spareChans (q : Nat) (f : QueueSt → QueueSt) : (s.modQueue q f).spareChans = s.spareChans := rfl
@[simp] theorem State.modQueue_badChans (q : Nat) (f : QueueSt → QueueSt) : (s.modQueue q f).badChans = s.badChans := rfl
@[simp] theorem State.modQueue_lostChans (q : Nat) (f : QueueSt → QueueSt) : (s.modQueue q f).lostChans = s.lostChans := rfl
@[simp] theorem State.modQueue_corrected (q : Nat) (f : QueueSt → QueueSt) : (s.modQueue q f).corrected = s.corrected := rfl
@[simp] theorem State.modQueue_corrLimit (q : Nat) (f : QueueSt → QueueSt) : (s.modQueue q f).corrLimit = s.corrLimit := rfl
@[simp] theorem State.modQueue_laneLimit (q : Nat) (f : QueueSt → QueueSt) : (s.modQueue q f).laneLimit = s.laneLimit := rfl
@[simp] theorem State.modQueue_planeBad (q : Nat) (f : QueueSt → QueueSt) : (s.modQueue q f).planeBad = s.planeBad := rfl
@[simp] theorem State.modQueue_sparePlane (q : Nat) (f : QueueSt → QueueSt) : (s.modQueue q f).sparePlane = s.sparePlane := rfl
@[simp] theorem State.modQueue_firmLate (q : Nat) (f : QueueSt → QueueSt) : (s.modQueue q f).firmLate = s.firmLate := rfl
@[simp] theorem State.modQueue_sparedWays (q : Nat) (f : QueueSt → QueueSt) : (s.modQueue q f).sparedWays = s.sparedWays := rfl
@[simp] theorem State.modQueue_testHours (q : Nat) (f : QueueSt → QueueSt) : (s.modQueue q f).testHours = s.testHours := rfl
@[simp] theorem State.modQueue_scrubHours (q : Nat) (f : QueueSt → QueueSt) : (s.modQueue q f).scrubHours = s.scrubHours := rfl
@[simp] theorem State.modQueue_mid (q : Nat) (f : QueueSt → QueueSt) : (s.modQueue q f).mid = s.mid := rfl
@[simp] theorem State.modQueue_eps (q : Nat) (f : QueueSt → QueueSt) : (s.modQueue q f).eps = s.eps := rfl
@[simp] theorem State.modQueue_routes (q : Nat) (f : QueueSt → QueueSt) : (s.modQueue q f).routes = s.routes := rfl
@[simp] theorem State.modQueue_ports (q : Nat) (f : QueueSt → QueueSt) : (s.modQueue q f).ports = s.ports := rfl
@[simp] theorem State.modQueue_islRefused (q : Nat) (f : QueueSt → QueueSt) : (s.modQueue q f).islRefused = s.islRefused := rfl
@[simp] theorem State.modQueue_islReset (q : Nat) (f : QueueSt → QueueSt) : (s.modQueue q f).islReset = s.islReset := rfl
@[simp] theorem State.modQueue_outQ (q : Nat) (f : QueueSt → QueueSt) : (s.modQueue q f).outQ = s.outQ := rfl
@[simp] theorem State.modQueue_transit (q : Nat) (f : QueueSt → QueueSt) : (s.modQueue q f).transit = s.transit := rfl
@[simp] theorem State.modQueue_mx (q : Nat) (f : QueueSt → QueueSt) : (s.modQueue q f).mx = s.mx := rfl
@[simp] theorem State.modQueue_throttle (q : Nat) (f : QueueSt → QueueSt) : (s.modQueue q f).throttle = s.throttle := rfl
@[simp] theorem State.modQueue_hotAt (q : Nat) (f : QueueSt → QueueSt) : (s.modQueue q f).hotAt = s.hotAt := rfl
@[simp] theorem State.modQueue_stepAt (q : Nat) (f : QueueSt → QueueSt) : (s.modQueue q f).stepAt = s.stepAt := rfl
@[simp] theorem State.modQueue_cap (q : Nat) (f : QueueSt → QueueSt) : (s.modQueue q f).cap = s.cap := rfl
@[simp] theorem State.modQueue_clock (q : Nat) (f : QueueSt → QueueSt) : (s.modQueue q f).clock = s.clock := rfl
@[simp] theorem State.modQueue_ns (q : Nat) (f : QueueSt → QueueSt) : (s.modQueue q f).ns = s.ns := rfl
@[simp] theorem State.modQueue_agenda (q : Nat) (f : QueueSt → QueueSt) : (s.modQueue q f).agenda = s.agenda := rfl
@[simp] theorem State.modQueue_cur (q : Nat) (f : QueueSt → QueueSt) : (s.modQueue q f).cur = s.cur := rfl
@[simp] theorem State.modQueue_disagree (q : Nat) (f : QueueSt → QueueSt) : (s.modQueue q f).disagree = s.disagree := rfl
@[simp] theorem State.modQueue_draw (q : Nat) (f : QueueSt → QueueSt) : (s.modQueue q f).draw = s.draw := rfl
@[simp] theorem State.modQueue_nextId (q : Nat) (f : QueueSt → QueueSt) : (s.modQueue q f).nextId = s.nextId := rfl
@[simp] theorem State.modQueue_seqNo (q : Nat) (f : QueueSt → QueueSt) : (s.modQueue q f).seqNo = s.seqNo := rfl
@[simp] theorem State.modQueue_admitNo (q : Nat) (f : QueueSt → QueueSt) : (s.modQueue q f).admitNo = s.admitNo := rfl

@[simp] theorem State.modEp_teams (d : Nat) (f : Eps → Eps) : (s.modEp d f).teams = s.teams := rfl
@[simp] theorem State.modEp_cores (d : Nat) (f : Eps → Eps) : (s.modEp d f).cores = s.cores := rfl
@[simp] theorem State.modEp_mem (d : Nat) (f : Eps → Eps) : (s.modEp d f).mem = s.mem := rfl
@[simp] theorem State.modEp_hostMem (d : Nat) (f : Eps → Eps) : (s.modEp d f).hostMem = s.hostMem := rfl
@[simp] theorem State.modEp_poison (d : Nat) (f : Eps → Eps) : (s.modEp d f).poison = s.poison := rfl
@[simp] theorem State.modEp_tracked (d : Nat) (f : Eps → Eps) : (s.modEp d f).tracked = s.tracked := rfl
@[simp] theorem State.modEp_dir (d : Nat) (f : Eps → Eps) : (s.modEp d f).dir = s.dir := rfl
@[simp] theorem State.modEp_msets (d : Nat) (f : Eps → Eps) : (s.modEp d f).msets = s.msets := rfl
@[simp] theorem State.modEp_msetLen (d : Nat) (f : Eps → Eps) : (s.modEp d f).msetLen = s.msetLen := rfl
@[simp] theorem State.modEp_mtags (d : Nat) (f : Eps → Eps) : (s.modEp d f).mtags = s.mtags := rfl
@[simp] theorem State.modEp_pools (d : Nat) (f : Eps → Eps) : (s.modEp d f).pools = s.pools := rfl
@[simp] theorem State.modEp_flights (d : Nat) (f : Eps → Eps) : (s.modEp d f).flights = s.flights := rfl
@[simp] theorem State.modEp_ats (d : Nat) (f : Eps → Eps) : (s.modEp d f).ats = s.ats := rfl
@[simp] theorem State.modEp_ctxs (d : Nat) (f : Eps → Eps) : (s.modEp d f).ctxs = s.ctxs := rfl
@[simp] theorem State.modEp_queues (d : Nat) (f : Eps → Eps) : (s.modEp d f).queues = s.queues := rfl
@[simp] theorem State.modEp_launches (d : Nat) (f : Eps → Eps) : (s.modEp d f).launches = s.launches := rfl
@[simp] theorem State.modEp_nextSerial (d : Nat) (f : Eps → Eps) : (s.modEp d f).nextSerial = s.nextSerial := rfl
@[simp] theorem State.modEp_lastQueue (d : Nat) (f : Eps → Eps) : (s.modEp d f).lastQueue = s.lastQueue := rfl
@[simp] theorem State.modEp_halted (d : Nat) (f : Eps → Eps) : (s.modEp d f).halted = s.halted := rfl
@[simp] theorem State.modEp_wanted (d : Nat) (f : Eps → Eps) : (s.modEp d f).wanted = s.wanted := rfl
@[simp] theorem State.modEp_conts (d : Nat) (f : Eps → Eps) : (s.modEp d f).conts = s.conts := rfl
@[simp] theorem State.modEp_codes (d : Nat) (f : Eps → Eps) : (s.modEp d f).codes = s.codes := rfl
@[simp] theorem State.modEp_dtlb (d : Nat) (f : Eps → Eps) : (s.modEp d f).dtlb = s.dtlb := rfl
@[simp] theorem State.modEp_windows (d : Nat) (f : Eps → Eps) : (s.modEp d f).windows = s.windows := rfl
@[simp] theorem State.modEp_barSizes (d : Nat) (f : Eps → Eps) : (s.modEp d f).barSizes = s.barSizes := rfl
@[simp] theorem State.modEp_readBuf (d : Nat) (f : Eps → Eps) : (s.modEp d f).readBuf = s.readBuf := rfl
@[simp] theorem State.modEp_atomEn (d : Nat) (f : Eps → Eps) : (s.modEp d f).atomEn = s.atomEn := rfl
@[simp] theorem State.modEp_vecMask (d : Nat) (f : Eps → Eps) : (s.modEp d f).vecMask = s.vecMask := rfl
@[simp] theorem State.modEp_vecPend (d : Nat) (f : Eps → Eps) : (s.modEp d f).vecPend = s.vecPend := rfl
@[simp] theorem State.modEp_notices (d : Nat) (f : Eps → Eps) : (s.modEp d f).notices = s.notices := rfl
@[simp] theorem State.modEp_hostAdds (d : Nat) (f : Eps → Eps) : (s.modEp d f).hostAdds = s.hostAdds := rfl
@[simp] theorem State.modEp_readOut (d : Nat) (f : Eps → Eps) : (s.modEp d f).readOut = s.readOut := rfl
@[simp] theorem State.modEp_readEp (d : Nat) (f : Eps → Eps) : (s.modEp d f).readEp = s.readEp := rfl
@[simp] theorem State.modEp_errLog (d : Nat) (f : Eps → Eps) : (s.modEp d f).errLog = s.errLog := rfl
@[simp] theorem State.modEp_errCount (d : Nat) (f : Eps → Eps) : (s.modEp d f).errCount = s.errCount := rfl
@[simp] theorem State.modEp_logBase (d : Nat) (f : Eps → Eps) : (s.modEp d f).logBase = s.logBase := rfl
@[simp] theorem State.modEp_repairs (d : Nat) (f : Eps → Eps) : (s.modEp d f).repairs = s.repairs := rfl
@[simp] theorem State.modEp_fuses (d : Nat) (f : Eps → Eps) : (s.modEp d f).fuses = s.fuses := rfl
@[simp] theorem State.modEp_spares (d : Nat) (f : Eps → Eps) : (s.modEp d f).spares = s.spares := rfl
@[simp] theorem State.modEp_spareChans (d : Nat) (f : Eps → Eps) : (s.modEp d f).spareChans = s.spareChans := rfl
@[simp] theorem State.modEp_badChans (d : Nat) (f : Eps → Eps) : (s.modEp d f).badChans = s.badChans := rfl
@[simp] theorem State.modEp_lostChans (d : Nat) (f : Eps → Eps) : (s.modEp d f).lostChans = s.lostChans := rfl
@[simp] theorem State.modEp_corrected (d : Nat) (f : Eps → Eps) : (s.modEp d f).corrected = s.corrected := rfl
@[simp] theorem State.modEp_corrLimit (d : Nat) (f : Eps → Eps) : (s.modEp d f).corrLimit = s.corrLimit := rfl
@[simp] theorem State.modEp_laneLimit (d : Nat) (f : Eps → Eps) : (s.modEp d f).laneLimit = s.laneLimit := rfl
@[simp] theorem State.modEp_planeBad (d : Nat) (f : Eps → Eps) : (s.modEp d f).planeBad = s.planeBad := rfl
@[simp] theorem State.modEp_sparePlane (d : Nat) (f : Eps → Eps) : (s.modEp d f).sparePlane = s.sparePlane := rfl
@[simp] theorem State.modEp_firmLate (d : Nat) (f : Eps → Eps) : (s.modEp d f).firmLate = s.firmLate := rfl
@[simp] theorem State.modEp_sparedWays (d : Nat) (f : Eps → Eps) : (s.modEp d f).sparedWays = s.sparedWays := rfl
@[simp] theorem State.modEp_testHours (d : Nat) (f : Eps → Eps) : (s.modEp d f).testHours = s.testHours := rfl
@[simp] theorem State.modEp_scrubHours (d : Nat) (f : Eps → Eps) : (s.modEp d f).scrubHours = s.scrubHours := rfl
@[simp] theorem State.modEp_mid (d : Nat) (f : Eps → Eps) : (s.modEp d f).mid = s.mid := rfl
@[simp] theorem State.modEp_routes (d : Nat) (f : Eps → Eps) : (s.modEp d f).routes = s.routes := rfl
@[simp] theorem State.modEp_ports (d : Nat) (f : Eps → Eps) : (s.modEp d f).ports = s.ports := rfl
@[simp] theorem State.modEp_islRefused (d : Nat) (f : Eps → Eps) : (s.modEp d f).islRefused = s.islRefused := rfl
@[simp] theorem State.modEp_islReset (d : Nat) (f : Eps → Eps) : (s.modEp d f).islReset = s.islReset := rfl
@[simp] theorem State.modEp_outQ (d : Nat) (f : Eps → Eps) : (s.modEp d f).outQ = s.outQ := rfl
@[simp] theorem State.modEp_transit (d : Nat) (f : Eps → Eps) : (s.modEp d f).transit = s.transit := rfl
@[simp] theorem State.modEp_mx (d : Nat) (f : Eps → Eps) : (s.modEp d f).mx = s.mx := rfl
@[simp] theorem State.modEp_throttle (d : Nat) (f : Eps → Eps) : (s.modEp d f).throttle = s.throttle := rfl
@[simp] theorem State.modEp_hotAt (d : Nat) (f : Eps → Eps) : (s.modEp d f).hotAt = s.hotAt := rfl
@[simp] theorem State.modEp_stepAt (d : Nat) (f : Eps → Eps) : (s.modEp d f).stepAt = s.stepAt := rfl
@[simp] theorem State.modEp_cap (d : Nat) (f : Eps → Eps) : (s.modEp d f).cap = s.cap := rfl
@[simp] theorem State.modEp_clock (d : Nat) (f : Eps → Eps) : (s.modEp d f).clock = s.clock := rfl
@[simp] theorem State.modEp_ns (d : Nat) (f : Eps → Eps) : (s.modEp d f).ns = s.ns := rfl
@[simp] theorem State.modEp_agenda (d : Nat) (f : Eps → Eps) : (s.modEp d f).agenda = s.agenda := rfl
@[simp] theorem State.modEp_cur (d : Nat) (f : Eps → Eps) : (s.modEp d f).cur = s.cur := rfl
@[simp] theorem State.modEp_disagree (d : Nat) (f : Eps → Eps) : (s.modEp d f).disagree = s.disagree := rfl
@[simp] theorem State.modEp_draw (d : Nat) (f : Eps → Eps) : (s.modEp d f).draw = s.draw := rfl
@[simp] theorem State.modEp_nextId (d : Nat) (f : Eps → Eps) : (s.modEp d f).nextId = s.nextId := rfl
@[simp] theorem State.modEp_seqNo (d : Nat) (f : Eps → Eps) : (s.modEp d f).seqNo = s.seqNo := rfl
@[simp] theorem State.modEp_admitNo (d : Nat) (f : Eps → Eps) : (s.modEp d f).admitNo = s.admitNo := rfl

@[simp] theorem State.modPort_teams (p : Nat) (f : Port → Port) : (s.modPort p f).teams = s.teams := rfl
@[simp] theorem State.modPort_cores (p : Nat) (f : Port → Port) : (s.modPort p f).cores = s.cores := rfl
@[simp] theorem State.modPort_mem (p : Nat) (f : Port → Port) : (s.modPort p f).mem = s.mem := rfl
@[simp] theorem State.modPort_hostMem (p : Nat) (f : Port → Port) : (s.modPort p f).hostMem = s.hostMem := rfl
@[simp] theorem State.modPort_poison (p : Nat) (f : Port → Port) : (s.modPort p f).poison = s.poison := rfl
@[simp] theorem State.modPort_tracked (p : Nat) (f : Port → Port) : (s.modPort p f).tracked = s.tracked := rfl
@[simp] theorem State.modPort_dir (p : Nat) (f : Port → Port) : (s.modPort p f).dir = s.dir := rfl
@[simp] theorem State.modPort_msets (p : Nat) (f : Port → Port) : (s.modPort p f).msets = s.msets := rfl
@[simp] theorem State.modPort_msetLen (p : Nat) (f : Port → Port) : (s.modPort p f).msetLen = s.msetLen := rfl
@[simp] theorem State.modPort_mtags (p : Nat) (f : Port → Port) : (s.modPort p f).mtags = s.mtags := rfl
@[simp] theorem State.modPort_pools (p : Nat) (f : Port → Port) : (s.modPort p f).pools = s.pools := rfl
@[simp] theorem State.modPort_flights (p : Nat) (f : Port → Port) : (s.modPort p f).flights = s.flights := rfl
@[simp] theorem State.modPort_ats (p : Nat) (f : Port → Port) : (s.modPort p f).ats = s.ats := rfl
@[simp] theorem State.modPort_ctxs (p : Nat) (f : Port → Port) : (s.modPort p f).ctxs = s.ctxs := rfl
@[simp] theorem State.modPort_queues (p : Nat) (f : Port → Port) : (s.modPort p f).queues = s.queues := rfl
@[simp] theorem State.modPort_launches (p : Nat) (f : Port → Port) : (s.modPort p f).launches = s.launches := rfl
@[simp] theorem State.modPort_nextSerial (p : Nat) (f : Port → Port) : (s.modPort p f).nextSerial = s.nextSerial := rfl
@[simp] theorem State.modPort_lastQueue (p : Nat) (f : Port → Port) : (s.modPort p f).lastQueue = s.lastQueue := rfl
@[simp] theorem State.modPort_halted (p : Nat) (f : Port → Port) : (s.modPort p f).halted = s.halted := rfl
@[simp] theorem State.modPort_wanted (p : Nat) (f : Port → Port) : (s.modPort p f).wanted = s.wanted := rfl
@[simp] theorem State.modPort_conts (p : Nat) (f : Port → Port) : (s.modPort p f).conts = s.conts := rfl
@[simp] theorem State.modPort_codes (p : Nat) (f : Port → Port) : (s.modPort p f).codes = s.codes := rfl
@[simp] theorem State.modPort_dtlb (p : Nat) (f : Port → Port) : (s.modPort p f).dtlb = s.dtlb := rfl
@[simp] theorem State.modPort_windows (p : Nat) (f : Port → Port) : (s.modPort p f).windows = s.windows := rfl
@[simp] theorem State.modPort_barSizes (p : Nat) (f : Port → Port) : (s.modPort p f).barSizes = s.barSizes := rfl
@[simp] theorem State.modPort_readBuf (p : Nat) (f : Port → Port) : (s.modPort p f).readBuf = s.readBuf := rfl
@[simp] theorem State.modPort_atomEn (p : Nat) (f : Port → Port) : (s.modPort p f).atomEn = s.atomEn := rfl
@[simp] theorem State.modPort_vecMask (p : Nat) (f : Port → Port) : (s.modPort p f).vecMask = s.vecMask := rfl
@[simp] theorem State.modPort_vecPend (p : Nat) (f : Port → Port) : (s.modPort p f).vecPend = s.vecPend := rfl
@[simp] theorem State.modPort_notices (p : Nat) (f : Port → Port) : (s.modPort p f).notices = s.notices := rfl
@[simp] theorem State.modPort_hostAdds (p : Nat) (f : Port → Port) : (s.modPort p f).hostAdds = s.hostAdds := rfl
@[simp] theorem State.modPort_readOut (p : Nat) (f : Port → Port) : (s.modPort p f).readOut = s.readOut := rfl
@[simp] theorem State.modPort_readEp (p : Nat) (f : Port → Port) : (s.modPort p f).readEp = s.readEp := rfl
@[simp] theorem State.modPort_errLog (p : Nat) (f : Port → Port) : (s.modPort p f).errLog = s.errLog := rfl
@[simp] theorem State.modPort_errCount (p : Nat) (f : Port → Port) : (s.modPort p f).errCount = s.errCount := rfl
@[simp] theorem State.modPort_logBase (p : Nat) (f : Port → Port) : (s.modPort p f).logBase = s.logBase := rfl
@[simp] theorem State.modPort_repairs (p : Nat) (f : Port → Port) : (s.modPort p f).repairs = s.repairs := rfl
@[simp] theorem State.modPort_fuses (p : Nat) (f : Port → Port) : (s.modPort p f).fuses = s.fuses := rfl
@[simp] theorem State.modPort_spares (p : Nat) (f : Port → Port) : (s.modPort p f).spares = s.spares := rfl
@[simp] theorem State.modPort_spareChans (p : Nat) (f : Port → Port) : (s.modPort p f).spareChans = s.spareChans := rfl
@[simp] theorem State.modPort_badChans (p : Nat) (f : Port → Port) : (s.modPort p f).badChans = s.badChans := rfl
@[simp] theorem State.modPort_lostChans (p : Nat) (f : Port → Port) : (s.modPort p f).lostChans = s.lostChans := rfl
@[simp] theorem State.modPort_corrected (p : Nat) (f : Port → Port) : (s.modPort p f).corrected = s.corrected := rfl
@[simp] theorem State.modPort_corrLimit (p : Nat) (f : Port → Port) : (s.modPort p f).corrLimit = s.corrLimit := rfl
@[simp] theorem State.modPort_laneLimit (p : Nat) (f : Port → Port) : (s.modPort p f).laneLimit = s.laneLimit := rfl
@[simp] theorem State.modPort_planeBad (p : Nat) (f : Port → Port) : (s.modPort p f).planeBad = s.planeBad := rfl
@[simp] theorem State.modPort_sparePlane (p : Nat) (f : Port → Port) : (s.modPort p f).sparePlane = s.sparePlane := rfl
@[simp] theorem State.modPort_firmLate (p : Nat) (f : Port → Port) : (s.modPort p f).firmLate = s.firmLate := rfl
@[simp] theorem State.modPort_sparedWays (p : Nat) (f : Port → Port) : (s.modPort p f).sparedWays = s.sparedWays := rfl
@[simp] theorem State.modPort_testHours (p : Nat) (f : Port → Port) : (s.modPort p f).testHours = s.testHours := rfl
@[simp] theorem State.modPort_scrubHours (p : Nat) (f : Port → Port) : (s.modPort p f).scrubHours = s.scrubHours := rfl
@[simp] theorem State.modPort_mid (p : Nat) (f : Port → Port) : (s.modPort p f).mid = s.mid := rfl
@[simp] theorem State.modPort_eps (p : Nat) (f : Port → Port) : (s.modPort p f).eps = s.eps := rfl
@[simp] theorem State.modPort_routes (p : Nat) (f : Port → Port) : (s.modPort p f).routes = s.routes := rfl
@[simp] theorem State.modPort_islRefused (p : Nat) (f : Port → Port) : (s.modPort p f).islRefused = s.islRefused := rfl
@[simp] theorem State.modPort_islReset (p : Nat) (f : Port → Port) : (s.modPort p f).islReset = s.islReset := rfl
@[simp] theorem State.modPort_outQ (p : Nat) (f : Port → Port) : (s.modPort p f).outQ = s.outQ := rfl
@[simp] theorem State.modPort_transit (p : Nat) (f : Port → Port) : (s.modPort p f).transit = s.transit := rfl
@[simp] theorem State.modPort_mx (p : Nat) (f : Port → Port) : (s.modPort p f).mx = s.mx := rfl
@[simp] theorem State.modPort_throttle (p : Nat) (f : Port → Port) : (s.modPort p f).throttle = s.throttle := rfl
@[simp] theorem State.modPort_hotAt (p : Nat) (f : Port → Port) : (s.modPort p f).hotAt = s.hotAt := rfl
@[simp] theorem State.modPort_stepAt (p : Nat) (f : Port → Port) : (s.modPort p f).stepAt = s.stepAt := rfl
@[simp] theorem State.modPort_cap (p : Nat) (f : Port → Port) : (s.modPort p f).cap = s.cap := rfl
@[simp] theorem State.modPort_clock (p : Nat) (f : Port → Port) : (s.modPort p f).clock = s.clock := rfl
@[simp] theorem State.modPort_ns (p : Nat) (f : Port → Port) : (s.modPort p f).ns = s.ns := rfl
@[simp] theorem State.modPort_agenda (p : Nat) (f : Port → Port) : (s.modPort p f).agenda = s.agenda := rfl
@[simp] theorem State.modPort_cur (p : Nat) (f : Port → Port) : (s.modPort p f).cur = s.cur := rfl
@[simp] theorem State.modPort_disagree (p : Nat) (f : Port → Port) : (s.modPort p f).disagree = s.disagree := rfl
@[simp] theorem State.modPort_draw (p : Nat) (f : Port → Port) : (s.modPort p f).draw = s.draw := rfl
@[simp] theorem State.modPort_nextId (p : Nat) (f : Port → Port) : (s.modPort p f).nextId = s.nextId := rfl
@[simp] theorem State.modPort_seqNo (p : Nat) (f : Port → Port) : (s.modPort p f).seqNo = s.seqNo := rfl
@[simp] theorem State.modPort_admitNo (p : Nat) (f : Port → Port) : (s.modPort p f).admitNo = s.admitNo := rfl

@[simp] theorem State.send_teams (x : Txn) : (s.send x).teams = s.teams := rfl
@[simp] theorem State.send_cores (x : Txn) : (s.send x).cores = s.cores := rfl
@[simp] theorem State.send_mem (x : Txn) : (s.send x).mem = s.mem := rfl
@[simp] theorem State.send_hostMem (x : Txn) : (s.send x).hostMem = s.hostMem := rfl
@[simp] theorem State.send_poison (x : Txn) : (s.send x).poison = s.poison := rfl
@[simp] theorem State.send_tracked (x : Txn) : (s.send x).tracked = s.tracked := rfl
@[simp] theorem State.send_dir (x : Txn) : (s.send x).dir = s.dir := rfl
@[simp] theorem State.send_msets (x : Txn) : (s.send x).msets = s.msets := rfl
@[simp] theorem State.send_msetLen (x : Txn) : (s.send x).msetLen = s.msetLen := rfl
@[simp] theorem State.send_mtags (x : Txn) : (s.send x).mtags = s.mtags := rfl
@[simp] theorem State.send_pools (x : Txn) : (s.send x).pools = s.pools := rfl
@[simp] theorem State.send_flights (x : Txn) : (s.send x).flights = s.flights := rfl
@[simp] theorem State.send_ats (x : Txn) : (s.send x).ats = s.ats := rfl
@[simp] theorem State.send_ctxs (x : Txn) : (s.send x).ctxs = s.ctxs := rfl
@[simp] theorem State.send_queues (x : Txn) : (s.send x).queues = s.queues := rfl
@[simp] theorem State.send_launches (x : Txn) : (s.send x).launches = s.launches := rfl
@[simp] theorem State.send_nextSerial (x : Txn) : (s.send x).nextSerial = s.nextSerial := rfl
@[simp] theorem State.send_lastQueue (x : Txn) : (s.send x).lastQueue = s.lastQueue := rfl
@[simp] theorem State.send_halted (x : Txn) : (s.send x).halted = s.halted := rfl
@[simp] theorem State.send_wanted (x : Txn) : (s.send x).wanted = s.wanted := rfl
@[simp] theorem State.send_conts (x : Txn) : (s.send x).conts = s.conts := rfl
@[simp] theorem State.send_codes (x : Txn) : (s.send x).codes = s.codes := rfl
@[simp] theorem State.send_dtlb (x : Txn) : (s.send x).dtlb = s.dtlb := rfl
@[simp] theorem State.send_windows (x : Txn) : (s.send x).windows = s.windows := rfl
@[simp] theorem State.send_barSizes (x : Txn) : (s.send x).barSizes = s.barSizes := rfl
@[simp] theorem State.send_readBuf (x : Txn) : (s.send x).readBuf = s.readBuf := rfl
@[simp] theorem State.send_atomEn (x : Txn) : (s.send x).atomEn = s.atomEn := rfl
@[simp] theorem State.send_vecMask (x : Txn) : (s.send x).vecMask = s.vecMask := rfl
@[simp] theorem State.send_vecPend (x : Txn) : (s.send x).vecPend = s.vecPend := rfl
@[simp] theorem State.send_notices (x : Txn) : (s.send x).notices = s.notices := rfl
@[simp] theorem State.send_hostAdds (x : Txn) : (s.send x).hostAdds = s.hostAdds := rfl
@[simp] theorem State.send_readOut (x : Txn) : (s.send x).readOut = s.readOut := rfl
@[simp] theorem State.send_readEp (x : Txn) : (s.send x).readEp = s.readEp := rfl
@[simp] theorem State.send_errLog (x : Txn) : (s.send x).errLog = s.errLog := rfl
@[simp] theorem State.send_errCount (x : Txn) : (s.send x).errCount = s.errCount := rfl
@[simp] theorem State.send_logBase (x : Txn) : (s.send x).logBase = s.logBase := rfl
@[simp] theorem State.send_repairs (x : Txn) : (s.send x).repairs = s.repairs := rfl
@[simp] theorem State.send_fuses (x : Txn) : (s.send x).fuses = s.fuses := rfl
@[simp] theorem State.send_spares (x : Txn) : (s.send x).spares = s.spares := rfl
@[simp] theorem State.send_spareChans (x : Txn) : (s.send x).spareChans = s.spareChans := rfl
@[simp] theorem State.send_badChans (x : Txn) : (s.send x).badChans = s.badChans := rfl
@[simp] theorem State.send_lostChans (x : Txn) : (s.send x).lostChans = s.lostChans := rfl
@[simp] theorem State.send_corrected (x : Txn) : (s.send x).corrected = s.corrected := rfl
@[simp] theorem State.send_corrLimit (x : Txn) : (s.send x).corrLimit = s.corrLimit := rfl
@[simp] theorem State.send_laneLimit (x : Txn) : (s.send x).laneLimit = s.laneLimit := rfl
@[simp] theorem State.send_planeBad (x : Txn) : (s.send x).planeBad = s.planeBad := rfl
@[simp] theorem State.send_sparePlane (x : Txn) : (s.send x).sparePlane = s.sparePlane := rfl
@[simp] theorem State.send_firmLate (x : Txn) : (s.send x).firmLate = s.firmLate := rfl
@[simp] theorem State.send_sparedWays (x : Txn) : (s.send x).sparedWays = s.sparedWays := rfl
@[simp] theorem State.send_testHours (x : Txn) : (s.send x).testHours = s.testHours := rfl
@[simp] theorem State.send_scrubHours (x : Txn) : (s.send x).scrubHours = s.scrubHours := rfl
@[simp] theorem State.send_mid (x : Txn) : (s.send x).mid = s.mid := rfl
@[simp] theorem State.send_eps (x : Txn) : (s.send x).eps = s.eps := rfl
@[simp] theorem State.send_routes (x : Txn) : (s.send x).routes = s.routes := rfl
@[simp] theorem State.send_ports (x : Txn) : (s.send x).ports = s.ports := rfl
@[simp] theorem State.send_islRefused (x : Txn) : (s.send x).islRefused = s.islRefused := rfl
@[simp] theorem State.send_islReset (x : Txn) : (s.send x).islReset = s.islReset := rfl
@[simp] theorem State.send_transit (x : Txn) : (s.send x).transit = s.transit := rfl
@[simp] theorem State.send_mx (x : Txn) : (s.send x).mx = s.mx := rfl
@[simp] theorem State.send_throttle (x : Txn) : (s.send x).throttle = s.throttle := rfl
@[simp] theorem State.send_hotAt (x : Txn) : (s.send x).hotAt = s.hotAt := rfl
@[simp] theorem State.send_stepAt (x : Txn) : (s.send x).stepAt = s.stepAt := rfl
@[simp] theorem State.send_cap (x : Txn) : (s.send x).cap = s.cap := rfl
@[simp] theorem State.send_clock (x : Txn) : (s.send x).clock = s.clock := rfl
@[simp] theorem State.send_ns (x : Txn) : (s.send x).ns = s.ns := rfl
@[simp] theorem State.send_agenda (x : Txn) : (s.send x).agenda = s.agenda := rfl
@[simp] theorem State.send_cur (x : Txn) : (s.send x).cur = s.cur := rfl
@[simp] theorem State.send_disagree (x : Txn) : (s.send x).disagree = s.disagree := rfl
@[simp] theorem State.send_draw (x : Txn) : (s.send x).draw = s.draw := rfl
@[simp] theorem State.send_nextId (x : Txn) : (s.send x).nextId = s.nextId := rfl
@[simp] theorem State.send_seqNo (x : Txn) : (s.send x).seqNo = s.seqNo := rfl
@[simp] theorem State.send_admitNo (x : Txn) : (s.send x).admitNo = s.admitNo := rfl

@[simp] theorem State.launchFlight_teams (x : Flight) : (s.launchFlight x).teams = s.teams := rfl
@[simp] theorem State.launchFlight_cores (x : Flight) : (s.launchFlight x).cores = s.cores := rfl
@[simp] theorem State.launchFlight_mem (x : Flight) : (s.launchFlight x).mem = s.mem := rfl
@[simp] theorem State.launchFlight_hostMem (x : Flight) : (s.launchFlight x).hostMem = s.hostMem := rfl
@[simp] theorem State.launchFlight_poison (x : Flight) : (s.launchFlight x).poison = s.poison := rfl
@[simp] theorem State.launchFlight_tracked (x : Flight) : (s.launchFlight x).tracked = s.tracked := rfl
@[simp] theorem State.launchFlight_dir (x : Flight) : (s.launchFlight x).dir = s.dir := rfl
@[simp] theorem State.launchFlight_msets (x : Flight) : (s.launchFlight x).msets = s.msets := rfl
@[simp] theorem State.launchFlight_msetLen (x : Flight) : (s.launchFlight x).msetLen = s.msetLen := rfl
@[simp] theorem State.launchFlight_mtags (x : Flight) : (s.launchFlight x).mtags = s.mtags := rfl
@[simp] theorem State.launchFlight_pools (x : Flight) : (s.launchFlight x).pools = s.pools := rfl
@[simp] theorem State.launchFlight_ats (x : Flight) : (s.launchFlight x).ats = s.ats := rfl
@[simp] theorem State.launchFlight_ctxs (x : Flight) : (s.launchFlight x).ctxs = s.ctxs := rfl
@[simp] theorem State.launchFlight_queues (x : Flight) : (s.launchFlight x).queues = s.queues := rfl
@[simp] theorem State.launchFlight_launches (x : Flight) : (s.launchFlight x).launches = s.launches := rfl
@[simp] theorem State.launchFlight_nextSerial (x : Flight) : (s.launchFlight x).nextSerial = s.nextSerial := rfl
@[simp] theorem State.launchFlight_lastQueue (x : Flight) : (s.launchFlight x).lastQueue = s.lastQueue := rfl
@[simp] theorem State.launchFlight_halted (x : Flight) : (s.launchFlight x).halted = s.halted := rfl
@[simp] theorem State.launchFlight_wanted (x : Flight) : (s.launchFlight x).wanted = s.wanted := rfl
@[simp] theorem State.launchFlight_conts (x : Flight) : (s.launchFlight x).conts = s.conts := rfl
@[simp] theorem State.launchFlight_codes (x : Flight) : (s.launchFlight x).codes = s.codes := rfl
@[simp] theorem State.launchFlight_dtlb (x : Flight) : (s.launchFlight x).dtlb = s.dtlb := rfl
@[simp] theorem State.launchFlight_windows (x : Flight) : (s.launchFlight x).windows = s.windows := rfl
@[simp] theorem State.launchFlight_barSizes (x : Flight) : (s.launchFlight x).barSizes = s.barSizes := rfl
@[simp] theorem State.launchFlight_readBuf (x : Flight) : (s.launchFlight x).readBuf = s.readBuf := rfl
@[simp] theorem State.launchFlight_atomEn (x : Flight) : (s.launchFlight x).atomEn = s.atomEn := rfl
@[simp] theorem State.launchFlight_vecMask (x : Flight) : (s.launchFlight x).vecMask = s.vecMask := rfl
@[simp] theorem State.launchFlight_vecPend (x : Flight) : (s.launchFlight x).vecPend = s.vecPend := rfl
@[simp] theorem State.launchFlight_notices (x : Flight) : (s.launchFlight x).notices = s.notices := rfl
@[simp] theorem State.launchFlight_hostAdds (x : Flight) : (s.launchFlight x).hostAdds = s.hostAdds := rfl
@[simp] theorem State.launchFlight_readOut (x : Flight) : (s.launchFlight x).readOut = s.readOut := rfl
@[simp] theorem State.launchFlight_readEp (x : Flight) : (s.launchFlight x).readEp = s.readEp := rfl
@[simp] theorem State.launchFlight_errLog (x : Flight) : (s.launchFlight x).errLog = s.errLog := rfl
@[simp] theorem State.launchFlight_errCount (x : Flight) : (s.launchFlight x).errCount = s.errCount := rfl
@[simp] theorem State.launchFlight_logBase (x : Flight) : (s.launchFlight x).logBase = s.logBase := rfl
@[simp] theorem State.launchFlight_repairs (x : Flight) : (s.launchFlight x).repairs = s.repairs := rfl
@[simp] theorem State.launchFlight_fuses (x : Flight) : (s.launchFlight x).fuses = s.fuses := rfl
@[simp] theorem State.launchFlight_spares (x : Flight) : (s.launchFlight x).spares = s.spares := rfl
@[simp] theorem State.launchFlight_spareChans (x : Flight) : (s.launchFlight x).spareChans = s.spareChans := rfl
@[simp] theorem State.launchFlight_badChans (x : Flight) : (s.launchFlight x).badChans = s.badChans := rfl
@[simp] theorem State.launchFlight_lostChans (x : Flight) : (s.launchFlight x).lostChans = s.lostChans := rfl
@[simp] theorem State.launchFlight_corrected (x : Flight) : (s.launchFlight x).corrected = s.corrected := rfl
@[simp] theorem State.launchFlight_corrLimit (x : Flight) : (s.launchFlight x).corrLimit = s.corrLimit := rfl
@[simp] theorem State.launchFlight_laneLimit (x : Flight) : (s.launchFlight x).laneLimit = s.laneLimit := rfl
@[simp] theorem State.launchFlight_planeBad (x : Flight) : (s.launchFlight x).planeBad = s.planeBad := rfl
@[simp] theorem State.launchFlight_sparePlane (x : Flight) : (s.launchFlight x).sparePlane = s.sparePlane := rfl
@[simp] theorem State.launchFlight_firmLate (x : Flight) : (s.launchFlight x).firmLate = s.firmLate := rfl
@[simp] theorem State.launchFlight_sparedWays (x : Flight) : (s.launchFlight x).sparedWays = s.sparedWays := rfl
@[simp] theorem State.launchFlight_testHours (x : Flight) : (s.launchFlight x).testHours = s.testHours := rfl
@[simp] theorem State.launchFlight_scrubHours (x : Flight) : (s.launchFlight x).scrubHours = s.scrubHours := rfl
@[simp] theorem State.launchFlight_mid (x : Flight) : (s.launchFlight x).mid = s.mid := rfl
@[simp] theorem State.launchFlight_eps (x : Flight) : (s.launchFlight x).eps = s.eps := rfl
@[simp] theorem State.launchFlight_routes (x : Flight) : (s.launchFlight x).routes = s.routes := rfl
@[simp] theorem State.launchFlight_ports (x : Flight) : (s.launchFlight x).ports = s.ports := rfl
@[simp] theorem State.launchFlight_islRefused (x : Flight) : (s.launchFlight x).islRefused = s.islRefused := rfl
@[simp] theorem State.launchFlight_islReset (x : Flight) : (s.launchFlight x).islReset = s.islReset := rfl
@[simp] theorem State.launchFlight_outQ (x : Flight) : (s.launchFlight x).outQ = s.outQ := rfl
@[simp] theorem State.launchFlight_transit (x : Flight) : (s.launchFlight x).transit = s.transit := rfl
@[simp] theorem State.launchFlight_mx (x : Flight) : (s.launchFlight x).mx = s.mx := rfl
@[simp] theorem State.launchFlight_throttle (x : Flight) : (s.launchFlight x).throttle = s.throttle := rfl
@[simp] theorem State.launchFlight_hotAt (x : Flight) : (s.launchFlight x).hotAt = s.hotAt := rfl
@[simp] theorem State.launchFlight_stepAt (x : Flight) : (s.launchFlight x).stepAt = s.stepAt := rfl
@[simp] theorem State.launchFlight_cap (x : Flight) : (s.launchFlight x).cap = s.cap := rfl
@[simp] theorem State.launchFlight_clock (x : Flight) : (s.launchFlight x).clock = s.clock := rfl
@[simp] theorem State.launchFlight_ns (x : Flight) : (s.launchFlight x).ns = s.ns := rfl
@[simp] theorem State.launchFlight_agenda (x : Flight) : (s.launchFlight x).agenda = s.agenda := rfl
@[simp] theorem State.launchFlight_cur (x : Flight) : (s.launchFlight x).cur = s.cur := rfl
@[simp] theorem State.launchFlight_disagree (x : Flight) : (s.launchFlight x).disagree = s.disagree := rfl
@[simp] theorem State.launchFlight_draw (x : Flight) : (s.launchFlight x).draw = s.draw := rfl
@[simp] theorem State.launchFlight_seqNo (x : Flight) : (s.launchFlight x).seqNo = s.seqNo := rfl
@[simp] theorem State.launchFlight_admitNo (x : Flight) : (s.launchFlight x).admitNo = s.admitNo := rfl

end Sys2Proof.Machine
end

