-- ==== Sys2Proof/Laws/Issue.lean ====
section
/-!
SUPPORT. What an issue can do: the division of the lanes into groups touches only the slots and landing records of the wave, and the commit of a tree whose lanes
neither fault nor exit is one equation.
-/

namespace Sys2Proof.Machine

/-! ## The division of lanes (R78, R92, R218) -/

/-- Two waves agree in all but their slots and landing records. -/
def Wave.Regroups (w w' : Wave) : Prop := w' = { w with slots := w'.slots, recs := w'.recs }

theorem Wave.Regroups.refl (w : Wave) : Wave.Regroups w w := rfl

theorem Wave.Regroups.trans {a b c : Wave} (h : a.Regroups b) (k : b.Regroups c) : a.Regroups c := by
  unfold Wave.Regroups at *
  rw [k, h]

theorem Wave.regroups_modGroup (w : Wave) (k : Nat) (f : Group → Group) : w.Regroups (w.modGroup k f) := rfl
theorem Wave.regroups_modRec (w : Wave) (k : Nat) (f : LandRec → LandRec) : w.Regroups (w.modRec k f) := rfl
theorem Wave.regroups_push (w : Wave) (i : Nat) (m : DWord) (f : Word) (l : DWord) (p : Option Nat) : w.Regroups (w.push i m f l p) := rfl

theorem Wave.regroups_foldl {α : Type} (f : Wave → α → Wave) (hf : ∀ (w : Wave) a, w.Regroups (f w a)) : ∀ (l : List α) (w : Wave), w.Regroups (l.foldl f w)
  | [], w => .refl w
  | a :: l, w => (hf w a).trans (Wave.regroups_foldl f hf l (f w a))

theorem Wave.regroups_complete (cyc : Nat) : ∀ (n i : Nat) (w : Wave), w.Regroups (Wave.complete cyc n i w)
  | 0, _, w => .refl w
  | n + 1, i, w => by
    unfold Wave.complete
    dsimp only
    split
    · exact .refl w
    split
    · exact w.regroups_modRec _ _
    split
    · exact .refl w
    split
    · exact w.regroups_modRec _ _
    · rename_i k _
      have h1 : ∀ (l : List Nat) (v : Wave), v.Regroups (l.foldl (fun a j => a.modGroup j (fun _ => {})) v) :=
        fun l v => Wave.regroups_foldl _ (fun a j => a.regroups_modGroup j _) l v
      split
      · split
        · exact ((w.regroups_modRec _ _).trans (h1 _ _)).trans
            ((Wave.regroups_modGroup _ _ _).trans ((Wave.regroups_modGroup _ _ _).trans ((Wave.regroups_modRec _ _ _).trans (Wave.regroups_complete cyc n _ _))))
        · exact ((w.regroups_modRec _ _).trans (h1 _ _)).trans (Wave.regroups_modGroup _ _ _)
      · exact ((w.regroups_modRec _ _).trans (h1 _ _)).trans (Wave.regroups_modGroup _ _ _)

theorem Wave.regroups_arrive (w : Wave) (cyc k : Nat) : w.Regroups (w.arrive cyc k) := by
  unfold Wave.arrive
  dsimp only
  split
  · split
    · exact (w.regroups_modGroup _ _).trans ((Wave.regroups_modRec _ _ _).trans (Wave.regroups_complete _ _ _ _))
    · exact .refl w
  · exact .refl w

theorem Wave.regroups_leave (w : Wave) (cyc : Nat) (m : DWord) (l : List Nat) : w.Regroups (w.leave cyc m l) :=
  (Wave.regroups_foldl _ (fun a i => a.regroups_modRec i _) l w).trans (Wave.regroups_foldl _ (fun a i => Wave.regroups_complete cyc 33 i a) l _)

theorem Wave.regroups_put (w : Wave) (k : Nat) (g : Group) : w.Regroups (w.put k g) := rfl

theorem Wave.regroups_placeRest (entry : Nat) : ∀ (r : List Group) (w : Wave) (l : List Nat), w.Regroups (Wave.placeRest entry r w l).1
  | [], w, _ => .refl w
  | g :: r, w, l => by
    unfold Wave.placeRest
    split
    · exact (w.regroups_put _ _).trans (Wave.regroups_placeRest entry r _ _)
    · exact Wave.regroups_placeRest entry r _ _

theorem Wave.regroups_place (w : Wave) (slot : Nat) (groups : List Group) (parked : Option Group) : w.Regroups (w.place slot groups parked).1 := by
  have h1 : w.Regroups (w.placeFirst slot groups parked).w := by
    unfold Wave.placeFirst
    split
    · exact (w.regroups_put _ _).trans (Wave.regroups_put _ _ _)
    · exact (w.regroups_put _ _).trans (Wave.regroups_put _ _ _)
    · exact w.regroups_put _ _
  have h2 : ∀ (x : Placing) (n : Nat), x.w.Regroups (Wave.placeParked x n).1 := by
    intro x n
    unfold Wave.placeParked
    split
    · split
      · exact Wave.regroups_put _ _ _
      · exact .refl _
    · exact .refl _
  exact (h1.trans (h2 _ _)).trans (Wave.regroups_placeRest _ _ _ _)

/-- No lane of some runs exits. -/
def NoExit (runs : List LRun) : Prop := ∀ r ∈ runs, r.succ ≠ none

theorem filter_none_of_noExit {runs : List LRun} (h : NoExit runs) : runs.filter (fun r => r.succ.isNone) = [] := by
  rw [List.filter_eq_nil_iff]
  intro r hr
  have := h r hr
  cases hs : r.succ with
  | none => exact absurd hs this
  | some x => simp

/-- The groups of an issue without exits stay within the slots and landing records. -/
theorem State.regroupWave_regroups (s : State) (e : Env) (stall : Nat) (fmt : Word) (ok : List LRun) (bad : List LaneFault) (keep : DWord) (w : Wave) (h : NoExit ok) :
    w.Regroups (s.regroupWave e stall fmt ok bad keep w).1 := by
  have h1 : w.Regroups (w.pushed e fmt (s.pushAt e fmt ok bad keep w)) := by
    unfold Wave.pushed
    split
    · exact w.regroups_push _ _ _ _ _
    · exact .refl w
  have hout : lanesMask ((ok.filter (fun r => r.succ.isNone)).map (·.lane)) = 0 := by rw [filter_none_of_noExit h]; rfl
  unfold State.regroupWave
  dsimp only
  rw [hout]
  simp only [if_true]
  refine h1.trans (Wave.Regroups.trans ?_ (Wave.regroups_foldl _ (fun a k => a.regroups_arrive _ k) _ _))
  exact Wave.Regroups.trans (Wave.regroups_place _ _ _ _) (Wave.regroups_foldl _ (fun a b => a.regroups_leave _ _ _) _ _)

/-- No parked slot when no lane faults. -/
theorem State.regroupWave_parked_none (s : State) (e : Env) (stall : Nat) (fmt : Word) (ok : List LRun) (w : Wave) :
    (s.regroupWave e stall fmt ok [] 0 w).2 = none := by
  unfold State.regroupWave Env.parked Wave.place Wave.placeFirst Wave.placeParked
  simp only [List.isEmpty_nil, if_true]
  split
  · rename_i h; split at h <;> simp_all
  · rename_i h; split <;> simp_all

/-- Two waves agree in all but their slots, their landing records and the group of the handler fragment. -/
def Wave.Moves (w w' : Wave) : Prop :=
  w' = { w with slots := w'.slots, recs := w'.recs, handler := w'.handler } ∧ w'.handler.map (fun h => (h.lane, h.s)) = w.handler.map (fun h => (h.lane, h.s))

theorem Wave.Moves.of_regroups {w w' : Wave} (h : w.Regroups w') : w.Moves w' := by
  unfold Wave.Regroups at h
  refine ⟨?_, ?_⟩
  · rw [h]
  · rw [h]

theorem Wave.Moves.lanes {w w' : Wave} (h : w.Moves w') : w'.lanes = w.lanes := by rw [h.1]
theorem Wave.Moves.s {w w' : Wave} (h : w.Moves w') : w'.s = w.s := by rw [h.1]
theorem Wave.Moves.sbuf {w w' : Wave} (h : w.Moves w') : w'.sbuf = w.sbuf := by rw [h.1]

/-- No lane of some runs faults. -/
def NoFault (runs : List LRun) : Prop := ∀ r ∈ runs, r.fault = none

theorem filter_of_noFault {runs : List LRun} (h : NoFault runs) : runs.filter (fun r => r.fault.isNone) = runs := by
  rw [List.filter_eq_self]
  intro r hr
  simp [h r hr]

theorem filterMap_of_noFault {runs : List LRun} (h : NoFault runs) : runs.filterMap (fun r => r.fault) = [] := by
  rw [List.filterMap_eq_nil_iff]
  exact h

/-- THE DIVISION OF LANES THAT NEITHER FAULT NOR EXIT (R78): only the wave's slots, records and the handler's group change. -/
theorem State.regroupAt_stays (s : State) (e : Env) (stall : Nat) (fmt : Word) (runs : List LRun) (w : Wave) (hw : s.wave? e.loc.team e.loc.wave = some w)
    (hn : e.loc.handler = true → runs ≠ []) (hf : NoFault runs) (hx : NoExit runs) :
    ∃ f : Wave → Wave, w.Moves (f w) ∧ s.regroupAt e stall fmt runs 0 = s.modWave e.loc.team e.loc.wave f := by
  unfold State.regroupAt
  split
  · rename_i hh
    cases runs with
    | nil => exact absurd rfl (hn hh)
    | cons r l =>
      dsimp only
      unfold State.handlerNext
      rw [hf r (List.mem_cons_self ..)]
      dsimp only
      cases hs : r.succ with
      | none => exact absurd hs (hx r (List.mem_cons_self ..))
      | some x =>
        dsimp only
        unfold State.modGroup
        refine ⟨_, ?_, rfl⟩
        simp only [hh, if_true]
        refine ⟨rfl, ?_⟩
        cases w.handler <;> rfl
  · rw [hw]
    dsimp only
    rw [filter_of_noFault hf, filterMap_of_noFault hf]
    have hp := State.regroupWave_parked_none s e stall fmt runs w
    have hr := State.regroupWave_regroups s e stall fmt runs [] 0 w hx
    have hn : runs.any (fun r => r.succ.isNone) = false := by
      rw [List.any_eq_false]
      intro r hr
      cases hs : r.succ with
      | none => exact absurd hs (hx r hr)
      | some x => simp
    rw [hp, hn]
    exact ⟨fun _ => (s.regroupWave e stall fmt runs [] 0 w).1, .of_regroups hr, rfl⟩

/-! ## Commits -/

theorem State.modTeam_modTeam (s : State) (t : Nat) (f g : Team → Team) (hf : ∀ x : Team, (f x).id = x.id) :
    (s.modTeam t f).modTeam t g = s.modTeam t (fun x => g (f x)) := by
  unfold State.modTeam
  simp only [List.map_map]
  congr 1
  apply List.map_congr_left
  intro x _
  by_cases h : x.id = t
  · simp [h, hf]
  · simp [h]

theorem State.modWave_modWave (s : State) (t w : Nat) (f g : Wave → Wave) : (s.modWave t w f).modWave t w g = s.modWave t w (fun x => g (f x)) := by
  unfold State.modWave
  rw [State.modTeam_modTeam s t (fun x => x.modWave w f) (fun x => x.modWave w g) (fun _ => rfl)]
  congr 1
  funext x
  unfold Team.modWave modNth
  simp only [List.modify_modify_eq]
  rfl

theorem State.modWave_id (s : State) (t w : Nat) : s.modWave t w (fun x => x) = s := by
  unfold State.modWave State.modTeam Team.modWave modNth
  have h : ∀ x : Team, ({ x with waves := x.waves.modify w (fun y => y) } : Team) = x := by
    intro x
    have : x.waves.modify w (fun y => y) = x.waves := by
      apply List.ext_getElem?
      intro j
      rw [List.getElem?_modify]
      cases x.waves[j]? <;> simp
    rw [this]
  simp [h]

theorem Wave.Moves.trans {a b c : Wave} (h : a.Moves b) (k : b.Moves c) : a.Moves c := by
  obtain ⟨h1, h2⟩ := h
  obtain ⟨k1, k2⟩ := k
  refine ⟨?_, k2.trans h2⟩
  rw [k1, h1]

/-- The division of lanes that neither fault nor exit, for a wave that may be absent. -/
theorem State.regroupAt_moves (s : State) (e : Env) (stall : Nat) (fmt : Word) (runs : List LRun)
    (hn : e.loc.handler = true → runs ≠ []) (hf : NoFault runs) (hx : NoExit runs) :
    ∃ f : Wave → Wave, (∀ w, s.wave? e.loc.team e.loc.wave = some w → w.Moves (f w)) ∧ s.regroupAt e stall fmt runs 0 = s.modWave e.loc.team e.loc.wave f := by
  cases hw : s.wave? e.loc.team e.loc.wave with
  | some w =>
    obtain ⟨f, h1, h2⟩ := s.regroupAt_stays e stall fmt runs w hw hn hf hx
    exact ⟨f, fun v hv => by injection hv with hv; exact hv ▸ h1, h2⟩
  | none =>
    unfold State.regroupAt
    split
    · rename_i hh
      cases runs with
      | nil => exact absurd rfl (hn hh)
      | cons r l =>
        dsimp only
        unfold State.handlerNext
        rw [hf r (List.mem_cons_self ..)]
        dsimp only
        cases hs : r.succ with
        | none => exact absurd hs (hx r (List.mem_cons_self ..))
        | some x => exact ⟨_, fun w h => by simp at h, rfl⟩
    · rw [hw]
      exact ⟨fun x => x, fun w h => by simp at h, (s.modWave_id _ _).symm⟩

/-- The state of a commit before its lanes are divided. -/
def State.committed (s : State) (e : Env) (t : Tree) (ops : List (List MAcc)) (runs : List LRun) : State :=
  let ok := runs.map (fun r => r.withStatus ops)
  ((atomicOrders ((((s.commitLanes e ok).commitScalars e ok (ldsScalars ops)).commitOps e t ops).trimLds e ok (ldsScalars ops) s.nextId) e ops).dropWalks
    e.core e.team.ctx).issued e

/-- THE COMMIT OF LANES THAT NEITHER FAULT NOR EXIT (R77): the lanes and scalars are written, the operations act, and the wave's groups move on. -/
theorem State.commitTree_stays (s : State) (e : Env) (t : Tree) (ops : List (List MAcc)) (runs : List LRun)
    (hn : e.loc.handler = true → runs ≠ []) (hf : NoFault runs) (hx : NoExit runs) :
    ∃ f : Wave → Wave, (∀ w, (s.committed e t ops runs).wave? e.loc.team e.loc.wave = some w → w.Moves (f w)) ∧
      s.commitTree e t ops runs = (s.committed e t ops runs).modWave e.loc.team e.loc.wave f := by
  unfold State.commitTree State.committed State.regroup
  dsimp only
  rw [filter_of_noFault hf]
  exact State.regroupAt_moves _ e t.stall.toNat e.g.fmt runs hn hf hx

theorem goes_clean {s : State} {t : Tree} {e : Env} (h : Safety.goes s t e = true) :
    s.disagree = false ∧ e.blocked t = none ∧ NoFault (e.runs s.draw t) ∧ NoExit (e.runs s.draw t) := by
  unfold Safety.goes at h
  simp only [Bool.and_eq_true, List.all_eq_true, Option.isNone_iff_eq_none, Bool.not_eq_eq_eq_not, Bool.not_true] at h
  refine ⟨h.1.1, h.1.2, fun r hr => (h.2 r hr).1, fun r hr hs => ?_⟩
  have := (h.2 r hr).2
  rw [hs] at this
  exact absurd this (by simp)

theorem waitsOf_passes : ∀ l : List (LRun × Chk), l.all (fun x => Safety.passes x.2) = true → waitsOf l = none := by
  intro l h
  have h1 : ∀ x ∈ l, ∃ m, x.2 = .ok m := by
    intro x hx
    have := List.all_eq_true.mp h x hx
    cases hc : x.2 with
    | ok m => exact ⟨m, rfl⟩
    | fault c d a => rw [hc] at this; exact absurd this (by simp [Safety.passes])
    | wait w => rw [hc] at this; exact absurd this (by simp [Safety.passes])
  have h2 : l.flatMap (fun x => x.2.pages) = [] := by
    rw [List.flatMap_eq_nil_iff]
    intro x hx
    obtain ⟨m, hm⟩ := h1 x hx
    rw [hm]
    rfl
  have h3 : l.findSome? (fun x => x.2.waits) = none := by
    rw [List.findSome?_eq_none_iff]
    intro x hx
    obtain ⟨m, hm⟩ := h1 x hx
    rw [hm]
    rfl
  have h4 : l.flatMap (fun x => x.2.hostPages) = [] := by
    rw [List.flatMap_eq_nil_iff]
    intro x hx
    obtain ⟨m, hm⟩ := h1 x hx
    rw [hm]
    rfl
  unfold waitsOf
  dsimp only
  rw [h2, h3, h4]
  rfl

/-- AN ACCEPTED ISSUE is its commit (R75, R77, R177). -/
theorem issueTree_accepted (s : State) (t : Tree) (e : Env) (hi : s.issuing t = some e) (ha : Safety.accepted s t e = true) :
    issueTree t s = (Safety.before s t e).commitTree e t (Safety.asked s t e) (e.runs s.draw t) := by
  unfold Safety.accepted at ha
  simp only [Bool.and_eq_true, Option.isNone_iff_eq_none] at ha
  obtain ⟨⟨⟨h1, h5⟩, h2⟩, h3⟩ := ha
  obtain ⟨hd, hb, hf, hx⟩ := goes_clean h1
  unfold Safety.before Safety.asked at *
  unfold issueTree State.issueIn
  rw [hi]
  dsimp only
  rw [hb]
  dsimp only
  rw [if_neg (fun hh => by rw [hh] at h5; exact absurd h5 (by simp)), waitsOf_passes _ h2]
  dsimp only
  rw [h3]
  dsimp only
  rw [if_neg (by rw [hd]; exact Bool.false_ne_true)]
  congr 1
  refine Eq.trans (List.map_congr_left (g := id) ?_) (List.map_id _)
  intro r _
  split
  · rename_i x hx
    have := List.all_eq_true.mp h2 x (List.mem_of_find?_eq_some hx)
    revert this
    cases x.2 <;> simp [Safety.passes, LRun.checked]
  · rfl

theorem lanes_ne_nil_of_handler (e : Env) (draw : Nat) (t : Tree) (h : e.loc.handler = true) : e.runs draw t ≠ [] := by
  unfold Env.runs Env.lanes
  simp [h]

/-! ## Pending sources (R220) -/

/-- Looking at a group changes teams alone. -/
theorem State.examine_frame (s : State) (l : Loc) : s.examine l = { s with teams := (s.examine l).teams } := by
  unfold State.examine
  repeat' split
  all_goals rfl

/-- A group that is not READY, or of which nothing is pending, is left as it is. -/
theorem State.examine_stays {s : State} {l : Loc} (h : ∀ g, s.group? l = some g → g.under = .ready → s.pendingAt l = none) : s.examine l = s := by
  unfold State.examine
  split
  · rfl
  · rename_i g hg
    split
    · rfl
    · rename_i hr
      rw [h g hg (by simpa using hr)]

theorem State.examine_foldl_frame (l : List Loc) (s : State) : l.foldl State.examine s = { s with teams := (l.foldl State.examine s).teams } := by
  induction l generalizing s with
  | nil => rfl
  | cons a l ih =>
    rw [List.foldl_cons, ih, State.examine_frame s a]

theorem State.examineTeam_frame (s : State) (t : Nat) : s.examineTeam t = { s with teams := (s.examineTeam t).teams } := State.examine_foldl_frame _ s

theorem State.examine_foldl_stays (l : List Loc) {s : State} (h : ∀ a ∈ l, ∀ g, s.group? a = some g → g.under = .ready → s.pendingAt a = none) : l.foldl State.examine s = s := by
  induction l with
  | nil => rfl
  | cons a l ih => rw [List.foldl_cons, State.examine_stays (h a List.mem_cons_self), ih (fun b hb => h b (List.mem_cons_of_mem a hb))]

/-- A team none of whose groups has a pending source stays as it is. -/
theorem State.examineTeam_stays {s : State} {t : Nat} (h : ∀ a ∈ (s.team? t).elim [] Team.locs, ∀ g, s.group? a = some g → g.under = .ready → s.pendingAt a = none) :
    s.examineTeam t = s := State.examine_foldl_stays _ h

end Sys2Proof.Machine
end

