-- ==== Sys2Proof/Laws/Memory.lean ====
section
/-!
SUPPORT. The laws of the sparse maps that hold memories: the canonical form is kept by every operation, and a read after a write sees the write and nothing else.
-/

namespace Sys2Proof.Sparse

variable {w : Nat}

/-- Every key of a canonical map is above a bound that its first key is above. -/
def above (b : Nat) : Sparse w → Prop
  | [] => True
  | (k, _) :: _ => b < k

theorem wf_cons {k : Nat} {v : BitVec w} {t : Sparse w} : wf ((k, v) :: t) = true ↔ v ≠ 0 ∧ above k t ∧ wf t = true := by
  cases t with
  | nil => simp [wf, above]
  | cons e t => obtain ⟨k', v'⟩ := e; simp [wf, above, and_assoc]

theorem above_mono {b k : Nat} {t : Sparse w} (h : b < k) (ht : above k t) : above b t := by
  cases t with
  | nil => trivial
  | cons e t => exact Nat.lt_trans h ht

theorem write_keeps (a : Nat) (x : BitVec w) : ∀ m : Sparse w, wf m = true →
    wf (write m a x) = true ∧ ∀ b, above b m → b < a → above b (write m a x)
  | [], _ => by
    unfold write
    split
    · exact ⟨rfl, fun _ _ _ => trivial⟩
    · exact ⟨by simpa [wf] using ‹_›, fun b _ hb => hb⟩
  | (k, v) :: t, h => by
    obtain ⟨hv, hk, ht⟩ := wf_cons.1 h
    obtain ⟨ih1, ih2⟩ := write_keeps a x t ht
    unfold write
    by_cases h1 : a < k
    · by_cases h2 : x = 0
      · simp only [h1, h2, if_true]; exact ⟨h, fun b hb _ => hb⟩
      · simp only [h1, h2, if_true, if_false]; exact ⟨wf_cons.2 ⟨h2, h1, h⟩, fun b _ hb => hb⟩
    · by_cases h3 : a = k
      · by_cases h2 : x = 0
        · simp only [h3, h2, if_true, if_false, Nat.lt_irrefl]; exact ⟨ht, fun b hb _ => above_mono hb hk⟩
        · simp only [h3, h2, if_true, if_false, Nat.lt_irrefl]; exact ⟨wf_cons.2 ⟨h2, hk, ht⟩, fun b hb _ => hb⟩
      · simp only [h1, h3, if_false]
        exact ⟨wf_cons.2 ⟨hv, ih2 k hk (by omega), ih1⟩, fun b hb _ => hb⟩

/-- A write keeps the canonical form. -/
theorem wf_write {m : Sparse w} (h : wf m = true) (a : Nat) (x : BitVec w) : wf (write m a x) = true := (write_keeps a x m h).1

/-- Writing a list of values keeps the canonical form. -/
theorem wf_writeList : ∀ (l : List (BitVec w)) (m : Sparse w) (a : Nat), wf m = true → wf (writeList m a l) = true
  | [], _, _, h => h
  | x :: xs, _, a, h => wf_writeList xs _ (a + 1) (wf_write h a x)

theorem filter_keeps (p : Nat × BitVec w → Bool) : ∀ m : Sparse w, wf m = true →
    wf (m.filter p : Sparse w) = true ∧ ∀ b, above b m → above b (m.filter p : Sparse w)
  | [], _ => ⟨rfl, fun _ _ => trivial⟩
  | (k, v) :: t, h => by
    obtain ⟨hv, hk, ht⟩ := wf_cons.1 h
    obtain ⟨ih1, ih2⟩ := filter_keeps p t ht
    cases hp : p (k, v) with
    | true => rw [List.filter_cons_of_pos hp]; exact ⟨wf_cons.2 ⟨hv, ih2 k hk, ih1⟩, fun b hb => hb⟩
    | false => rw [List.filter_cons_of_neg (by simp [hp])]; exact ⟨ih1, fun b hb => ih2 b (above_mono hb hk)⟩

/-- Dropping entries keeps the canonical form. -/
theorem wf_filter {m : Sparse w} (h : wf m = true) (p : Nat × BitVec w → Bool) : wf (m.filter p : Sparse w) = true := (filter_keeps p m h).1

/-- A key below every key of a map reads as zero. -/
theorem read_of_above {m : Sparse w} {a b : Nat} (h : above b m) (hb : a ≤ b) : read m a = 0 := by
  cases m with
  | nil => rfl
  | cons e t =>
    obtain ⟨k, v⟩ := e
    have hk : b < k := h
    unfold read
    rw [if_neg (by omega), if_pos (by omega)]

/-- A read after a write: the value written at its key, and everywhere else what was there. -/
theorem read_write : ∀ (m : Sparse w) (a b : Nat) (x : BitVec w), wf m = true → read (write m a x) b = if b = a then x else read m b
  | [], a, b, x, _ => by
    unfold write
    by_cases h2 : x = 0
    · simp [h2, read]
    · simp only [h2, if_false, read]; split <;> simp
  | (k, v) :: t, a, b, x, h => by
    obtain ⟨hv, hk, ht⟩ := wf_cons.1 h
    have ih := read_write t a b x ht
    unfold write
    by_cases h1 : a < k
    · by_cases h2 : x = 0
      · simp only [h1, h2, if_true]
        by_cases hb : b = a
        · subst hb; simp only [if_true, read]; rw [if_neg (by omega), if_pos h1]
        · simp [hb]
      · simp only [h1, h2, if_true, if_false]
        by_cases hb : b = a
        · subst hb; simp [read]
        · simp only [hb, if_false]
          conv => lhs; unfold read
          rw [if_neg hb]
          by_cases hb' : b < a
          · rw [if_pos hb']; unfold read; rw [if_neg (by omega), if_pos (by omega)]
          · rw [if_neg hb']
    · by_cases h3 : a = k
      · subst h3
        by_cases h2 : x = 0
        · simp only [h2, if_true, if_false, Nat.lt_irrefl]
          by_cases hb : b = a
          · subst hb; rw [if_pos rfl]; exact read_of_above hk (Nat.le_refl _)
          · simp only [hb, if_false]
            conv => rhs; unfold read
            rw [if_neg hb]
            by_cases hb' : b < a
            · rw [if_pos hb']; exact read_of_above hk (Nat.le_of_lt hb')
            · rw [if_neg hb']
        · simp only [h2, if_true, if_false, Nat.lt_irrefl]
          unfold read
          by_cases hb : b = a
          · simp [hb]
          · simp [hb]
      · simp only [h1, h3, if_false]
        unfold read
        by_cases hb : b = k
        · subst hb; rw [if_pos rfl, if_neg (Ne.symm h3), if_pos rfl]
        · simp only [hb, if_false]
          by_cases hb' : b < k
          · rw [if_pos hb', if_pos hb', if_neg (by omega)]
          · rw [if_neg hb', if_neg hb', ih]

/-- A read after the writing of a list outside its keys. -/
theorem read_writeList_out : ∀ (l : List (BitVec w)) (m : Sparse w) (a b : Nat), wf m = true → (b < a ∨ a + l.length ≤ b) →
    read (writeList m a l) b = read m b
  | [], _, _, _, _, _ => rfl
  | x :: xs, m, a, b, h, hb => by
    unfold writeList
    simp only [List.length_cons] at hb
    rw [read_writeList_out xs _ (a + 1) b (wf_write h a x) (by omega), read_write m a b x h, if_neg (by omega)]

/-- A read after the writing of a list at one of its keys. -/
theorem read_writeList_in : ∀ (l : List (BitVec w)) (m : Sparse w) (a i : Nat), wf m = true → i < l.length →
    read (writeList m a l) (a + i) = l.getD i 0
  | [], _, _, _, _, hi => by simp at hi
  | x :: xs, m, a, i, h, hi => by
    unfold writeList
    cases i with
    | zero => rw [read_writeList_out xs _ (a + 1) _ (wf_write h a x) (by omega), read_write m a _ x h]; simp
    | succ i =>
      have := read_writeList_in xs (write m a x) (a + 1) i (wf_write h a x) (by simpa using hi)
      rw [show a + (i + 1) = a + 1 + i by omega, this]; simp

/-- Writing the entries of a list that lie in a range keeps the canonical form. -/
theorem wf_writeIn (lo hi : Nat) : ∀ (n : List (Nat × BitVec w)) (m : Sparse w), wf m = true → wf (Machine.Sparse.writeIn lo hi n m) = true
  | [], _, h => h
  | (k, v) :: t, m, h => by
    unfold Machine.Sparse.writeIn
    split
    · exact wf_writeIn lo hi t _ (wf_write h k v)
    · exact wf_writeIn lo hi t _ h

/-- A splice keeps the canonical form, whatever is spliced in. -/
theorem wf_splice {m : Sparse w} (h : wf m = true) (lo hi : Nat) (n : Sparse w) : wf (Machine.Sparse.splice m lo hi n) = true :=
  wf_writeIn lo hi n _ (wf_filter h _)

/-- Two canonical maps that read alike everywhere are one map. -/
theorem ext_read : ∀ (m n : Sparse w), wf m = true → wf n = true → (∀ a, read m a = read n a) → m = n
  | [], [], _, _, _ => rfl
  | [], (k, v) :: t, _, hn, h => by
    have := h k; obtain ⟨hv, _, _⟩ := wf_cons.1 hn
    simp [read] at this; exact absurd this.symm hv
  | (k, v) :: t, [], hm, _, h => by
    have := h k; obtain ⟨hv, _, _⟩ := wf_cons.1 hm
    simp [read] at this; exact absurd this hv
  | (k, v) :: t, (k', v') :: t', hm, hn, h => by
    obtain ⟨hv, hk, ht⟩ := wf_cons.1 hm
    obtain ⟨hv', hk', ht'⟩ := wf_cons.1 hn
    have hkk : k = k' := by
      rcases Nat.lt_trichotomy k k' with h1 | h1 | h1
      · have := h k; unfold read at this; rw [if_pos rfl, if_neg (by omega), if_pos h1] at this; exact absurd this hv
      · exact h1
      · have := h k'; unfold read at this; rw [if_neg (by omega), if_pos h1, if_pos rfl] at this; exact absurd this.symm hv'
    subst hkk
    have hvv : v = v' := by have := h k; unfold read at this; simpa using this
    subst hvv
    have : t = t' := ext_read t t' ht ht' (fun a => by
      rcases Nat.lt_trichotomy a k with h1 | h1 | h1
      · rw [read_of_above hk (Nat.le_of_lt h1), read_of_above hk' (Nat.le_of_lt h1)]
      · subst h1; rw [read_of_above hk (Nat.le_refl _), read_of_above hk' (Nat.le_refl _)]
      · have := h a; unfold read at this; rw [if_neg (by omega), if_neg (by omega), if_neg (by omega), if_neg (by omega)] at this; exact this)
    rw [this]

end Sys2Proof.Sparse

namespace Sys2Proof.Machine

/-- Reset memory is canonical. -/
theorem memory_reset_wf : Memory.wf State.reset.mem = true := rfl

/-- Storing a little-endian value keeps a memory canonical. -/
theorem memory_wf_putNat {m : Mem} (h : Memory.wf m = true) (a n v : Nat) : Memory.wf (Mem.putNat m a n v) = true := Sparse.wf_writeList _ m a h

end Sys2Proof.Machine
end

