-- ==== Sys2Proof/Laws/PerInstr.lean ====
section
/-!
SUPPORT. The family Encoding: of every well-formed instruction, that its words are whole, as many as its header says, and start with a head.
-/

namespace Sys2Proof.Laws.Encoding

/-- The encoding of a well-formed instruction (R53, R54, R59): it is that of its tree, four parcels a word, its first parcel is a head and names the number of words; an event has none. -/
def Statement (i : Instr) : Prop :=
  ∀ x : DecodeCtx, i.wf x = true →
    match i.tree? with
    | none => encode i = []
    | some t => encode i = t.encode ∧ (encode i).length = 4 * t.words ∧ ∃ h r, encode i = h :: r ∧ isHead h = true ∧ headWords h = t.words

/-- A tree whose tests all have their parents has one leaf more than it has tests (R57). -/
theorem leaves_of_mask : ∀ m : BitVec 7,
    ((List.range 8).filter (fun p => 1 ≤ p && p ≤ 7 && m.getLsbD (p - 1))).all (fun p => p == 1 || (1 ≤ p / 2 && p / 2 ≤ 7 && m.getLsbD (p / 2 - 1))) = true →
    ((List.range 16).filter (fun p => 1 ≤ p && !(1 ≤ p && p ≤ 7 && m.getLsbD (p - 1)) && (p == 1 || (1 ≤ p / 2 && p / 2 ≤ 7 && m.getLsbD (p / 2 - 1))))).length =
      ((List.range 8).filter (fun p => 1 ≤ p && p ≤ 7 && m.getLsbD (p - 1))).length + 1 := by
  decide

theorem leaves_of_shape (t : Tree) (h : t.shapeOk = true) : t.leaves.length = t.tests.length + 1 := by
  unfold Tree.shapeOk at h
  simp only [Bool.and_eq_true, beq_iff_eq] at h
  obtain ⟨⟨⟨_, h1⟩, h2⟩, h3⟩ := h
  rw [h2, h1]
  exact leaves_of_mask t.tmask h3

theorem length_flatMap_two {α β : Type} (f : α → List β) (hf : ∀ a, (f a).length = 2) : ∀ l : List α, (l.flatMap f).length = 2 * l.length
  | [] => rfl
  | a :: l => by rw [List.flatMap_cons, List.length_append, hf, length_flatMap_two f hf l, List.length_cons]; omega

theorem parcels_length (t : Tree) (h : t.shapeOk = true) :
    t.parcels.length = 2 * (1 + t.tests.length + t.ops.length + t.lits.length) := by
  unfold Tree.parcels
  simp only [List.length_cons, List.length_append, List.length_map]
  rw [length_flatMap_two _ (fun _ => rfl), length_flatMap_two _ (fun _ => rfl), leaves_of_shape t h]
  omega

theorem encode_length (t : Tree) (h : t.shapeOk = true) : t.encode.length = 4 * t.words := by
  unfold Tree.encode
  rw [List.length_append, List.length_replicate, parcels_length t h]
  unfold Tree.words
  omega

theorem header_nat (t : Tree) (h : t.shapeOk = true) :
    t.header.toNat = 2 ^ 31 + ((t.words - 1) * 2 ^ 28 + t.stall.toNat * 2 ^ 24 + t.tmask.toNat * 2 ^ 17 + t.ops.length * 2 ^ 13 +
      t.lits.length * 2 ^ 10 + b2n t.uni * 2 ^ 9) ∧ 1 ≤ t.words ∧ t.words ≤ 8 := by
  unfold Tree.shapeOk at h
  simp only [Bool.and_eq_true, decide_eq_true_eq] at h
  obtain ⟨⟨⟨⟨⟨h1, h2⟩, h3⟩, _⟩, _⟩, _⟩ := h
  have hs := t.stall.isLt; have hm := t.tmask.isLt
  have hb : b2n t.uni ≤ 1 := by unfold b2n; split <;> omega
  have hw : 1 ≤ t.words ∧ t.words ≤ 8 := by unfold Tree.words; omega
  refine ⟨?_, hw⟩
  unfold Tree.header
  rw [BitVec.toNat_ofNat, Nat.mod_eq_of_lt]
  · omega
  · have := hw.2; omega

theorem header_head (t : Tree) (h : t.shapeOk = true) : isHead t.header = true ∧ headWords t.header = t.words := by
  obtain ⟨h1, h2, h3⟩ := header_nat t h
  unfold Tree.shapeOk at h
  simp only [Bool.and_eq_true, decide_eq_true_eq] at h
  obtain ⟨⟨⟨⟨⟨h4, h5⟩, _⟩, _⟩, _⟩, _⟩ := h
  have hs := t.stall.isLt; have hm := t.tmask.isLt
  have hb : b2n t.uni ≤ 1 := by unfold b2n; split <;> omega
  constructor
  · unfold isHead
    rw [BitVec.getLsbD, Nat.testBit_eq_decide_div_mod_eq, h1]
    simp only [decide_eq_true_eq]
    omega
  · unfold headWords fld nbits
    rw [Nat.shiftRight_eq_div_pow, h1]
    omega

/-- Every instruction with a tree. -/
theorem of_tree (i : Instr) (t : Tree) (ht : i.tree? = some t) : Statement i := by
  intro x hx
  unfold Instr.wf at hx
  simp only [ht] at hx ⊢
  simp only [Bool.and_eq_true] at hx
  have hs := hx.1.1
  have he : encode i = t.encode := by unfold encode; rw [ht]
  exact ⟨he, by rw [he]; exact encode_length t hs, t.header, _, by rw [he]; exact rfl, header_head t hs⟩

/-- Every event. -/
theorem of_event (i : Instr) (ht : i.tree? = none) : Statement i := by
  intro x _
  simp only [ht]
  unfold encode; rw [ht]

end Sys2Proof.Laws.Encoding

namespace Sys2Proof.Laws

theorem Encoding.treeInstruction (t : Tree) : Encoding.Statement (.treeInstruction t) := Encoding.of_tree _ _ rfl
theorem Encoding.stallExpiry (t w slot : Nat) : Encoding.Statement (.stallExpiry t w slot) := Encoding.of_event _ rfl
theorem Encoding.yieldExpiry (t w slot : Nat) : Encoding.Statement (.yieldExpiry t w slot) := Encoding.of_event _ rfl
theorem Encoding.mov (h : Head) (p : Payload) : Encoding.Statement (.mov h p) := Encoding.of_tree _ _ rfl
theorem Encoding.add (h : Head) (p : Payload) : Encoding.Statement (.add h p) := Encoding.of_tree _ _ rfl
theorem Encoding.sub (h : Head) (p : Payload) : Encoding.Statement (.sub h p) := Encoding.of_tree _ _ rfl
theorem Encoding.mul (h : Head) (p : Payload) : Encoding.Statement (.mul h p) := Encoding.of_tree _ _ rfl
theorem Encoding.mulhi (h : Head) (p : Payload) : Encoding.Statement (.mulhi h p) := Encoding.of_tree _ _ rfl
theorem Encoding.mad (h : Head) (p : Payload) : Encoding.Statement (.mad h p) := Encoding.of_tree _ _ rfl
theorem Encoding.div (h : Head) (p : Payload) : Encoding.Statement (.div h p) := Encoding.of_tree _ _ rfl
theorem Encoding.rem (h : Head) (p : Payload) : Encoding.Statement (.rem h p) := Encoding.of_tree _ _ rfl
theorem Encoding.min (h : Head) (p : Payload) : Encoding.Statement (.min h p) := Encoding.of_tree _ _ rfl
theorem Encoding.max (h : Head) (p : Payload) : Encoding.Statement (.max h p) := Encoding.of_tree _ _ rfl
theorem Encoding.addSat (h : Head) (p : Payload) : Encoding.Statement (.addSat h p) := Encoding.of_tree _ _ rfl
theorem Encoding.subSat (h : Head) (p : Payload) : Encoding.Statement (.subSat h p) := Encoding.of_tree _ _ rfl
theorem Encoding.lea (h : Head) (p : Payload) : Encoding.Statement (.lea h p) := Encoding.of_tree _ _ rfl
theorem Encoding.prmt (h : Head) (p : Payload) : Encoding.Statement (.prmt h p) := Encoding.of_tree _ _ rfl
theorem Encoding.sel (h : Head) (p : Payload) : Encoding.Statement (.sel h p) := Encoding.of_tree _ _ rfl
theorem Encoding.and (h : Head) (p : Payload) : Encoding.Statement (.and h p) := Encoding.of_tree _ _ rfl
theorem Encoding.or (h : Head) (p : Payload) : Encoding.Statement (.or h p) := Encoding.of_tree _ _ rfl
theorem Encoding.xor (h : Head) (p : Payload) : Encoding.Statement (.xor h p) := Encoding.of_tree _ _ rfl
theorem Encoding.andn (h : Head) (p : Payload) : Encoding.Statement (.andn h p) := Encoding.of_tree _ _ rfl
theorem Encoding.not (h : Head) (p : Payload) : Encoding.Statement (.not h p) := Encoding.of_tree _ _ rfl
theorem Encoding.shl (h : Head) (p : Payload) : Encoding.Statement (.shl h p) := Encoding.of_tree _ _ rfl
theorem Encoding.shr (h : Head) (p : Payload) : Encoding.Statement (.shr h p) := Encoding.of_tree _ _ rfl
theorem Encoding.rot (h : Head) (p : Payload) : Encoding.Statement (.rot h p) := Encoding.of_tree _ _ rfl
theorem Encoding.bfe (h : Head) (p : Payload) : Encoding.Statement (.bfe h p) := Encoding.of_tree _ _ rfl
theorem Encoding.bfi (h : Head) (p : Payload) : Encoding.Statement (.bfi h p) := Encoding.of_tree _ _ rfl
theorem Encoding.popc (h : Head) (p : Payload) : Encoding.Statement (.popc h p) := Encoding.of_tree _ _ rfl
theorem Encoding.clz (h : Head) (p : Payload) : Encoding.Statement (.clz h p) := Encoding.of_tree _ _ rfl
theorem Encoding.ctz (h : Head) (p : Payload) : Encoding.Statement (.ctz h p) := Encoding.of_tree _ _ rfl
theorem Encoding.brev (h : Head) (p : Payload) : Encoding.Statement (.brev h p) := Encoding.of_tree _ _ rfl
theorem Encoding.fma (h : Head) (p : Payload) : Encoding.Statement (.fma h p) := Encoding.of_tree _ _ rfl
theorem Encoding.dot2 (h : Head) (p : Payload) : Encoding.Statement (.dot2 h p) := Encoding.of_tree _ _ rfl
theorem Encoding.fmin (h : Head) (p : Payload) : Encoding.Statement (.fmin h p) := Encoding.of_tree _ _ rfl
theorem Encoding.fmax (h : Head) (p : Payload) : Encoding.Statement (.fmax h p) := Encoding.of_tree _ _ rfl
theorem Encoding.rcp (h : Head) (p : Payload) : Encoding.Statement (.rcp h p) := Encoding.of_tree _ _ rfl
theorem Encoding.rsq (h : Head) (p : Payload) : Encoding.Statement (.rsq h p) := Encoding.of_tree _ _ rfl
theorem Encoding.sqrt (h : Head) (p : Payload) : Encoding.Statement (.sqrt h p) := Encoding.of_tree _ _ rfl
theorem Encoding.exp2 (h : Head) (p : Payload) : Encoding.Statement (.exp2 h p) := Encoding.of_tree _ _ rfl
theorem Encoding.log2 (h : Head) (p : Payload) : Encoding.Statement (.log2 h p) := Encoding.of_tree _ _ rfl
theorem Encoding.sin (h : Head) (p : Payload) : Encoding.Statement (.sin h p) := Encoding.of_tree _ _ rfl
theorem Encoding.cos (h : Head) (p : Payload) : Encoding.Statement (.cos h p) := Encoding.of_tree _ _ rfl
theorem Encoding.tanh (h : Head) (p : Payload) : Encoding.Statement (.tanh h p) := Encoding.of_tree _ _ rfl
theorem Encoding.rnd (h : Head) (p : Payload) : Encoding.Statement (.rnd h p) := Encoding.of_tree _ _ rfl
theorem Encoding.frac (h : Head) (p : Payload) : Encoding.Statement (.frac h p) := Encoding.of_tree _ _ rfl
theorem Encoding.ldexp (h : Head) (p : Payload) : Encoding.Statement (.ldexp h p) := Encoding.of_tree _ _ rfl
theorem Encoding.sgn (h : Head) (p : Payload) : Encoding.Statement (.sgn h p) := Encoding.of_tree _ _ rfl
theorem Encoding.cvt (h : Head) (p : Payload) : Encoding.Statement (.cvt h p) := Encoding.of_tree _ _ rfl
theorem Encoding.cvtpk (h : Head) (p : Payload) : Encoding.Statement (.cvtpk h p) := Encoding.of_tree _ _ rfl
theorem Encoding.cvtun (h : Head) (p : Payload) : Encoding.Statement (.cvtun h p) := Encoding.of_tree _ _ rfl
theorem Encoding.cvtmx (h : Head) (p : Payload) : Encoding.Statement (.cvtmx h p) := Encoding.of_tree _ _ rfl
theorem Encoding.fclass (h : Head) (p : Payload) : Encoding.Statement (.fclass h p) := Encoding.of_tree _ _ rfl
theorem Encoding.fbin (h : Head) (p : Payload) : Encoding.Statement (.fbin h p) := Encoding.of_tree _ _ rfl
theorem Encoding.fscale (h : Head) (p : Payload) : Encoding.Statement (.fscale h p) := Encoding.of_tree _ _ rfl
theorem Encoding.fcross (h : Head) (p : Payload) : Encoding.Statement (.fcross h p) := Encoding.of_tree _ _ rfl
theorem Encoding.node (h : Head) (p : Payload) : Encoding.Statement (.node h p) := Encoding.of_tree _ _ rfl
theorem Encoding.lacc (h : Head) (p : Payload) : Encoding.Statement (.lacc h p) := Encoding.of_tree _ _ rfl
theorem Encoding.link (h : Head) (p : Payload) : Encoding.Statement (.link h p) := Encoding.of_tree _ _ rfl
theorem Encoding.lds (h : Head) (p : Payload) : Encoding.Statement (.lds h p) := Encoding.of_tree _ _ rfl
theorem Encoding.ldsWriteback (t id : Nat) : Encoding.Statement (.ldsWriteback t id) := Encoding.of_event _ rfl
theorem Encoding.sts (h : Head) (p : Payload) : Encoding.Statement (.sts h p) := Encoding.of_tree _ _ rfl
theorem Encoding.ldt (h : Head) (p : Payload) : Encoding.Statement (.ldt h p) := Encoding.of_tree _ _ rfl
theorem Encoding.stt (h : Head) (p : Payload) : Encoding.Statement (.stt h p) := Encoding.of_tree _ _ rfl
theorem Encoding.ldg (h : Head) (p : Payload) : Encoding.Statement (.ldg h p) := Encoding.of_tree _ _ rfl
theorem Encoding.stg (h : Head) (p : Payload) : Encoding.Statement (.stg h p) := Encoding.of_tree _ _ rfl
theorem Encoding.ldm (h : Head) (p : Payload) : Encoding.Statement (.ldm h p) := Encoding.of_tree _ _ rfl
theorem Encoding.stm (h : Head) (p : Payload) : Encoding.Statement (.stm h p) := Encoding.of_tree _ _ rfl
theorem Encoding.ldr (h : Head) (p : Payload) : Encoding.Statement (.ldr h p) := Encoding.of_tree _ _ rfl
theorem Encoding.str (h : Head) (p : Payload) : Encoding.Statement (.str h p) := Encoding.of_tree _ _ rfl
theorem Encoding.ldh (h : Head) (p : Payload) : Encoding.Statement (.ldh h p) := Encoding.of_tree _ _ rfl
theorem Encoding.sth (h : Head) (p : Payload) : Encoding.Statement (.sth h p) := Encoding.of_tree _ _ rfl
theorem Encoding.atms (h : Head) (p : Payload) : Encoding.Statement (.atms h p) := Encoding.of_tree _ _ rfl
theorem Encoding.atmg (h : Head) (p : Payload) : Encoding.Statement (.atmg h p) := Encoding.of_tree _ _ rfl
theorem Encoding.atmr (h : Head) (p : Payload) : Encoding.Statement (.atmr h p) := Encoding.of_tree _ _ rfl
theorem Encoding.mcas (h : Head) (p : Payload) : Encoding.Statement (.mcas h p) := Encoding.of_tree _ _ rfl
theorem Encoding.sred (h : Head) (p : Payload) : Encoding.Statement (.sred h p) := Encoding.of_tree _ _ rfl
theorem Encoding.smv (h : Head) (p : Payload) : Encoding.Statement (.smv h p) := Encoding.of_tree _ _ rfl
theorem Encoding.cpy1d (h : Head) (p : Payload) : Encoding.Statement (.cpy1d h p) := Encoding.of_tree _ _ rfl
theorem Encoding.cpyE (h : Head) (p : Payload) : Encoding.Statement (.cpyE h p) := Encoding.of_tree _ _ rfl
theorem Encoding.idxg (h : Head) (p : Payload) : Encoding.Statement (.idxg h p) := Encoding.of_tree _ _ rfl
theorem Encoding.idxgSt (h : Head) (p : Payload) : Encoding.Statement (.idxgSt h p) := Encoding.of_tree _ _ rfl
theorem Encoding.idxs (h : Head) (p : Payload) : Encoding.Statement (.idxs h p) := Encoding.of_tree _ _ rfl
theorem Encoding.idxsSt (h : Head) (p : Payload) : Encoding.Statement (.idxsSt h p) := Encoding.of_tree _ _ rfl
theorem Encoding.fqplay (h : Head) (p : Payload) : Encoding.Statement (.fqplay h p) := Encoding.of_tree _ _ rfl
theorem Encoding.bput (h : Head) (p : Payload) : Encoding.Statement (.bput h p) := Encoding.of_tree _ _ rfl
theorem Encoding.bplay (h : Head) (p : Payload) : Encoding.Statement (.bplay h p) := Encoding.of_tree _ _ rfl
theorem Encoding.wlpush (h : Head) (p : Payload) : Encoding.Statement (.wlpush h p) := Encoding.of_tree _ _ rfl
theorem Encoding.wlins (h : Head) (p : Payload) : Encoding.Statement (.wlins h p) := Encoding.of_tree _ _ rfl
theorem Encoding.wlpop (h : Head) (p : Payload) : Encoding.Statement (.wlpop h p) := Encoding.of_tree _ _ rfl
theorem Encoding.wlstat (h : Head) (p : Payload) : Encoding.Statement (.wlstat h p) := Encoding.of_tree _ _ rfl
theorem Encoding.barInit (h : Head) (p : Payload) : Encoding.Statement (.barInit h p) := Encoding.of_tree _ _ rfl
theorem Encoding.barArr (h : Head) (p : Payload) : Encoding.Statement (.barArr h p) := Encoding.of_tree _ _ rfl
theorem Encoding.barArrM (h : Head) (p : Payload) : Encoding.Statement (.barArrM h p) := Encoding.of_tree _ _ rfl
theorem Encoding.barExp (h : Head) (p : Payload) : Encoding.Statement (.barExp h p) := Encoding.of_tree _ _ rfl
theorem Encoding.watchA (h : Head) (p : Payload) : Encoding.Statement (.watchA h p) := Encoding.of_tree _ _ rfl
theorem Encoding.watchC (h : Head) (p : Payload) : Encoding.Statement (.watchC h p) := Encoding.of_tree _ _ rfl
theorem Encoding.qword (h : Head) (p : Payload) : Encoding.Statement (.qword h p) := Encoding.of_tree _ _ rfl
theorem Encoding.tfill (h : Head) (p : Payload) : Encoding.Statement (.tfill h p) := Encoding.of_tree _ _ rfl
theorem Encoding.tcls (h : Head) (p : Payload) : Encoding.Statement (.tcls h p) := Encoding.of_tree _ _ rfl
theorem Encoding.tqry (h : Head) (p : Payload) : Encoding.Statement (.tqry h p) := Encoding.of_tree _ _ rfl
theorem Encoding.gang (h : Head) (p : Payload) : Encoding.Statement (.gang h p) := Encoding.of_tree _ _ rfl
theorem Encoding.mma (h : Head) (p : Payload) : Encoding.Statement (.mma h p) := Encoding.of_tree _ _ rfl
theorem Encoding.mmx (h : Head) (p : Payload) : Encoding.Statement (.mmx h p) := Encoding.of_tree _ _ rfl
theorem Encoding.mmld (h : Head) (p : Payload) : Encoding.Statement (.mmld h p) := Encoding.of_tree _ _ rfl
theorem Encoding.mmst (h : Head) (p : Payload) : Encoding.Statement (.mmst h p) := Encoding.of_tree _ _ rfl
theorem Encoding.mmz (h : Head) (p : Payload) : Encoding.Statement (.mmz h p) := Encoding.of_tree _ _ rfl
theorem Encoding.mmstat (h : Head) (p : Payload) : Encoding.Statement (.mmstat h p) := Encoding.of_tree _ _ rfl
theorem Encoding.cbld (h : Head) (p : Payload) : Encoding.Statement (.cbld h p) := Encoding.of_tree _ _ rfl
theorem Encoding.seal (h : Head) (p : Payload) : Encoding.Statement (.seal h p) := Encoding.of_tree _ _ rfl
theorem Encoding.hdrop (h : Head) (p : Payload) : Encoding.Statement (.hdrop h p) := Encoding.of_tree _ _ rfl
theorem Encoding.fmt (h : Head) (p : Payload) : Encoding.Statement (.fmt h p) := Encoding.of_tree _ _ rfl
theorem Encoding.fmtM (h : Head) (p : Payload) : Encoding.Statement (.fmtM h p) := Encoding.of_tree _ _ rfl
theorem Encoding.shfl (h : Head) (p : Payload) : Encoding.Statement (.shfl h p) := Encoding.of_tree _ _ rfl
theorem Encoding.vote (h : Head) (p : Payload) : Encoding.Statement (.vote h p) := Encoding.of_tree _ _ rfl
theorem Encoding.redux (h : Head) (p : Payload) : Encoding.Statement (.redux h p) := Encoding.of_tree _ _ rfl
theorem Encoding.bcast (h : Head) (p : Payload) : Encoding.Statement (.bcast h p) := Encoding.of_tree _ _ rfl
theorem Encoding.barWait (h : Head) (p : Payload) : Encoding.Statement (.barWait h p) := Encoding.of_tree _ _ rfl
theorem Encoding.phaseRel (h : Head) (p : Payload) : Encoding.Statement (.phaseRel h p) := Encoding.of_tree _ _ rfl
theorem Encoding.phaseAcq (h : Head) (p : Payload) : Encoding.Statement (.phaseAcq h p) := Encoding.of_tree _ _ rfl
theorem Encoding.publish (h : Head) (p : Payload) : Encoding.Statement (.publish h p) := Encoding.of_tree _ _ rfl
theorem Encoding.qfence (h : Head) (p : Payload) : Encoding.Statement (.qfence h p) := Encoding.of_tree _ _ rfl
theorem Encoding.trap (h : Head) (p : Payload) : Encoding.Statement (.trap h p) := Encoding.of_tree _ _ rfl
theorem Encoding.bkpt (h : Head) (p : Payload) : Encoding.Statement (.bkpt h p) := Encoding.of_tree _ _ rfl
theorem Encoding.nopre (h : Head) (p : Payload) : Encoding.Statement (.nopre h p) := Encoding.of_tree _ _ rfl
theorem Encoding.pre (h : Head) (p : Payload) : Encoding.Statement (.pre h p) := Encoding.of_tree _ _ rfl
theorem Encoding.capq (h : Head) (p : Payload) : Encoding.Statement (.capq h p) := Encoding.of_tree _ _ rfl
theorem Encoding.sread (h : Head) (p : Payload) : Encoding.Statement (.sread h p) := Encoding.of_tree _ _ rfl
theorem Encoding.swrite (h : Head) (p : Payload) : Encoding.Statement (.swrite h p) := Encoding.of_tree _ _ rfl
theorem Encoding.eret (h : Head) (p : Payload) : Encoding.Statement (.eret h p) := Encoding.of_tree _ _ rfl
theorem Encoding.eretExit (h : Head) (p : Payload) : Encoding.Statement (.eretExit h p) := Encoding.of_tree _ _ rfl
theorem Encoding.lget (h : Head) (p : Payload) : Encoding.Statement (.lget h p) := Encoding.of_tree _ _ rfl
theorem Encoding.lset (h : Head) (p : Payload) : Encoding.Statement (.lset h p) := Encoding.of_tree _ _ rfl
theorem Encoding.yield (h : Head) (p : Payload) : Encoding.Statement (.yield h p) := Encoding.of_tree _ _ rfl
theorem Encoding.loadDataArrival (id : Nat) (r : Resp) : Encoding.Statement (.loadDataArrival id r) := Encoding.of_event _ rfl
theorem Encoding.pageWalkComplete (core ctx page : Nat) : Encoding.Statement (.pageWalkComplete core ctx page) := Encoding.of_event _ rfl
theorem Encoding.writePerformed (w : WSel) : Encoding.Statement (.writePerformed w) := Encoding.of_event _ rfl
theorem Encoding.majorityResponseTimeout (id copy : Nat) : Encoding.Statement (.majorityResponseTimeout id copy) := Encoding.of_event _ rfl
theorem Encoding.copyEngineTurn (core : Nat) : Encoding.Statement (.copyEngineTurn core) := Encoding.of_event _ rfl
theorem Encoding.indexEngineTurn (core : Nat) : Encoding.Statement (.indexEngineTurn core) := Encoding.of_event _ rfl
theorem Encoding.binEngineTurn (core : Nat) : Encoding.Statement (.binEngineTurn core) := Encoding.of_event _ rfl
theorem Encoding.bplayPerform (core : Nat) : Encoding.Statement (.bplayPerform core) := Encoding.of_event _ rfl
theorem Encoding.worklistEngineTurn (core : Nat) : Encoding.Statement (.worklistEngineTurn core) := Encoding.of_event _ rfl
theorem Encoding.worklistFrontDrain (t : Nat) : Encoding.Statement (.worklistFrontDrain t) := Encoding.of_event _ rfl
theorem Encoding.stackEngineSmv (t : Nat) : Encoding.Statement (.stackEngineSmv t) := Encoding.of_event _ rfl
theorem Encoding.sredPerform (id : Nat) : Encoding.Statement (.sredPerform id) := Encoding.of_event _ rfl
theorem Encoding.matrixJointOperation (core : Nat) : Encoding.Statement (.matrixJointOperation core) := Encoding.of_event _ rfl
theorem Encoding.mmldPerform (core : Nat) : Encoding.Statement (.mmldPerform core) := Encoding.of_event _ rfl
theorem Encoding.mmstPerform (core : Nat) : Encoding.Statement (.mmstPerform core) := Encoding.of_event _ rfl
theorem Encoding.cbldComplete (core : Nat) : Encoding.Statement (.cbldComplete core) := Encoding.of_event _ rfl
theorem Encoding.fqheadAdvance (ctx head : Nat) : Encoding.Statement (.fqheadAdvance ctx head) := Encoding.of_event _ rfl
theorem Encoding.faultVerdictResolved (ctx page : Nat) (replay : List Nat) : Encoding.Statement (.faultVerdictResolved ctx page replay) := Encoding.of_event _ rfl
theorem Encoding.faultVerdictRefused (ctx page : Nat) : Encoding.Statement (.faultVerdictRefused ctx page) := Encoding.of_event _ rfl
theorem Encoding.tlbInvalidate (ctx lo hi : Nat) : Encoding.Statement (.tlbInvalidate ctx lo hi) := Encoding.of_event _ rfl
theorem Encoding.regionWatchdog (t w : Nat) : Encoding.Statement (.regionWatchdog t w) := Encoding.of_event _ rfl
theorem Encoding.teamPark (t : Nat) : Encoding.Statement (.teamPark t) := Encoding.of_event _ rfl
theorem Encoding.teamRestoreParked (t : Nat) : Encoding.Statement (.teamRestoreParked t) := Encoding.of_event _ rfl
theorem Encoding.debugStop (t : Nat) : Encoding.Statement (.debugStop t) := Encoding.of_event _ rfl
theorem Encoding.debugResume (t : Nat) : Encoding.Statement (.debugResume t) := Encoding.of_event _ rfl
theorem Encoding.singleStep (t w lane : Nat) : Encoding.Statement (.singleStep t w lane) := Encoding.of_event _ rfl
theorem Encoding.stepWave (t w : Nat) : Encoding.Statement (.stepWave t w) := Encoding.of_event _ rfl
theorem Encoding.debugPass (t w slot : Nat) : Encoding.Statement (.debugPass t w slot) := Encoding.of_event _ rfl
theorem Encoding.debugDeliver (t w slot : Nat) : Encoding.Statement (.debugDeliver t w slot) := Encoding.of_event _ rfl
theorem Encoding.launchAccept (q : Nat) : Encoding.Statement (.launchAccept q) := Encoding.of_event _ rfl
theorem Encoding.queueRestart (q : Nat) : Encoding.Statement (.queueRestart q) := Encoding.of_event _ rfl
theorem Encoding.queueRegister (q addr : Nat) : Encoding.Statement (.queueRegister q addr) := Encoding.of_event _ rfl
theorem Encoding.contextRegister (ctx addr fn : Nat) : Encoding.Statement (.contextRegister ctx addr fn) := Encoding.of_event _ rfl
theorem Encoding.waitCounterCheck (q : Nat) : Encoding.Statement (.waitCounterCheck q) := Encoding.of_event _ rfl
theorem Encoding.queueAgeBoost (q : Nat) : Encoding.Statement (.queueAgeBoost q) := Encoding.of_event _ rfl
theorem Encoding.teamDispatch (core : Nat) (quads : List Nat) : Encoding.Statement (.teamDispatch core quads) := Encoding.of_event _ rfl
theorem Encoding.preemptTeam (t : Nat) : Encoding.Statement (.preemptTeam t) := Encoding.of_event _ rfl
theorem Encoding.preemptRequest (ctx : Nat) : Encoding.Statement (.preemptRequest ctx) := Encoding.of_event _ rfl
theorem Encoding.launchRetire (serial : Nat) : Encoding.Statement (.launchRetire serial) := Encoding.of_event _ rfl
theorem Encoding.launchCancel (serial : Nat) : Encoding.Statement (.launchCancel serial) := Encoding.of_event _ rfl
theorem Encoding.contextMigrate (ctx : Migration) : Encoding.Statement (.contextMigrate ctx) := Encoding.of_event _ rfl
theorem Encoding.containerLoad (addr size : Nat) : Encoding.Statement (.containerLoad addr size) := Encoding.of_event _ rfl
theorem Encoding.containerUnload (h : Nat) : Encoding.Statement (.containerUnload h) := Encoding.of_event _ rfl
theorem Encoding.trackRange (lo hi fmt : Nat) : Encoding.Statement (.trackRange lo hi fmt) := Encoding.of_event _ rfl
theorem Encoding.untrackRange (lo hi : Nat) : Encoding.Statement (.untrackRange lo hi) := Encoding.of_event _ rfl
theorem Encoding.majoritySetWrite (k : Nat) (e : List Nat) : Encoding.Statement (.majoritySetWrite k e) := Encoding.of_event _ rfl
theorem Encoding.majorityCopyMove (k copy base : Nat) : Encoding.Statement (.majorityCopyMove k copy base) := Encoding.of_event _ rfl
theorem Encoding.scrub (k : Nat) : Encoding.Statement (.scrub k) := Encoding.of_event _ rfl
theorem Encoding.correctedError (e : ErrInfo) : Encoding.Statement (.correctedError e) := Encoding.of_event _ rfl
theorem Encoding.uncorrectedMemoryError (e : ErrInfo) : Encoding.Statement (.uncorrectedMemoryError e) := Encoding.of_event _ rfl
theorem Encoding.stateLoss (core : Nat) (e : ErrInfo) : Encoding.Statement (.stateLoss core e) := Encoding.of_event _ rfl
theorem Encoding.coreRetireDrain (core : Nat) : Encoding.Statement (.coreRetireDrain core) := Encoding.of_event _ rfl
theorem Encoding.channelRepair (stack chan : Nat) : Encoding.Statement (.channelRepair stack chan) := Encoding.of_event _ rfl
theorem Encoding.infieldTest (core : Nat) : Encoding.Statement (.infieldTest core) := Encoding.of_event _ rfl
theorem Encoding.infieldTestComplete (core : Nat) (pass : Bool) : Encoding.Statement (.infieldTestComplete core pass) := Encoding.of_event _ rfl
theorem Encoding.cmdQuiesce (die : Nat) : Encoding.Statement (.cmdQuiesce die) := Encoding.of_event _ rfl
theorem Encoding.cmdRelease (die : Nat) : Encoding.Statement (.cmdRelease die) := Encoding.of_event _ rfl
theorem Encoding.cmdComputeReset (die : Nat) : Encoding.Statement (.cmdComputeReset die) := Encoding.of_event _ rfl
theorem Encoding.cmdPowerOff (die : Nat) : Encoding.Statement (.cmdPowerOff die) := Encoding.of_event _ rfl
theorem Encoding.cmdPowerOn (die : Nat) : Encoding.Statement (.cmdPowerOn die) := Encoding.of_event _ rfl
theorem Encoding.dieDrained (die : Nat) : Encoding.Statement (.dieDrained die) := Encoding.of_event _ rfl
theorem Encoding.dieWatchdog (die : Nat) : Encoding.Statement (.dieWatchdog die) := Encoding.of_event _ rfl
theorem Encoding.dieResetComplete (die : Nat) (pass : Bool) : Encoding.Statement (.dieResetComplete die pass) := Encoding.of_event _ rfl
theorem Encoding.epsFlagClear (die bits : Nat) : Encoding.Statement (.epsFlagClear die bits) := Encoding.of_event _ rfl
theorem Encoding.islandReset : Encoding.Statement (.islandReset) := Encoding.of_event _ rfl
theorem Encoding.islandResetComplete : Encoding.Statement (.islandResetComplete) := Encoding.of_event _ rfl
theorem Encoding.routeWrite (k v : Nat) : Encoding.Statement (.routeWrite k v) := Encoding.of_event _ rfl
theorem Encoding.routeLaneChangeover (k lane : Nat) : Encoding.Statement (.routeLaneChangeover k lane) := Encoding.of_event _ rfl
theorem Encoding.flitReceive (port : Nat) (f : Flit) : Encoding.Statement (.flitReceive port f) := Encoding.of_event _ rfl
theorem Encoding.fabricTransaction (f : Txn) : Encoding.Statement (.fabricTransaction f) := Encoding.of_event _ rfl
theorem Encoding.laneSpare (port : Nat) (lane : LaneFail) : Encoding.Statement (.laneSpare port lane) := Encoding.of_event _ rfl
theorem Encoding.portRetrain (port : Nat) : Encoding.Statement (.portRetrain port) := Encoding.of_event _ rfl
theorem Encoding.bar2Write (at_ : HostAccess) (data : List Nat) : Encoding.Statement (.bar2Write at_ data) := Encoding.of_event _ rfl
theorem Encoding.bar2Read (at_ : HostAccess) (size : Nat) : Encoding.Statement (.bar2Read at_ size) := Encoding.of_event _ rfl
theorem Encoding.controlRegisterWrite (off v : Nat) : Encoding.Statement (.controlRegisterWrite off v) := Encoding.of_event _ rfl
theorem Encoding.attestationReport : Encoding.Statement (.attestationReport) := Encoding.of_event _ rfl
theorem Encoding.extendRegister : Encoding.Statement (.extendRegister) := Encoding.of_event _ rfl
theorem Encoding.addContainerKey : Encoding.Statement (.addContainerKey) := Encoding.of_event _ rfl
theorem Encoding.readCertificateChain : Encoding.Statement (.readCertificateChain) := Encoding.of_event _ rfl
theorem Encoding.ideKeyExchange : Encoding.Statement (.ideKeyExchange) := Encoding.of_event _ rfl
theorem Encoding.mailboxBadCommand (cmd : Nat) : Encoding.Statement (.mailboxBadCommand cmd) := Encoding.of_event _ rfl
theorem Encoding.mailboxRefusedClear : Encoding.Statement (.mailboxRefusedClear) := Encoding.of_event _ rfl
theorem Encoding.shutter (alarm : Nat) : Encoding.Statement (.shutter alarm) := Encoding.of_event _ rfl
theorem Encoding.throttleStepDown : Encoding.Statement (.throttleStepDown) := Encoding.of_event _ rfl
theorem Encoding.throttleStepUp : Encoding.Statement (.throttleStepUp) := Encoding.of_event _ rfl
theorem Encoding.moduleReset : Encoding.Statement (.moduleReset) := Encoding.of_event _ rfl
theorem Encoding.fetchaddCompletion (id : Nat) (ok : Bool) : Encoding.Statement (.fetchaddCompletion id ok) := Encoding.of_event _ rfl
theorem Encoding.sealReadComplete (id : Nat) (r : Resp) : Encoding.Statement (.sealReadComplete id r) := Encoding.of_event _ rfl
theorem Encoding.debuggerAttach (ctx : Nat) (on : Bool) : Encoding.Statement (.debuggerAttach ctx on) := Encoding.of_event _ rfl
theorem Encoding.pcieConfigWrite (fn reg v : Nat) : Encoding.Statement (.pcieConfigWrite fn reg v) := Encoding.of_event _ rfl
theorem Encoding.vectorUnmask (vec : Nat) : Encoding.Statement (.vectorUnmask vec) := Encoding.of_event _ rfl
theorem Encoding.powerCapWrite (w : Nat) : Encoding.Statement (.powerCapWrite w) := Encoding.of_event _ rfl
theorem Encoding.l2WayRepair (die way : Nat) : Encoding.Statement (.l2WayRepair die way) := Encoding.of_event _ rfl

end Sys2Proof.Laws
end

