-- ==== Sys2Proof/Laws/Registers.lean ====
section
/-!
SUPPORT. Trees of class-A operations alone: their lanes ask for nothing of memory, so the issue is accepted as soon as it goes, and what it commits are registers.
-/

namespace Sys2Proof.Machine

/-- Is every operation of a tree of class A (R71)? -/
def classAOnly (t : Tree) : Bool := t.ops.all (fun o => decide (opClass o.opc.toNat = .A))

theorem LRun.write_req (r : LRun) (sel : Nat) (wide : Bool) (x : Nat) (sh : Bool) : (r.write sel wide x sh).req = r.req := by
  unfold LRun.write
  dsimp only
  split <;> split <;> rfl

theorem LRun.write_lane (r : LRun) (sel : Nat) (wide : Bool) (x : Nat) (sh : Bool) : (r.write sel wide x sh).lane = r.lane := by
  unfold LRun.write
  dsimp only
  split <;> split <;> rfl

/-- What a step of a lane's path keeps: the lane, and that nothing is asked. -/
def LRun.Keeps (r r' : LRun) : Prop := r'.lane = r.lane ∧ r'.req = r.req

theorem LRun.Keeps.refl (r : LRun) : LRun.Keeps r r := ⟨rfl, rfl⟩
theorem LRun.Keeps.trans {a b c : LRun} (h : LRun.Keeps a b) (k : LRun.Keeps b c) : LRun.Keeps a c := ⟨k.1.trans h.1, k.2.trans h.2⟩

theorem Env.runOp_keeps (e : Env) (draw : Nat) (r : LRun) (i : Nat) (o : Op) (h : opClass o.opc.toNat = .A) : LRun.Keeps r (e.runOp draw r i o) := by
  unfold Env.runOp
  split
  · exact .refl r
  split
  · exact .refl r
  split
  · exact ⟨rfl, rfl⟩
  split
  · exact ⟨rfl, rfl⟩
  · exact ⟨LRun.write_lane _ _ _ _ _, LRun.write_req _ _ _ _ _⟩

theorem Env.runArc_keeps (e : Env) (draw : Nat) (t : Tree) (h : classAOnly t = true) (r : LRun) (k : Nat) : LRun.Keeps r (e.runArc draw t r k) := by
  unfold Env.runArc
  have hm : ∀ x ∈ t.arcOps k, opClass x.2.opc.toNat = .A := by
    intro x hx
    have : x.2 ∈ t.ops := by
      unfold Tree.arcOps at hx
      obtain ⟨y, hy, he⟩ := List.mem_filterMap.mp hx
      obtain ⟨o, i⟩ := y
      dsimp only at he
      split at he
      · injection he with he
        rw [← he]
        exact List.fst_mem_of_mem_zipIdx hy
      · exact absurd he (by simp)
    have := List.all_eq_true.mp h x.2 this
    simpa using this
  have : ∀ (l : List (Nat × Op)) (r : LRun), (∀ x ∈ l, opClass x.2.opc.toNat = .A) → LRun.Keeps r (l.foldl (fun r (x : Nat × Op) => e.runOp draw r x.1 x.2) r) := by
    intro l
    induction l with
    | nil => intro r _; exact .refl r
    | cons x l ih =>
      intro r hx
      exact (e.runOp_keeps draw r x.1 x.2 (hx x (List.mem_cons_self ..))).trans (ih _ (fun y hy => hx y (List.mem_cons_of_mem _ hy)))
  exact this _ r hm

theorem Env.runLeaf_keeps (e : Env) (draw : Nat) (t : Tree) (r : LRun) (l : Leaf) : LRun.Keeps r (e.runLeaf draw t r l) := by
  unfold Env.runLeaf
  dsimp only
  split
  · exact .refl r
  · split
    · exact ⟨rfl, rfl⟩
    · exact ⟨rfl, rfl⟩
    · split <;> exact ⟨rfl, rfl⟩
    · exact ⟨LRun.write_lane _ _ _ _ _, LRun.write_req _ _ _ _ _⟩
    · split
      · exact ⟨rfl, rfl⟩
      · exact ⟨LRun.write_lane _ _ _ _ _, LRun.write_req _ _ _ _ _⟩
    · exact ⟨rfl, rfl⟩
    · exact ⟨rfl, rfl⟩
    · exact ⟨rfl, rfl⟩

theorem Env.descend_keeps (e : Env) (draw : Nat) (t : Tree) (h : classAOnly t = true) : ∀ (n p : Nat) (r : LRun), LRun.Keeps r (e.descend draw t n p r)
  | 0, _, r => .refl r
  | n + 1, p, r => by
    unfold Env.descend
    split
    · exact .refl r
    split
    · split
      · exact e.runLeaf_keeps draw t r _
      · exact .refl r
    · split
      · exact ⟨rfl, rfl⟩
      · exact (e.runArc_keeps draw t h r _).trans (e.descend_keeps draw t h n _ _)

/-- A lane of a tree of class-A operations asks for nothing. -/
theorem Env.run_keeps (e : Env) (draw : Nat) (t : Tree) (h : classAOnly t = true) (i : Nat) : (e.run draw t i).lane = i ∧ (e.run draw t i).req = none :=
  (e.runArc_keeps draw t h _ 0).trans (e.descend_keeps draw t h 4 1 _)

theorem checks_of_no_req (s : State) (e : Env) (t : Tree) (h : ∀ r ∈ e.runs s.draw t, r.req = none) : s.checks e t = [] := by
  unfold State.checks checkAll
  rw [List.flatMap_eq_nil_iff]
  intro k _
  have : (e.runs s.draw t).filter (fun r => (r.req.map (·.idx)) == some k) = [] := by
    rw [List.filter_eq_nil_iff]
    intro r hr
    rw [h r hr]
    simp
  rw [this]
  rfl

theorem runs_no_req (e : Env) (draw : Nat) (t : Tree) (h : classAOnly t = true) : ∀ r ∈ e.runs draw t, r.req = none := by
  intro r hr
  obtain ⟨i, _, rfl⟩ := List.mem_map.mp hr
  exact (e.run_keeps draw t h i).2

theorem asked_classA (s : State) (t : Tree) (e : Env) (h : classAOnly t = true) : ∀ ms ∈ Safety.asked s t e, ms = [] := by
  intro ms hm
  unfold Safety.asked opAccesses at hm
  rw [checks_of_no_req s e t (runs_no_req e s.draw t h)] at hm
  obtain ⟨k, _, rfl⟩ := List.mem_map.mp hm
  rfl

theorem flatMap_of_nils {α β : Type} (ops : List (List α)) (f : List α → List β) (hf : f [] = []) (h : ∀ ms ∈ ops, ms = []) : ops.flatMap f = [] := by
  rw [List.flatMap_eq_nil_iff]
  intro ms hm
  rw [h ms hm, hf]

theorem relScope_of_nils (ops : List (List MAcc)) (h : ∀ ms ∈ ops, ms = []) : relScope ops = none := by
  unfold relScope
  dsimp only
  rw [flatMap_of_nils ops _ rfl h]
  rfl

theorem postRoom_of_nils (e : Env) (ops : List (List MAcc)) (h : ∀ ms ∈ ops, ms = []) : postRoom e ops = true := by
  have h1 : ops.filter (fun ms => ms.any (fun m => m.q.k == .cpy1d || m.q.k == .cpyE)) = [] := by
    rw [List.filter_eq_nil_iff]
    intro ms hm
    rw [h ms hm]
    simp
  have h2 : (ops.map (fun ms => (putPairs (ms.filter (fun m => m.q.k == .bput))).length)).foldl (· + ·) 0 = 0 := by
    have : ∀ l : List (List MAcc), (∀ ms ∈ l, ms = []) → (l.map (fun ms => (putPairs (ms.filter (fun m => m.q.k == .bput))).length)).foldl (· + ·) 0 = 0 := by
      intro l
      induction l with
      | nil => intro _; rfl
      | cons a l ih =>
        intro hl
        rw [hl a (List.mem_cons_self ..)]
        simpa [putPairs] using ih (fun ms hm => hl ms (List.mem_cons_of_mem _ hm))
    exact this ops h
  unfold postRoom
  dsimp only
  rw [h1, h2]
  rfl

theorem atomicOrders_of_nils (s : State) (e : Env) (ops : List (List MAcc)) (h : ∀ ms ∈ ops, ms = []) : atomicOrders s e ops = s := by
  unfold atomicOrders
  have : ops.any (fun ms => ms.any (fun m => (m.q.k == .atms || m.q.k == .atmg) && atomAcq m.q && (decide (atomScope m.q ≥ 2) || e.team.twin))) = false := by
    rw [List.any_eq_false]
    intro ms hm
    rw [h ms hm]
    simp
  rw [this]
  rfl

/-- The class of an opcode is that of its number (R71, R74). -/
theorem opcode_class (n v : Nat) (k : Opcode) (h : Opcode.ofByte n v = some k) : opClass n = opClass k.byte := by
  unfold Opcode.ofByte at h
  split at h <;> first
    | (injection h with h; subst h; rfl)
    | (split at h <;> first | (injection h with h; subst h; rfl) | exact absurd h (by simp))
    | exact absurd h (by simp)

/-- No operation of a tree of class-A operations is picked by a test that no class-A opcode passes. -/
theorem pickOps_classA (t : Tree) (ops : List (List MAcc)) (p : Opcode → Bool) (hc : classAOnly t = true) (hp : ∀ k, opClass k.byte = .A → p k = false) :
    pickOps t ops p = [] := by
  unfold pickOps
  rw [List.filterMap_eq_nil_iff]
  intro x _
  cases hk : treeOp t x.2 with
  | none => rfl
  | some k =>
    have : opClass k.byte = .A := by
      unfold treeOp at hk
      obtain ⟨o, ho, hk⟩ := Option.bind_eq_some_iff.mp hk
      rw [← opcode_class _ _ _ hk]
      simpa using List.all_eq_true.mp hc o (List.mem_of_getElem? ho)
    rw [Option.bind_some, hp k this]
    rfl

/-- The commit of no accesses of a class-A operation does nothing. -/
theorem postCommit_classA (s : State) (e : Env) (k : Opcode) (h : opClass k.byte = .A) : postCommit s e k [] = s := by
  cases k <;> first | rfl | exact absurd h (by decide)

/-- The operations that a test picks from a tree of class-A operations without accesses act on nothing. -/
theorem foldl_pickOps_classA (s : State) (e : Env) (t : Tree) (ops : List (List MAcc)) (p : Opcode → Bool) (hc : classAOnly t = true) (h : ∀ ms ∈ ops, ms = []) :
    (pickOps t ops p).foldl (fun a x => postCommit a e x.1 x.2) s = s := by
  have step : ∀ (l : List (Opcode × List MAcc)) (a : State), (∀ x ∈ l, opClass x.1.byte = .A ∧ x.2 = []) → l.foldl (fun a x => postCommit a e x.1 x.2) a = a := by
    intro l
    induction l with
    | nil => intro a _; rfl
    | cons x l ih =>
      intro a hl
      have hx := hl x (List.mem_cons_self ..)
      rw [List.foldl_cons, hx.2, postCommit_classA a e x.1 hx.1]
      exact ih a (fun y hy => hl y (List.mem_cons_of_mem _ hy))
  apply step
  intro x hx
  unfold pickOps at hx
  obtain ⟨y, hy, hxy⟩ := List.mem_filterMap.mp hx
  obtain ⟨k, hk, hkx⟩ := Option.bind_eq_some_iff.mp hxy
  split at hkx
  · injection hkx with hkx
    subst hkx
    refine ⟨?_, h _ (List.fst_mem_of_mem_zipIdx hy)⟩
    unfold treeOp at hk
    obtain ⟨o, ho, hk⟩ := Option.bind_eq_some_iff.mp hk
    rw [← opcode_class _ _ _ hk]
    simpa using List.all_eq_true.mp hc o (List.mem_of_getElem? ho)
  · exact absurd hkx (by simp)

theorem commitOps_of_nils (s : State) (e : Env) (t : Tree) (ops : List (List MAcc)) (hc : classAOnly t = true) (h : ∀ ms ∈ ops, ms = []) : s.commitOps e t ops = s := by
  unfold State.commitOps
  dsimp only
  rw [pickOps_classA t ops Opcode.laneWise hc (by intro k hk; cases k <;> first | rfl | exact absurd hk (by decide)),
    pickOps_classA t ops Opcode.reads hc (by intro k hk; cases k <;> first | rfl | exact absurd hk (by decide)), foldl_pickOps_classA _ e t ops _ hc h]
  have : byLane ([] : List MAcc) = [] := by unfold byLane; simp
  simp [this]

theorem withStatus_of_nils (r : LRun) (ops : List (List MAcc)) (h : ∀ ms ∈ ops, ms = []) : r.withStatus ops = r := by
  have : ops.flatten = [] := List.flatten_eq_nil_iff.mpr h
  unfold LRun.withStatus
  rw [this]
  rfl

theorem ldsScalars_of_nils (ops : List (List MAcc)) (h : ∀ ms ∈ ops, ms = []) : ldsScalars ops = [] := by
  unfold ldsScalars
  rw [List.flatten_eq_nil_iff.mpr h]
  rfl

/-- The state of a commit of registers alone. -/
def State.writes (s : State) (e : Env) (t : Tree) : State :=
  ((((s.drawn e).commitLanes e (e.runs s.draw t)).commitScalars e (e.runs s.draw t) []).dropWalks e.core e.team.ctx).issued e

/-- THE ISSUE OF CLASS-A OPERATIONS (R75, R77): the registers are written, and the wave's groups move on. -/
theorem issueTree_classA (s : State) (t : Tree) (e : Env) (hi : s.issuing t = some e) (hg : Safety.goes s t e = true) (hc : classAOnly t = true) :
    ∃ f : Wave → Wave, (∀ w, (s.writes e t).wave? e.loc.team e.loc.wave = some w → w.Moves (f w)) ∧
      issueTree t s = (s.writes e t).modWave e.loc.team e.loc.wave f := by
  have hn := asked_classA s t e hc
  have hr := relScope_of_nils _ hn
  have hb : Safety.before s t e = s.drawn e := by unfold Safety.before State.released; rw [hr]
  have hl : treeLoads t = false := by
    unfold treeLoads
    rw [List.any_eq_false]
    intro o ho
    have hA : opClass o.opc.toNat = .A := by simpa using List.all_eq_true.mp hc o ho
    cases hk : Opcode.ofByte o.opc.toNat o.p.v with
    | none => simp
    | some k =>
      rw [opcode_class _ _ _ hk] at hA
      cases k <;> first | exact Bool.false_ne_true | exact absurd hA (by decide)
  have ha : Safety.accepted s t e = true := by
    unfold Safety.accepted State.issueWait
    rw [hg, hl, checks_of_no_req s e t (runs_no_req e s.draw t hc), postRoom_of_nils _ _ hn,
      pickOps_classA t _ (fun k => k == .ldg) hc (by intro k hk; cases k <;> first | rfl | exact absurd hk (by decide))]
    unfold State.relOpen
    rw [hr]
    rfl
  obtain ⟨_, _, hf, hx⟩ := goes_clean hg
  rw [issueTree_accepted s t e hi ha, hb]
  obtain ⟨f, h1, h2⟩ := (s.drawn e).commitTree_stays e t (Safety.asked s t e) (e.runs s.draw t) (lanes_ne_nil_of_handler e s.draw t) hf hx
  have hs : (s.drawn e).committed e t (Safety.asked s t e) (e.runs s.draw t) = s.writes e t := by
    unfold State.committed State.writes
    dsimp only
    have hw : (e.runs s.draw t).map (fun r => r.withStatus (Safety.asked s t e)) = e.runs s.draw t := by
      refine Eq.trans (List.map_congr_left (g := id) (fun r _ => withStatus_of_nils r _ hn)) (List.map_id _)
    rw [hw, commitOps_of_nils _ _ _ _ hc hn, ldsScalars_of_nils _ hn, atomicOrders_of_nils _ _ _ hn]
    rfl
  rw [hs] at h1 h2
  exact ⟨f, h1, h2⟩

/-! ## The registers after an issue -/

/-- The lane of a wave at a place. -/
def Wave.laneAt (w : Wave) (h : Bool) (j : Nat) : Option Lane := if h then (if j = 0 then w.handler.map (·.lane) else none) else w.lanes[j]?

theorem laneAt_eq (s : State) (l : Loc) (j : Nat) : Safety.laneAt s l j = (s.wave? l.team l.wave).bind (fun w => w.laneAt l.handler j) := rfl

theorem Wave.Moves.laneAt {w w' : Wave} (m : w.Moves w') (h : Bool) (j : Nat) : w'.laneAt h j = w.laneAt h j := by
  unfold Wave.laneAt
  have h1 : w'.handler.map (·.lane) = w.handler.map (·.lane) := by
    have := congrArg (Option.map Prod.fst) m.2
    simpa [Option.map_map, Function.comp_def] using this
  rw [h1, m.lanes]

theorem Wave.laneAt_modLane (w : Wave) (h : Bool) (i j : Nat) (f : Lane → Lane) (hz : h = true → i = 0) :
    (w.modLane h i f).laneAt h j = if j = i then (w.laneAt h j).map f else w.laneAt h j := by
  unfold Wave.modLane Wave.laneAt
  cases h with
  | true =>
    have := hz rfl
    subst this
    by_cases hj : j = 0
    · subst hj; cases w.handler <;> rfl
    · simp [hj]
  | false =>
    simp only [Bool.false_eq_true, if_false, modNth, List.getElem?_modify]
    by_cases hj : j = i
    · subst hj; simp
    · simp [hj, Ne.symm hj]

/-- A lane after the lanes of a commit were written. -/
theorem Wave.laneAt_commit (h : Bool) (j : Nat) : ∀ (runs : List LRun) (w : Wave), (h = true → ∀ r ∈ runs, r.lane = 0) → (runs.map (·.lane)).Nodup →
    (w.takeLanes h runs).laneAt h j =
      match runs.find? (fun r => r.lane == j) with
      | some r => (w.laneAt h j).map (fun _ => r.l)
      | none => w.laneAt h j
  | [], _, _, _ => rfl
  | r :: l, w, hz, hd => by
    rw [List.map_cons, List.nodup_cons] at hd
    unfold Wave.takeLanes
    rw [List.foldl_cons]
    show (Wave.takeLanes _ h l).laneAt h j = _
    rw [Wave.laneAt_commit h j l _ (fun hh x hx => hz hh x (List.mem_cons_of_mem _ hx)) hd.2,
      w.laneAt_modLane h r.lane j (fun _ => r.l) (fun hh => hz hh r (List.mem_cons_self ..))]
    by_cases hj : r.lane = j
    · have : l.find? (fun r => r.lane == j) = none := by
        rw [List.find?_eq_none]
        intro x hx hxe
        apply hd.1
        rw [List.mem_map]
        exact ⟨x, hx, by simp at hxe; omega⟩
      rw [this, List.find?_cons_of_pos (by simp [hj])]
      simp [hj]
    · rw [List.find?_cons_of_neg (by simp [hj])]
      simp [Ne.symm hj]

theorem maskLanes_nodup (w : Nat) (m : DWord) : (maskLanes w m).Nodup := List.Pairwise.filter _ List.nodup_range

theorem runs_lane (e : Env) (draw : Nat) (t : Tree) (h : classAOnly t = true) : (e.runs draw t).map (·.lane) = e.lanes := by
  unfold Env.runs
  rw [List.map_map]
  exact (List.map_congr_left (g := id) (fun i _ => (e.run_keeps draw t h i).1)).trans (List.map_id _)

theorem lanes_nodup (e : Env) : e.lanes.Nodup := by
  unfold Env.lanes
  split
  · simp
  · exact maskLanes_nodup _ _

/-- What an update of the state keeps of the lanes of a place. -/
theorem laneAt_modWave (s : State) (l : Loc) (j : Nat) (f : Wave → Wave) :
    Safety.laneAt (s.modWave l.team l.wave f) l j = (s.wave? l.team l.wave).bind (fun w => (f w).laneAt l.handler j) := by
  rw [laneAt_eq, s.wave?_modWave]
  cases s.wave? l.team l.wave <;> rfl

theorem State.foldl_teams {α : Type} (f : State → α → State) (hf : ∀ a x, (f a x).teams = a.teams) : ∀ (l : List α) (s : State), (l.foldl f s).teams = s.teams := by
  intro l
  induction l with
  | nil => intro s; rfl
  | cons x l ih => intro s; rw [List.foldl_cons, ih, hf]

@[simp] theorem State.firmStore_teams (s : State) (pa : Nat) (bs : List Byte) : (s.firmStore pa bs).teams = s.teams := by
  unfold State.firmStore
  split
  · rfl
  · refine (State.foldl_teams _ (fun a x => ?_) _ _).trans rfl
    split <;> rfl

@[simp] theorem State.errPut_teams (s : State) : s.errPut.teams = s.teams := by
  unfold State.errPut
  split <;> simp

@[simp] theorem State.logError_teams (s : State) (r : LogRec) : (s.logError r).teams = s.teams := by
  unfold State.logError
  dsimp only
  split
  · split <;> simp
  · simp

theorem State.issued_waves (s : State) (e : Env) : ∃ s1 : State, s1.teams = s.teams ∧ s.issued e = s1.modWave e.loc.team e.loc.wave (fun w => { w with lastIssue := e.cyc }) := by
  unfold State.issued
  dsimp only
  refine ⟨_, ?_, rfl⟩
  split
  · rw [State.logError_teams]
    rfl
  · rfl

theorem wave?_of_teams (s s' : State) (h : s'.teams = s.teams) (t w : Nat) : s'.wave? t w = s.wave? t w := by
  unfold State.wave? State.team?
  rw [h]

theorem State.wave?_issued (s : State) (e : Env) :
    (s.issued e).wave? e.loc.team e.loc.wave = (s.wave? e.loc.team e.loc.wave).map (fun w => { w with lastIssue := e.cyc }) := by
  obtain ⟨s1, h1, h2⟩ := s.issued_waves e
  rw [h2, s1.wave?_modWave, wave?_of_teams s s1 h1]

theorem State.wave?_commitLanes (s : State) (e : Env) (runs : List LRun) :
    (s.commitLanes e runs).wave? e.loc.team e.loc.wave = (s.wave? e.loc.team e.loc.wave).map (fun w => w.takeLanes e.loc.handler runs) := by
  unfold State.commitLanes
  rw [← s.wave?_modWave]
  unfold State.wave?
  rw [State.team?_modTeam _ _ _ _ (by intro x; rfl)]
  cases (s.modWave e.loc.team e.loc.wave fun w => w.takeLanes e.loc.handler runs).team? e.loc.team <;> simp

theorem State.wave?_drawn (s : State) (e : Env) (t w : Nat) : (s.drawn e).wave? t w = s.wave? t w := by
  unfold State.drawn
  split <;> rfl

@[simp] theorem State.dropWalks_teams (s : State) (core ctx : Nat) : (s.dropWalks core ctx).teams = s.teams := rfl

/-- The wave after its lanes and scalars were written and it issued. -/
theorem writes_wave (s : State) (e : Env) (t : Tree) :
    (s.writes e t).wave? e.loc.team e.loc.wave = (s.wave? e.loc.team e.loc.wave).map (fun w =>
      { (w.takeLanes e.loc.handler (e.runs s.draw t)).takeScalars e.loc.handler (e.runs s.draw t) [] with lastIssue := e.cyc }) := by
  unfold State.writes
  rw [State.wave?_issued, wave?_of_teams _ _ (State.dropWalks_teams _ _ _)]
  unfold State.commitScalars
  rw [State.wave?_modWave, State.wave?_commitLanes, State.wave?_drawn]
  simp [Option.map_map, Function.comp_def]

theorem Wave.laneAt_takeScalars (w : Wave) (h : Bool) (runs : List LRun) (lds : List (Nat × Nat)) (j : Nat) : (w.takeScalars h runs lds).laneAt h j = w.laneAt h j := by
  unfold Wave.takeScalars Wave.laneAt
  cases h with
  | true => simp [Option.map_map, Function.comp_def]
  | false => rfl

/-- THE LANES AFTER CLASS-A OPERATIONS (R77): each lane of the group holds what its path left, every other lane what it held. -/
theorem laneAt_classA (s : State) (t : Tree) (e : Env) (hi : s.issuing t = some e) (hg : Safety.goes s t e = true) (hc : classAOnly t = true) (j : Nat) :
    Safety.laneAt (issueTree t s) e.loc j =
      if j ∈ e.lanes then (Safety.laneAt s e.loc j).map (fun _ => (e.run s.draw t j).l) else Safety.laneAt s e.loc j := by
  obtain ⟨f, h1, h2⟩ := issueTree_classA s t e hi hg hc
  have hz : e.loc.handler = true → ∀ r ∈ e.runs s.draw t, r.lane = 0 := by
    intro hh r hr
    obtain ⟨i, hi, rfl⟩ := List.mem_map.mp hr
    rw [(e.run_keeps s.draw t hc i).1]
    unfold Env.lanes at hi
    simpa [hh] using hi
  have hfind : (e.runs s.draw t).find? (fun r => r.lane == j) = if j ∈ e.lanes then some (e.run s.draw t j) else none := by
    unfold Env.runs
    have : ∀ l : List Nat, (l.map (fun i => e.run s.draw t i)).find? (fun r => r.lane == j) = if j ∈ l then some (e.run s.draw t j) else none := by
      intro l
      induction l with
      | nil => rfl
      | cons i l ih =>
        rw [List.map_cons]
        by_cases h : i = j
        · subst h
          rw [List.find?_cons_of_pos (by simp [(e.run_keeps s.draw t hc i).1])]
          simp
        · rw [List.find?_cons_of_neg (by simp [(e.run_keeps s.draw t hc i).1, h]), ih]
          simp [Ne.symm h]
    exact this _
  rw [h2, laneAt_modWave]
  rw [writes_wave] at h1 ⊢
  rw [laneAt_eq]
  cases hw : s.wave? e.loc.team e.loc.wave with
  | none => simp
  | some w =>
    rw [hw] at h1
    simp only [Option.map_some, Option.bind_some] at h1 ⊢
    rw [(h1 _ rfl).laneAt]
    have : ∀ v : Wave, ({ v with lastIssue := e.cyc } : Wave).laneAt e.loc.handler j = v.laneAt e.loc.handler j := fun _ => rfl
    rw [this, Wave.laneAt_takeScalars, Wave.laneAt_commit _ _ _ _ hz (by rw [runs_lane e s.draw t hc]; exact lanes_nodup e), hfind]
    by_cases hj : j ∈ e.lanes <;> simp [hj]

end Sys2Proof.Machine
end

