-- ==== Sys2Proof/Tests/Slice0.lean ====
section
/-!
SUPPORT. Tests: words of the encodings of the spec and what they decode to, ill-formed instructions, single steps with results taken from the spec's rules, and for every statement
of the certificates states and operands that meet its hypotheses.
-/

namespace Sys2Proof.Tests

set_option Elab.async false

open Sys2Proof Sys2Proof.Machine Sys2Proof.Safety Sys2Proof.Claims

/-! ## Small states -/

/-- A row's head: the leaf goes to the next instruction, no STALL, no literal. -/
def nx : Head := ⟨0, false, ⟨.next, 0, 0⟩, []⟩

/-- A payload from VAR, D, A, B, C and the field P[14:5]. -/
def pl (v d a b c m : Nat) : Payload :=
  ⟨0, BitVec.ofNat 3 v, BitVec.ofNat 8 d, BitVec.ofNat 8 a, BitVec.ofNat 8 b, BitVec.ofNat 8 c, BitVec.ofNat 10 m, false, false, false⟩

/-- A lane whose main registers are full and hold the values given. -/
def laneOf (l : List Nat) : Lane := { v := l.map (fun x => ⟨BitVec.ofNat 32 x, false, 0⟩) }

/-- A READY group of lanes at an address. -/
def groupOf (mask pc : Nat) : Group := { mask := BitVec.ofNat 64 mask, pc := BitVec.ofNat 64 pc, st := .ready }

/-- Wave 0 of a team, 16 wide, with the lanes and groups given. -/
def waveOf (lanes : List Lane) (gs : List Group) : Wave :=
  { idx := 0, half := 0, quad := 0, width := 16, active := fullMask lanes.length, lanes := lanes, slots := gs ++ List.replicate (72 - gs.length) {} }

/-- A half on core 0 with four bands. -/
def half0 : Half := { core := 0, bands := List.replicate 4 {} }

/-- Team 1 of context 0 and launch 1 with 4 KiB of scratchpad. -/
def teamOf (ws : List Wave) (hs : List Half) : Team :=
  { id := 1, ctx := 0, serial := 1, prio := 0, t := 0, xyz := (0, 0, 0), grid := (1, 1, 1), teamsz := 2, width := 16, alloc := 16, bandsN := 4, scrSize := 4096
    twin := false, unpark := false, waves := ws, halves := hs }

/-- A module with one core, one context, one queue and the teams given; the group in slot 0 of wave 0 of team 1 is the one that issues. -/
def world (ts : List Team) : State :=
  { teams := ts, pools := [⟨0, 0, 0, 0, 0x1000000000⟩], mid := 3, mx := {}, cores := [{}], ctxs := [{ reg := true }], queues := [{}], msets := [0], msetLen := [0]
    cur := some ⟨1, 0, 0, false⟩, nextId := 5, seqNo := 1 }

/-- Two lanes with the registers given, in one group, in one wave of one team. -/
def two (a b : List Nat) (h : Half) : State := world [teamOf [waveOf [laneOf a, laneOf b] [groupOf 3 0x1000]] [h]]

/-- A page of plain device memory that stands for itself, as a translation of core 0. -/
def page0 : Page := { va := 0, pa := 0, size := 0x200000, w := true, x := false, kind := 0, plc := 0, die := 0, stk := 0, cgr := 0, fmt := 0, mset := 0 }

/-- The state with pages 0 and 1 of context 0 in the TLB of core 0, as `page0` with another kind. -/
def mapped (k : Nat) (s : State) : State := s.modCore 0 (fun c => { c with tlb := [⟨0, 0, .page { page0 with kind := k }⟩, ⟨0, 1, .page { page0 with kind := k }⟩] })

/-- The surroundings of the group that issues. -/
def envOf (s : State) (t : Tree) : Env :=
  match s.issuing t with
  | some e => e
  | none => ⟨⟨0, 0, 0, false⟩, teamOf [] [], waveOf [] [], {}, 0, 0, DecodeCtx.max, false, []⟩

/-- The group issues, by evaluation. -/
theorem goes_of {i : Instr} {t : Tree} {s : State} (h : i.tree? = some t) (o : Instr.ofTree t = i) (g : (s.issuing t).isSome = true) (r : goes s t (envOf s t) = true) : Goes i t s (envOf s t) := by
  obtain ⟨e, he⟩ := Option.isSome_iff_exists.mp g
  exact ⟨h, o, by simp [envOf, he], r⟩

/-- The issue is accepted, by evaluation. -/
theorem accepted_of {i : Instr} {t : Tree} {s : State} (h : i.tree? = some t) (o : Instr.ofTree t = i) (g : (s.issuing t).isSome = true) (r : accepted s t (envOf s t) = true) :
    Accepted i t s (envOf s t) := by
  obtain ⟨e, he⟩ := Option.isSome_iff_exists.mp g
  exact ⟨h, o, by simp [envOf, he], r⟩


/-! ## Words and what they decode to -/

/-- Integer: words written out from R55, R63, R68 and the map of R74. -/
theorem test_decode_integer : [
    ([0b1_000_0101_0000000_0001_000_0_000000000, 0b0_00000000_00000000_0000000000_000_00, 0b0_0000_00000001_000_00000011_00000001, 0b0_000_0000_000000000000000000000000],
      .mov ⟨5, false, ⟨.next, 0, 0⟩, []⟩ ⟨0, 0, 0x03, 0x01, 0x00, 0x00, 0x0, false, false, false⟩),
    ([0b1_000_0000_0000000_0001_000_0_000000000, 0b0_00000010_00000000_0010001000_000_00, 0b0_0000_00000010_000_00000011_00000001, 0b0_001_0000_111111111111111111111110],
      .add ⟨0, false, ⟨.branch, 0, 16777214⟩, []⟩ ⟨0, 0, 0x03, 0x01, 0x02, 0x00, 0x88, false, false, false⟩),
    ([0b1_000_0000_0000000_0001_000_0_000000000, 0b0_00000010_00000000_0000000000_100_00, 0b0_0000_00000011_001_00000011_00000001, 0b0_000_0000_000000000000000000000000],
      .sub ⟨0, false, ⟨.next, 0, 0⟩, []⟩ ⟨0, 1, 0x03, 0x01, 0x02, 0x00, 0x0, true, false, false⟩),
    ([0b1_000_0000_0000000_0001_000_0_000000000, 0b0_00001000_00000000_0000000000_000_00, 0b0_0000_00000100_010_00000100_00000110, 0b0_000_0000_000000000000000000000000],
      .mul ⟨0, false, ⟨.next, 0, 0⟩, []⟩ ⟨0, 2, 0x04, 0x06, 0x08, 0x00, 0x0, false, false, false⟩),
    ([0b1_000_0000_0000000_0001_000_0_000000000, 0b0_00000010_00000000_0000000000_000_00, 0b0_0000_00000101_000_00000011_00000001, 0b0_000_0000_000000000000000000000000],
      .mulhi ⟨0, false, ⟨.next, 0, 0⟩, []⟩ ⟨0, 0, 0x03, 0x01, 0x02, 0x00, 0x0, false, false, false⟩),
    ([0b1_000_0000_0000000_0001_000_0_000000000, 0b0_00000010_00000100_0000000000_001_00, 0b0_0000_00000110_000_00000011_00000001, 0b0_000_0000_000000000000000000000000],
      .mad ⟨0, false, ⟨.next, 0, 0⟩, []⟩ ⟨0, 0, 0x03, 0x01, 0x02, 0x04, 0x0, false, false, true⟩),
    ([0b1_000_0000_0000000_0001_000_1_000000000, 0b0_00000010_00000000_0000000000_000_00, 0b0_0000_00000111_001_00000011_00000001, 0b0_000_0000_000000000000000000000000],
      .div ⟨0, true, ⟨.next, 0, 0⟩, []⟩ ⟨0, 1, 0x03, 0x01, 0x02, 0x00, 0x0, false, false, false⟩),
    ([0b1_000_0000_0000000_0001_000_0_000000000, 0b0_00000010_00000000_0000000000_000_00, 0b0_0000_00001000_000_11000011_00000001, 0b0_000_0000_000000000000000000000000],
      .rem ⟨0, false, ⟨.next, 0, 0⟩, []⟩ ⟨0, 0, 0xC3, 0x01, 0x02, 0x00, 0x0, false, false, false⟩),
    ([0b1_000_0000_0000000_0001_000_0_000000000, 0b0_11010011_00000000_0000000000_000_00, 0b0_0000_00001001_000_11100101_00000001, 0b0_000_0000_000000000000000000000000],
      .min ⟨0, false, ⟨.next, 0, 0⟩, []⟩ ⟨0, 0, 0xE5, 0x01, 0xD3, 0x00, 0x0, false, false, false⟩),
    ([0b1_000_0000_0000000_0001_000_0_000000000, 0b0_00001000_00000000_0000000000_000_00, 0b0_0000_00001010_011_00000100_00000110, 0b0_000_0000_000000000000000000000000],
      .max ⟨0, false, ⟨.next, 0, 0⟩, []⟩ ⟨0, 3, 0x04, 0x06, 0x08, 0x00, 0x0, false, false, false⟩),
    ([0b1_000_0000_0000000_0001_000_0_000000000, 0b0_00000010_00000000_0000000000_000_00, 0b0_0000_00001011_000_00000011_00000001, 0b0_110_0000_000000000000000000000000],
      .addSat ⟨0, false, ⟨.exit, 0, 0⟩, []⟩ ⟨0, 0, 0x03, 0x01, 0x02, 0x00, 0x0, false, false, false⟩),
    ([0b1_000_0000_0000000_0001_000_0_000000000, 0b0_00000010_00000000_0000000000_000_00, 0b0_0000_00001100_000_00000011_00000001, 0b0_101_0000_000000000000000000000000],
      .subSat ⟨0, false, ⟨.ret, 0, 0⟩, []⟩ ⟨0, 0, 0x03, 0x01, 0x02, 0x00, 0x0, false, false, false⟩),
    ([0b1_000_0000_0000000_0001_000_0_000000000, 0b0_00000001_00000101_0000000000_000_00, 0b0_0000_00001101_010_00000100_00000110, 0b0_000_0000_000000000000000000000000],
      .lea ⟨0, false, ⟨.next, 0, 0⟩, []⟩ ⟨0, 2, 0x04, 0x06, 0x01, 0x05, 0x0, false, false, false⟩),
    ([0b1_000_0000_0000000_0001_000_0_000000000, 0b0_00000010_00000100_0000000000_000_00, 0b0_0000_00001110_001_00000011_00000001, 0b0_000_0000_000000000000000000000000],
      .prmt ⟨0, false, ⟨.next, 0, 0⟩, []⟩ ⟨0, 1, 0x03, 0x01, 0x02, 0x04, 0x0, false, false, false⟩),
    ([0b1_000_0000_0000000_0001_000_0_000000000, 0b0_00000010_00000100_0000000000_000_00, 0b0_0000_00001111_000_00000011_00000001, 0b0_000_0000_000000000000000000000000],
      .sel ⟨0, false, ⟨.next, 0, 0⟩, []⟩ ⟨0, 0, 0x03, 0x01, 0x02, 0x04, 0x0, false, false, false⟩)
  ].all (fun x : List Word × Instr => decide (decode DecodeCtx.max x.1 = .instr x.2)) = true := by decide

/-- Bits: words written out from R55, R63, R68 and the map of R74. -/
theorem test_decode_bits : [
    ([0b1_000_0000_0000000_0001_000_0_000000000, 0b0_00000010_00000000_0000000000_000_00, 0b0_0000_00010000_001_00000011_00000001, 0b0_000_0000_000000000000000000000000],
      .and ⟨0, false, ⟨.next, 0, 0⟩, []⟩ ⟨0, 1, 0x03, 0x01, 0x02, 0x00, 0x0, false, false, false⟩),
    ([0b1_000_0000_0000000_0001_000_0_000000000, 0b0_00000010_00000000_0000000000_000_00, 0b0_0000_00010001_001_00000011_00000001, 0b0_000_0000_000000000000000000000000],
      .or ⟨0, false, ⟨.next, 0, 0⟩, []⟩ ⟨0, 1, 0x03, 0x01, 0x02, 0x00, 0x0, false, false, false⟩),
    ([0b1_000_0000_0000000_0001_000_0_000000000, 0b0_00000010_00000000_0000000000_000_00, 0b0_0000_00010010_001_00000011_00000001, 0b0_000_0000_000000000000000000000000],
      .xor ⟨0, false, ⟨.next, 0, 0⟩, []⟩ ⟨0, 1, 0x03, 0x01, 0x02, 0x00, 0x0, false, false, false⟩),
    ([0b1_000_0000_0000000_0001_000_0_000000000, 0b0_00000010_00000000_0000000000_000_00, 0b0_0000_00010011_001_00000011_00000001, 0b0_000_0000_000000000000000000000000],
      .andn ⟨0, false, ⟨.next, 0, 0⟩, []⟩ ⟨0, 1, 0x03, 0x01, 0x02, 0x00, 0x0, false, false, false⟩),
    ([0b1_000_0000_0000000_0001_000_0_000000000, 0b0_00000000_00000000_0000000000_000_00, 0b0_0000_00010100_011_00000100_00000110, 0b0_000_0000_000000000000000000000000],
      .not ⟨0, false, ⟨.next, 0, 0⟩, []⟩ ⟨0, 3, 0x04, 0x06, 0x00, 0x00, 0x0, false, false, false⟩),
    ([0b1_000_0000_0000000_0001_000_0_000000000, 0b0_00000010_00000000_0000000000_000_00, 0b0_0000_00010101_001_00000011_00000001, 0b0_000_0000_000000000000000000000000],
      .shl ⟨0, false, ⟨.next, 0, 0⟩, []⟩ ⟨0, 1, 0x03, 0x01, 0x02, 0x00, 0x0, false, false, false⟩),
    ([0b1_000_0000_0000000_0001_000_0_000000000, 0b0_00000010_00000000_0000000000_000_00, 0b0_0000_00010110_000_00000011_00000001, 0b0_000_0000_000000000000000000000000],
      .shr ⟨0, false, ⟨.next, 0, 0⟩, []⟩ ⟨0, 0, 0x03, 0x01, 0x02, 0x00, 0x0, false, false, false⟩),
    ([0b1_000_0000_0000000_0001_000_0_000000000, 0b0_00000010_00000000_0000000000_000_00, 0b0_0000_00010111_011_00000100_00000110, 0b0_000_0000_000000000000000000000000],
      .rot ⟨0, false, ⟨.next, 0, 0⟩, []⟩ ⟨0, 3, 0x04, 0x06, 0x02, 0x00, 0x0, false, false, false⟩),
    ([0b1_000_0000_0000000_0001_000_0_000000000, 0b0_00000010_00000000_0000000000_000_00, 0b0_0000_00011000_000_00000011_00000001, 0b0_000_0000_000000000000000000000000],
      .bfe ⟨0, false, ⟨.next, 0, 0⟩, []⟩ ⟨0, 0, 0x03, 0x01, 0x02, 0x00, 0x0, false, false, false⟩),
    ([0b1_000_0000_0000000_0001_000_0_000000000, 0b0_00000010_00000100_0000000000_000_00, 0b0_0000_00011001_001_00000011_00000001, 0b0_000_0000_000000000000000000000000],
      .bfi ⟨0, false, ⟨.next, 0, 0⟩, []⟩ ⟨0, 1, 0x03, 0x01, 0x02, 0x04, 0x0, false, false, false⟩),
    ([0b1_000_0000_0000000_0001_000_0_000000000, 0b0_00000000_00000000_0000000000_000_00, 0b0_0000_00011010_001_00000011_00000001, 0b0_000_0000_000000000000000000000000],
      .popc ⟨0, false, ⟨.next, 0, 0⟩, []⟩ ⟨0, 1, 0x03, 0x01, 0x00, 0x00, 0x0, false, false, false⟩),
    ([0b1_000_0000_0000000_0001_000_0_000000000, 0b0_00000000_00000000_0000000000_000_00, 0b0_0000_00011011_001_00000011_00000001, 0b0_000_0000_000000000000000000000000],
      .clz ⟨0, false, ⟨.next, 0, 0⟩, []⟩ ⟨0, 1, 0x03, 0x01, 0x00, 0x00, 0x0, false, false, false⟩),
    ([0b1_000_0000_0000000_0001_000_0_000000000, 0b0_00000000_00000000_0000000000_000_00, 0b0_0000_00011100_011_00000100_00000110, 0b0_000_0000_000000000000000000000000],
      .ctz ⟨0, false, ⟨.next, 0, 0⟩, []⟩ ⟨0, 3, 0x04, 0x06, 0x00, 0x00, 0x0, false, false, false⟩),
    ([0b1_000_0000_0000000_0001_000_0_000000000, 0b0_00000000_00000000_0000000000_100_00, 0b0_0000_00011101_001_00000011_00000001, 0b0_000_0000_000000000000000000000000],
      .brev ⟨0, false, ⟨.next, 0, 0⟩, []⟩ ⟨0, 1, 0x03, 0x01, 0x00, 0x00, 0x0, true, false, false⟩)
  ].all (fun x : List Word × Instr => decide (decode DecodeCtx.max x.1 = .instr x.2)) = true := by decide

/-- Float: words written out from R55, R63, R68 and the map of R74. -/
theorem test_decode_float : [
    ([0b1_000_0000_0000000_0001_000_0_000000000, 0b0_00000010_00000100_1000000101_000_00, 0b0_0000_00100000_100_00000011_00000001, 0b0_000_0000_000000000000000000000000],
      .fma ⟨0, false, ⟨.next, 0, 0⟩, []⟩ ⟨0, 4, 0x03, 0x01, 0x02, 0x04, 0x205, false, false, false⟩),
    ([0b1_000_0000_0000000_0001_000_0_000000000, 0b0_00000010_00000100_0000001000_000_00, 0b0_0000_00100001_110_00000011_00000001, 0b0_000_0000_000000000000000000000000],
      .dot2 ⟨0, false, ⟨.next, 0, 0⟩, []⟩ ⟨0, 6, 0x03, 0x01, 0x02, 0x04, 0x8, false, false, false⟩),
    ([0b1_000_0000_0000000_0001_000_0_000000000, 0b0_00000010_00000000_0011000000_000_00, 0b0_0000_00100010_100_00000011_00000001, 0b0_000_0000_000000000000000000000000],
      .fmin ⟨0, false, ⟨.next, 0, 0⟩, []⟩ ⟨0, 4, 0x03, 0x01, 0x02, 0x00, 0xC0, false, false, false⟩),
    ([0b1_000_0000_0000000_0001_000_0_000000000, 0b0_00001000_00000000_0000000000_000_00, 0b0_0000_00100011_101_00000100_00000110, 0b0_000_0000_000000000000000000000000],
      .fmax ⟨0, false, ⟨.next, 0, 0⟩, []⟩ ⟨0, 5, 0x04, 0x06, 0x08, 0x00, 0x0, false, false, false⟩),
    ([0b1_000_0000_0000000_0001_000_0_000000000, 0b0_00000000_00000000_0100000000_000_00, 0b0_0000_00100100_100_00000011_00000001, 0b0_000_0000_000000000000000000000000],
      .rcp ⟨0, false, ⟨.next, 0, 0⟩, []⟩ ⟨0, 4, 0x03, 0x01, 0x00, 0x00, 0x100, false, false, false⟩),
    ([0b1_000_0000_0000000_0001_000_0_000000000, 0b0_00000000_00000000_0000000000_000_00, 0b0_0000_00100101_100_00000011_00000001, 0b0_000_0000_000000000000000000000000],
      .rsq ⟨0, false, ⟨.next, 0, 0⟩, []⟩ ⟨0, 4, 0x03, 0x01, 0x00, 0x00, 0x0, false, false, false⟩),
    ([0b1_000_0000_0000000_0001_000_0_000000000, 0b0_00000000_00000000_0000000000_000_00, 0b0_0000_00100110_101_00000100_00000110, 0b0_000_0000_000000000000000000000000],
      .sqrt ⟨0, false, ⟨.next, 0, 0⟩, []⟩ ⟨0, 5, 0x04, 0x06, 0x00, 0x00, 0x0, false, false, false⟩),
    ([0b1_000_0000_0000000_0001_000_0_000000000, 0b0_00000000_00000000_0000000000_000_00, 0b0_0000_00100111_110_00000011_00000001, 0b0_000_0000_000000000000000000000000],
      .exp2 ⟨0, false, ⟨.next, 0, 0⟩, []⟩ ⟨0, 6, 0x03, 0x01, 0x00, 0x00, 0x0, false, false, false⟩),
    ([0b1_000_0000_0000000_0001_000_0_000000000, 0b0_00000000_00000000_0000000000_000_00, 0b0_0000_00101000_111_00000011_00000001, 0b0_000_0000_000000000000000000000000],
      .log2 ⟨0, false, ⟨.next, 0, 0⟩, []⟩ ⟨0, 7, 0x03, 0x01, 0x00, 0x00, 0x0, false, false, false⟩),
    ([0b1_000_0000_0000000_0001_000_0_000000000, 0b0_00000000_00000000_0000000000_000_00, 0b0_0000_00101001_100_00000011_00000001, 0b0_000_0000_000000000000000000000000],
      .sin ⟨0, false, ⟨.next, 0, 0⟩, []⟩ ⟨0, 4, 0x03, 0x01, 0x00, 0x00, 0x0, false, false, false⟩),
    ([0b1_000_0000_0000000_0001_000_0_000000000, 0b0_00000000_00000000_0000000000_000_00, 0b0_0000_00101010_100_00000011_00000001, 0b0_000_0000_000000000000000000000000],
      .cos ⟨0, false, ⟨.next, 0, 0⟩, []⟩ ⟨0, 4, 0x03, 0x01, 0x00, 0x00, 0x0, false, false, false⟩),
    ([0b1_000_0000_0000000_0001_000_0_000000000, 0b0_00000000_00000000_0000000000_000_00, 0b0_0000_00101011_100_00000011_00000001, 0b0_000_0000_000000000000000000000000],
      .tanh ⟨0, false, ⟨.next, 0, 0⟩, []⟩ ⟨0, 4, 0x03, 0x01, 0x00, 0x00, 0x0, false, false, false⟩),
    ([0b1_000_0000_0000000_0001_000_0_000000000, 0b0_00000000_00000010_0000000000_000_00, 0b0_0000_00101100_100_00000011_00000001, 0b0_000_0000_000000000000000000000000],
      .rnd ⟨0, false, ⟨.next, 0, 0⟩, []⟩ ⟨0, 4, 0x03, 0x01, 0x00, 0x02, 0x0, false, false, false⟩),
    ([0b1_000_0000_0000000_0001_000_0_000000000, 0b0_00000000_00000000_0000000000_000_00, 0b0_0000_00101101_100_00000011_00000001, 0b0_000_0000_000000000000000000000000],
      .frac ⟨0, false, ⟨.next, 0, 0⟩, []⟩ ⟨0, 4, 0x03, 0x01, 0x00, 0x00, 0x0, false, false, false⟩),
    ([0b1_000_0000_0000000_0001_000_0_000000000, 0b0_00000001_00000000_0000000000_000_00, 0b0_0000_00101110_101_00000100_00000110, 0b0_000_0000_000000000000000000000000],
      .ldexp ⟨0, false, ⟨.next, 0, 0⟩, []⟩ ⟨0, 5, 0x04, 0x06, 0x01, 0x00, 0x0, false, false, false⟩),
    ([0b1_000_0000_0000000_0001_000_0_000000000, 0b0_00000000_00000000_0000000000_000_00, 0b0_0000_00101111_000_00000011_00000001, 0b0_000_0000_000000000000000000000000],
      .sgn ⟨0, false, ⟨.next, 0, 0⟩, []⟩ ⟨0, 0, 0x03, 0x01, 0x00, 0x00, 0x0, false, false, false⟩)
  ].all (fun x : List Word × Instr => decide (decode DecodeCtx.max x.1 = .instr x.2)) = true := by decide

/-- Convert: words written out from R55, R63, R68 and the map of R74. -/
theorem test_decode_convert : [
    ([0b1_000_0000_0000000_0001_000_0_000000000, 0b0_00000000_00010000_0000000000_000_00, 0b0_0000_00110000_000_00000011_00000001, 0b0_000_0000_000000000000000000000000],
      .cvt ⟨0, false, ⟨.next, 0, 0⟩, []⟩ ⟨0, 0, 0x03, 0x01, 0x00, 0x10, 0x0, false, false, false⟩),
    ([0b1_000_0000_0000000_0001_000_0_000000000, 0b0_00000010_00110001_0000000000_000_00, 0b0_0000_00110001_001_00000011_00000001, 0b0_000_0000_000000000000000000000000],
      .cvtpk ⟨0, false, ⟨.next, 0, 0⟩, []⟩ ⟨0, 1, 0x03, 0x01, 0x02, 0x31, 0x0, false, false, false⟩),
    ([0b1_000_0000_0000000_0001_000_0_000000000, 0b0_00000000_00110010_0000000000_000_00, 0b0_0000_00110010_000_00000011_00000001, 0b0_000_0000_000000000000000000000000],
      .cvtun ⟨0, false, ⟨.next, 0, 0⟩, []⟩ ⟨0, 0, 0x03, 0x01, 0x00, 0x32, 0x0, false, false, false⟩),
    ([0b1_000_0000_0000000_0001_000_0_000000000, 0b0_00000010_00110000_0000000000_000_00, 0b0_0000_00110011_001_00000011_00000001, 0b0_000_0000_000000000000000000000000],
      .cvtmx ⟨0, false, ⟨.next, 0, 0⟩, []⟩ ⟨0, 1, 0x03, 0x01, 0x02, 0x30, 0x0, false, false, false⟩),
    ([0b1_000_0000_0000000_0001_000_0_000000000, 0b0_00000000_00000000_0000000000_000_00, 0b0_0000_00110100_100_00000011_00000001, 0b0_000_0000_000000000000000000000000],
      .fclass ⟨0, false, ⟨.next, 0, 0⟩, []⟩ ⟨0, 4, 0x03, 0x01, 0x00, 0x00, 0x0, false, false, false⟩)
  ].all (fun x : List Word × Instr => decide (decode DecodeCtx.max x.1 = .instr x.2)) = true := by decide

/-- Forest: words written out from R55, R63, R68 and the map of R74. -/
theorem test_decode_forest : [
    ([0b1_000_0000_0000000_0001_000_0_000000000, 0b0_00000010_00000111_0000000000_000_00, 0b0_0000_01000000_100_00000011_00000001, 0b0_000_0000_000000000000000000000000],
      .fbin ⟨0, false, ⟨.next, 0, 0⟩, []⟩ ⟨0, 4, 0x03, 0x01, 0x02, 0x07, 0x0, false, false, false⟩),
    ([0b1_000_0000_0000000_0001_000_0_000000000, 0b0_00000010_00000000_0000000000_000_00, 0b0_0000_01000001_100_00000011_00000001, 0b0_000_0000_000000000000000000000000],
      .fscale ⟨0, false, ⟨.next, 0, 0⟩, []⟩ ⟨0, 4, 0x03, 0x01, 0x02, 0x00, 0x0, false, false, false⟩),
    ([0b1_000_0000_0000000_0001_000_0_000000000, 0b0_00000010_00000100_0000000000_000_00, 0b0_0000_01000010_001_00000011_00000001, 0b0_000_0000_000000000000000000000000],
      .fcross ⟨0, false, ⟨.next, 0, 0⟩, []⟩ ⟨0, 1, 0x03, 0x01, 0x02, 0x04, 0x0, false, false, false⟩),
    ([0b1_000_0000_0000000_0001_000_0_000000000, 0b0_00000010_00000100_0000000000_000_00, 0b0_0000_01000011_010_00000011_00000001, 0b0_000_0000_000000000000000000000000],
      .node ⟨0, false, ⟨.next, 0, 0⟩, []⟩ ⟨0, 2, 0x03, 0x01, 0x02, 0x04, 0x0, false, false, false⟩),
    ([0b1_000_0000_0000000_0001_000_0_000000000, 0b0_00000010_00000100_0000000000_000_00, 0b0_0000_01000100_100_00000011_00000001, 0b0_000_0000_000000000000000000000000],
      .lacc ⟨0, false, ⟨.next, 0, 0⟩, []⟩ ⟨0, 4, 0x03, 0x01, 0x02, 0x04, 0x0, false, false, false⟩),
    ([0b1_000_0000_0000000_0001_000_0_000000000, 0b0_00000000_00000010_0000000000_000_00, 0b0_0000_01000101_100_00000011_00000001, 0b0_000_0000_000000000000000000000000],
      .link ⟨0, false, ⟨.next, 0, 0⟩, []⟩ ⟨0, 4, 0x03, 0x01, 0x00, 0x02, 0x0, false, false, false⟩)
  ].all (fun x : List Word × Instr => decide (decode DecodeCtx.max x.1 = .instr x.2)) = true := by decide

/-- Memory: words written out from R55, R63, R68 and the map of R74. -/
theorem test_decode_memory : [
    ([0b1_000_0000_0000000_0001_000_0_000000000, 0b0_00000010_00000000_1111111000_000_00, 0b0_0000_10000000_100_00000011_00000001, 0b0_000_0000_000000000000000000000000],
      .lds ⟨0, false, ⟨.next, 0, 0⟩, []⟩ ⟨0, 4, 0x03, 0x01, 0x02, 0x00, 0x3F8, false, false, false⟩),
    ([0b1_000_0000_0000000_0001_000_0_000000000, 0b0_00000010_00000100_0000001000_000_00, 0b0_0000_10000001_101_00000000_00000001, 0b0_000_0000_000000000000000000000000],
      .sts ⟨0, false, ⟨.next, 0, 0⟩, []⟩ ⟨0, 5, 0x00, 0x01, 0x02, 0x04, 0x8, false, false, false⟩),
    ([0b1_000_0000_0000000_0001_000_0_000000000, 0b0_00000010_00000000_0000000000_000_00, 0b0_0000_10000010_000_00000011_00000001, 0b0_000_0000_000000000000000000000000],
      .ldt ⟨0, false, ⟨.next, 0, 0⟩, []⟩ ⟨0, 0, 0x03, 0x01, 0x02, 0x00, 0x0, false, false, false⟩),
    ([0b1_000_0000_0000000_0001_000_0_000000000, 0b0_00000010_00000100_0000000000_000_00, 0b0_0000_10000011_010_00000000_00000001, 0b0_000_0000_000000000000000000000000],
      .stt ⟨0, false, ⟨.next, 0, 0⟩, []⟩ ⟨0, 2, 0x00, 0x01, 0x02, 0x04, 0x0, false, false, false⟩),
    ([0b1_000_0000_0000000_0001_000_0_000000000, 0b0_00000010_00000000_0000010000_100_00, 0b0_0000_10000100_101_00001000_00000110, 0b0_000_0000_000000000000000000000000],
      .ldg ⟨0, false, ⟨.next, 0, 0⟩, []⟩ ⟨0, 5, 0x08, 0x06, 0x02, 0x00, 0x10, true, false, false⟩),
    ([0b1_000_0000_0000000_0001_000_0_000000000, 0b0_00000010_00000100_0000000000_000_00, 0b0_0000_10000101_100_00000000_00000110, 0b0_000_0000_000000000000000000000000],
      .stg ⟨0, false, ⟨.next, 0, 0⟩, []⟩ ⟨0, 4, 0x00, 0x06, 0x02, 0x04, 0x0, false, false, false⟩),
    ([0b1_000_0000_0000000_0001_000_0_000000000, 0b0_00000010_00000000_0000000000_000_00, 0b0_0000_10000110_001_00000011_00000110, 0b0_000_0000_000000000000000000000000],
      .ldm ⟨0, false, ⟨.next, 0, 0⟩, []⟩ ⟨0, 1, 0x03, 0x06, 0x02, 0x00, 0x0, false, false, false⟩),
    ([0b1_000_0000_0000000_0001_000_0_000000000, 0b0_00000010_00000100_0000000000_000_00, 0b0_0000_10000111_100_00000000_00000110, 0b0_000_0000_000000000000000000000000],
      .stm ⟨0, false, ⟨.next, 0, 0⟩, []⟩ ⟨0, 4, 0x00, 0x06, 0x02, 0x04, 0x0, false, false, false⟩),
    ([0b1_000_0000_0000000_0001_000_0_000000000, 0b0_00000010_00000000_0000000000_000_00, 0b0_0000_10001000_011_00000011_00000110, 0b0_000_0000_000000000000000000000000],
      .ldr ⟨0, false, ⟨.next, 0, 0⟩, []⟩ ⟨0, 3, 0x03, 0x06, 0x02, 0x00, 0x0, false, false, false⟩),
    ([0b1_000_0000_0000000_0001_000_0_000000000, 0b0_00000010_00000100_0000000000_000_00, 0b0_0000_10001001_000_00000000_00000110, 0b0_000_0000_000000000000000000000000],
      .str ⟨0, false, ⟨.next, 0, 0⟩, []⟩ ⟨0, 0, 0x00, 0x06, 0x02, 0x04, 0x0, false, false, false⟩),
    ([0b1_000_0000_0000000_0001_000_0_000000000, 0b0_00000010_00000000_0000000000_000_00, 0b0_0000_10001010_100_00000011_00000110, 0b0_000_0000_000000000000000000000000],
      .ldh ⟨0, false, ⟨.next, 0, 0⟩, []⟩ ⟨0, 4, 0x03, 0x06, 0x02, 0x00, 0x0, false, false, false⟩),
    ([0b1_000_0000_0000000_0001_000_0_000000000, 0b0_00000010_00000100_0000000000_000_00, 0b0_0000_10001011_100_00000000_00000110, 0b0_000_0000_000000000000000000000000],
      .sth ⟨0, false, ⟨.next, 0, 0⟩, []⟩ ⟨0, 4, 0x00, 0x06, 0x02, 0x04, 0x0, false, false, false⟩),
    ([0b1_000_0000_0000000_0001_000_0_000000000, 0b0_00000010_00000000_0000010000_000_00, 0b0_0000_10001100_000_00000011_00000001, 0b0_000_0000_000000000000000000000000],
      .atms ⟨0, false, ⟨.next, 0, 0⟩, []⟩ ⟨0, 0, 0x03, 0x01, 0x02, 0x00, 0x10, false, false, false⟩),
    ([0b1_000_0000_0000000_0001_000_0_000000000, 0b0_00001010_00001100_1101110111_000_00, 0b0_0000_10001101_011_00001000_00000110, 0b0_000_0000_000000000000000000000000],
      .atmg ⟨0, false, ⟨.next, 0, 0⟩, []⟩ ⟨0, 3, 0x08, 0x06, 0x0A, 0x0C, 0x377, false, false, false⟩),
    ([0b1_000_0000_0000000_0001_000_0_000000000, 0b0_00000010_00000000_0100000110_000_00, 0b0_0000_10001110_001_00000000_00000110, 0b0_000_0000_000000000000000000000000],
      .atmr ⟨0, false, ⟨.next, 0, 0⟩, []⟩ ⟨0, 1, 0x00, 0x06, 0x02, 0x00, 0x106, false, false, false⟩),
    ([0b1_000_0000_0000000_0001_000_0_000000000, 0b0_00001010_00000100_0000000000_000_00, 0b0_0000_10001111_001_00001000_00000110, 0b0_000_0000_000000000000000000000000],
      .mcas ⟨0, false, ⟨.next, 0, 0⟩, []⟩ ⟨0, 1, 0x08, 0x06, 0x0A, 0x04, 0x0, false, false, false⟩),
    ([0b1_000_0000_0000000_0001_000_0_000000000, 0b0_00000010_00000001_0000000000_000_00, 0b0_0000_10010000_100_00000011_00000110, 0b0_000_0000_000000000000000000000000],
      .sred ⟨0, false, ⟨.next, 0, 0⟩, []⟩ ⟨0, 4, 0x03, 0x06, 0x02, 0x01, 0x0, false, false, false⟩),
    ([0b1_000_0000_0000000_0001_000_0_000000000, 0b0_00000010_00000000_0000000000_000_00, 0b0_0000_10010001_100_00000000_00000001, 0b0_000_0000_000000000000000000000000],
      .smv ⟨0, false, ⟨.next, 0, 0⟩, []⟩ ⟨0, 4, 0x00, 0x01, 0x02, 0x00, 0x0, false, false, false⟩),
    ([0b1_000_0000_0000000_0001_000_0_000000000, 0b0_00000010_00000000_0000000000_000_00, 0b0_0000_10100001_001_00000000_00000110, 0b0_000_0000_000000000000000000000000],
      .tfill ⟨0, false, ⟨.next, 0, 0⟩, []⟩ ⟨0, 1, 0x00, 0x06, 0x02, 0x00, 0x0, false, false, false⟩),
    ([0b1_000_0000_0000000_0001_000_0_000000000, 0b0_00000000_00000000_0000000000_000_00, 0b0_0000_10100010_000_00001000_00000110, 0b0_000_0000_000000000000000000000000],
      .tcls ⟨0, false, ⟨.next, 0, 0⟩, []⟩ ⟨0, 0, 0x08, 0x06, 0x00, 0x00, 0x0, false, false, false⟩),
    ([0b1_000_0000_0000000_0001_000_0_000000000, 0b0_00000000_00000000_0000000000_000_00, 0b0_0000_10100011_000_00001000_00000110, 0b0_000_0000_000000000000000000000000],
      .tqry ⟨0, false, ⟨.next, 0, 0⟩, []⟩ ⟨0, 0, 0x08, 0x06, 0x00, 0x00, 0x0, false, false, false⟩)
  ].all (fun x : List Word × Instr => decide (decode DecodeCtx.max x.1 = .instr x.2)) = true := by decide

/-- Engine: words written out from R55, R63, R68 and the map of R74. -/
theorem test_decode_engine : [
    ([0b1_000_0000_0000000_0001_000_0_000000000, 0b0_00000010_00000100_0000000010_000_00, 0b0_0000_10010010_000_00000011_00000110, 0b0_000_0000_000000000000000000000000],
      .cpy1d ⟨0, false, ⟨.next, 0, 0⟩, []⟩ ⟨0, 0, 0x03, 0x06, 0x02, 0x04, 0x2, false, false, false⟩),
    ([0b1_000_0000_0000000_0001_000_0_000000000, 0b0_00000000_00000000_0000000000_000_00, 0b0_0000_10010010_001_00000000_00000001, 0b0_000_0000_000000000000000000000000],
      .cpyE ⟨0, false, ⟨.next, 0, 0⟩, []⟩ ⟨0, 1, 0x00, 0x01, 0x00, 0x00, 0x0, false, false, false⟩),
    ([0b1_000_0000_0000000_0001_000_0_000000000, 0b0_00000010_00000000_0000000000_000_00, 0b0_0000_10010011_000_00000000_00000001, 0b0_000_0000_000000000000000000000000],
      .idxg ⟨0, false, ⟨.next, 0, 0⟩, []⟩ ⟨0, 0, 0x00, 0x01, 0x02, 0x00, 0x0, false, false, false⟩),
    ([0b1_000_0000_0000000_0001_000_0_000000000, 0b0_00000010_00000000_0000000000_000_00, 0b0_0000_10010011_001_00000011_00000001, 0b0_000_0000_000000000000000000000000],
      .idxgSt ⟨0, false, ⟨.next, 0, 0⟩, []⟩ ⟨0, 1, 0x03, 0x01, 0x02, 0x00, 0x0, false, false, false⟩),
    ([0b1_000_0000_0000000_0001_000_0_000000000, 0b0_00000010_00000000_0000000000_000_00, 0b0_0000_10010100_000_00000000_00000001, 0b0_000_0000_000000000000000000000000],
      .idxs ⟨0, false, ⟨.next, 0, 0⟩, []⟩ ⟨0, 0, 0x00, 0x01, 0x02, 0x00, 0x0, false, false, false⟩),
    ([0b1_000_0000_0000000_0001_000_0_000000000, 0b0_00000010_00000000_0000000000_000_00, 0b0_0000_10010100_001_11100011_00000001, 0b0_000_0000_000000000000000000000000],
      .idxsSt ⟨0, false, ⟨.next, 0, 0⟩, []⟩ ⟨0, 1, 0xE3, 0x01, 0x02, 0x00, 0x0, false, false, false⟩),
    ([0b1_000_0000_0000000_0001_000_0_000000000, 0b0_00000010_00000000_0000000000_000_00, 0b0_0000_10010101_000_00000000_00000000, 0b0_000_0000_000000000000000000000000],
      .fqplay ⟨0, false, ⟨.next, 0, 0⟩, []⟩ ⟨0, 0, 0x00, 0x00, 0x02, 0x00, 0x0, false, false, false⟩),
    ([0b1_000_0000_0000000_0001_000_0_000000000, 0b0_00000010_00000100_0000000000_000_00, 0b0_0000_10010110_000_00000000_00000001, 0b0_000_0000_000000000000000000000000],
      .bput ⟨0, false, ⟨.next, 0, 0⟩, []⟩ ⟨0, 0, 0x00, 0x01, 0x02, 0x04, 0x0, false, false, false⟩),
    ([0b1_000_0000_0000000_0001_000_0_000000000, 0b0_00000010_00000000_0000000000_000_00, 0b0_0000_10010111_000_00000000_00000001, 0b0_000_0000_000000000000000000000000],
      .bplay ⟨0, false, ⟨.next, 0, 0⟩, []⟩ ⟨0, 0, 0x00, 0x01, 0x02, 0x00, 0x0, false, false, false⟩),
    ([0b1_000_0000_0000000_0001_000_0_000000000, 0b0_00000010_00000000_0000000011_000_00, 0b0_0000_10011000_000_00000000_00000000, 0b0_000_0000_000000000000000000000000],
      .wlpush ⟨0, false, ⟨.next, 0, 0⟩, []⟩ ⟨0, 0, 0x00, 0x00, 0x02, 0x00, 0x3, false, false, false⟩),
    ([0b1_000_0000_0000000_0001_000_0_000000000, 0b0_00000010_00000000_0000000001_000_00, 0b0_0000_10011001_000_00000000_00000000, 0b0_000_0000_000000000000000000000000],
      .wlins ⟨0, false, ⟨.next, 0, 0⟩, []⟩ ⟨0, 0, 0x00, 0x00, 0x02, 0x00, 0x1, false, false, false⟩),
    ([0b1_000_0000_0000000_0001_000_0_000000000, 0b0_00000000_00000101_0000000010_000_00, 0b0_0000_10011010_000_00000011_00000000, 0b0_000_0000_000000000000000000000000],
      .wlpop ⟨0, false, ⟨.next, 0, 0⟩, []⟩ ⟨0, 0, 0x03, 0x00, 0x00, 0x05, 0x2, false, false, false⟩),
    ([0b1_000_0000_0000000_0001_000_0_000000000, 0b0_00000000_00000000_0000000001_000_00, 0b0_0000_10011011_000_00001000_00000000, 0b0_000_0000_000000000000000000000000],
      .wlstat ⟨0, false, ⟨.next, 0, 0⟩, []⟩ ⟨0, 0, 0x08, 0x00, 0x00, 0x00, 0x1, false, false, false⟩),
    ([0b1_000_0000_0000000_0001_000_0_000000000, 0b0_00000010_00000100_0000000010_000_00, 0b0_0000_10100000_001_00001000_00000001, 0b0_000_0000_000000000000000000000000],
      .qword ⟨0, false, ⟨.next, 0, 0⟩, []⟩ ⟨0, 1, 0x08, 0x01, 0x02, 0x04, 0x2, false, false, false⟩)
  ].all (fun x : List Word × Instr => decide (decode DecodeCtx.max x.1 = .instr x.2)) = true := by decide

/-- Barrier: words written out from R55, R63, R68 and the map of R74. -/
theorem test_decode_barrier : [
    ([0b1_000_0000_0000000_0001_000_0_000000000, 0b0_00000010_00000000_0000000000_000_00, 0b0_0000_10011100_000_00000000_00000001, 0b0_000_0000_000000000000000000000000],
      .barInit ⟨0, false, ⟨.next, 0, 0⟩, []⟩ ⟨0, 0, 0x00, 0x01, 0x02, 0x00, 0x0, false, false, false⟩),
    ([0b1_000_0000_0000000_0001_000_0_000000000, 0b0_00000010_00000000_0000000000_000_00, 0b0_0000_10011101_000_00000000_00000001, 0b0_000_0000_000000000000000000000000],
      .barArr ⟨0, false, ⟨.next, 0, 0⟩, []⟩ ⟨0, 0, 0x00, 0x01, 0x02, 0x00, 0x0, false, false, false⟩),
    ([0b1_000_0000_0000000_0001_000_0_000000000, 0b0_00000010_00000100_0000000000_000_00, 0b0_0000_10011101_001_00000000_00000001, 0b0_000_0000_000000000000000000000000],
      .barArrM ⟨0, false, ⟨.next, 0, 0⟩, []⟩ ⟨0, 1, 0x00, 0x01, 0x02, 0x04, 0x0, false, false, false⟩),
    ([0b1_000_0000_0000000_0001_000_0_000000000, 0b0_00000010_00000000_0000000000_000_00, 0b0_0000_10011110_000_00000000_00000001, 0b0_000_0000_000000000000000000000000],
      .barExp ⟨0, false, ⟨.next, 0, 0⟩, []⟩ ⟨0, 0, 0x00, 0x01, 0x02, 0x00, 0x0, false, false, false⟩),
    ([0b1_000_0000_0000000_0001_000_0_000000000, 0b0_00000010_00000000_0000000011_000_00, 0b0_0000_10011111_000_00000000_00000001, 0b0_000_0000_000000000000000000000000],
      .watchA ⟨0, false, ⟨.next, 0, 0⟩, []⟩ ⟨0, 0, 0x00, 0x01, 0x02, 0x00, 0x3, false, false, false⟩),
    ([0b1_000_0000_0000000_0001_000_0_000000000, 0b0_00000110_00001000_0000000000_000_00, 0b0_0000_10011111_001_00000000_00000001, 0b0_000_0000_000000000000000000000000],
      .watchC ⟨0, false, ⟨.next, 0, 0⟩, []⟩ ⟨0, 1, 0x00, 0x01, 0x06, 0x08, 0x0, false, false, false⟩),
    ([0b1_000_0000_0000000_0001_000_0_000000000, 0b0_00000010_00000000_0000000000_000_00, 0b0_0000_11010100_001_00000011_00000001, 0b0_000_0000_000000000000000000000000],
      .barWait ⟨0, false, ⟨.next, 0, 0⟩, []⟩ ⟨0, 1, 0x03, 0x01, 0x02, 0x00, 0x0, false, false, false⟩),
    ([0b1_000_0000_0000000_0001_000_0_000000000, 0b0_00000000_00000000_0000000000_000_00, 0b0_0000_11010101_010_00000000_00000000, 0b0_000_0000_000000000000000000000000],
      .phaseRel ⟨0, false, ⟨.next, 0, 0⟩, []⟩ ⟨0, 2, 0x00, 0x00, 0x00, 0x00, 0x0, false, false, false⟩),
    ([0b1_000_0000_0000000_0001_000_0_000000000, 0b0_00000000_00000000_0000000000_000_00, 0b0_0000_11010110_011_00000000_00000000, 0b0_000_0000_000000000000000000000000],
      .phaseAcq ⟨0, false, ⟨.next, 0, 0⟩, []⟩ ⟨0, 3, 0x00, 0x00, 0x00, 0x00, 0x0, false, false, false⟩),
    ([0b1_000_0000_0000000_0001_000_0_000000000, 0b0_00000000_00000000_0000000000_000_00, 0b0_0000_11010111_000_00000000_00000110, 0b0_000_0000_000000000000000000000000],
      .publish ⟨0, false, ⟨.next, 0, 0⟩, []⟩ ⟨0, 0, 0x00, 0x06, 0x00, 0x00, 0x0, false, false, false⟩),
    ([0b1_000_0000_0000000_0001_000_0_000000000, 0b0_00000000_00001001_0000000000_000_00, 0b0_0000_11011000_000_00000000_00000000, 0b0_000_0000_000000000000000000000000],
      .qfence ⟨0, false, ⟨.next, 0, 0⟩, []⟩ ⟨0, 0, 0x00, 0x00, 0x00, 0x09, 0x0, false, false, false⟩)
  ].all (fun x : List Word × Instr => decide (decode DecodeCtx.max x.1 = .instr x.2)) = true := by decide

/-- Matrix: words written out from R55, R63, R68 and the map of R74. -/
theorem test_decode_matrix : [
    ([0b1_000_0000_0000000_0001_000_0_000000000, 0b0_00000000_00000000_0100000001_000_00, 0b0_0000_11000000_010_00000000_00000000, 0b0_000_0000_000000000000000000000000],
      .gang ⟨0, false, ⟨.next, 0, 0⟩, []⟩ ⟨0, 2, 0x00, 0x00, 0x00, 0x00, 0x101, false, false, false⟩),
    ([0b1_000_0000_0000000_0001_000_0_000000000, 0b0_11100010_00110100_0000000101_000_00, 0b0_0000_11000001_000_00000000_11100000, 0b0_000_0000_000000000000000000000000],
      .mma ⟨0, false, ⟨.next, 0, 0⟩, []⟩ ⟨0, 0, 0x00, 0xE0, 0xE2, 0x34, 0x5, false, false, false⟩),
    ([0b1_000_0000_0000000_0001_000_0_000000000, 0b0_11100010_00010001_0000000101_000_00, 0b0_0000_11000010_001_00000000_11100000, 0b0_000_0000_000000000000000000000000],
      .mmx ⟨0, false, ⟨.next, 0, 0⟩, []⟩ ⟨0, 1, 0x00, 0xE0, 0xE2, 0x11, 0x5, false, false, false⟩),
    ([0b1_000_0000_0000000_0001_000_0_000000000, 0b0_00000010_00000001_0000000101_000_00, 0b0_0000_11000011_000_00000011_00000110, 0b0_000_0000_000000000000000000000000],
      .mmld ⟨0, false, ⟨.next, 0, 0⟩, []⟩ ⟨0, 0, 0x03, 0x06, 0x02, 0x01, 0x5, false, false, false⟩),
    ([0b1_000_0000_0000000_0001_000_0_000000000, 0b0_00000010_00000000_0000000101_000_00, 0b0_0000_11000100_001_00000000_00000001, 0b0_000_0000_000000000000000000000000],
      .mmst ⟨0, false, ⟨.next, 0, 0⟩, []⟩ ⟨0, 1, 0x00, 0x01, 0x02, 0x00, 0x5, false, false, false⟩),
    ([0b1_000_0000_0000000_0001_000_0_000000000, 0b0_00000000_00000000_0000000101_000_00, 0b0_0000_11000101_000_00000000_00000000, 0b0_000_0000_000000000000000000000000],
      .mmz ⟨0, false, ⟨.next, 0, 0⟩, []⟩ ⟨0, 0, 0x00, 0x00, 0x00, 0x00, 0x5, false, false, false⟩),
    ([0b1_000_0000_0000000_0001_000_0_000000000, 0b0_00000000_00000000_0000000101_000_00, 0b0_0000_11000110_000_00001000_00000000, 0b0_000_0000_000000000000000000000000],
      .mmstat ⟨0, false, ⟨.next, 0, 0⟩, []⟩ ⟨0, 0, 0x08, 0x00, 0x00, 0x00, 0x5, false, false, false⟩),
    ([0b1_000_0000_0000000_0001_000_0_000000000, 0b0_00000000_00000011_0000000000_000_00, 0b0_0000_11000111_000_00000000_00000110, 0b0_000_0000_000000000000000000000000],
      .cbld ⟨0, false, ⟨.next, 0, 0⟩, []⟩ ⟨0, 0, 0x00, 0x06, 0x00, 0x03, 0x0, false, false, false⟩),
    ([0b1_000_0000_0000000_0001_000_0_000000000, 0b0_00000000_00000000_0000000000_000_00, 0b0_0000_11001000_000_00000011_00000110, 0b0_000_0000_000000000000000000000000],
      .seal ⟨0, false, ⟨.next, 0, 0⟩, []⟩ ⟨0, 0, 0x03, 0x06, 0x00, 0x00, 0x0, false, false, false⟩),
    ([0b1_000_0000_0000000_0001_000_0_000000000, 0b0_00000000_00000000_0000000000_000_00, 0b0_0000_11001001_000_00000000_00000001, 0b0_000_0000_000000000000000000000000],
      .hdrop ⟨0, false, ⟨.next, 0, 0⟩, []⟩ ⟨0, 0, 0x00, 0x01, 0x00, 0x00, 0x0, false, false, false⟩),
    ([0b1_000_0000_0000000_0001_000_0_000000000, 0b0_00000000_00000000_0000000000_000_00, 0b0_0000_11001010_000_00000000_00000001, 0b0_000_0000_000000000000000000000000],
      .fmt ⟨0, false, ⟨.next, 0, 0⟩, []⟩ ⟨0, 0, 0x00, 0x01, 0x00, 0x00, 0x0, false, false, false⟩),
    ([0b1_000_0000_0000000_0001_000_0_000000000, 0b0_00000010_00000000_0000000000_000_00, 0b0_0000_11001010_001_00000000_00000001, 0b0_000_0000_000000000000000000000000],
      .fmtM ⟨0, false, ⟨.next, 0, 0⟩, []⟩ ⟨0, 1, 0x00, 0x01, 0x02, 0x00, 0x0, false, false, false⟩)
  ].all (fun x : List Word × Instr => decide (decode DecodeCtx.max x.1 = .instr x.2)) = true := by decide

/-- Exchange: words written out from R55, R63, R68 and the map of R74. -/
theorem test_decode_exchange : [
    ([0b1_000_0000_0000000_0001_000_0_000000000, 0b0_00000010_00000100_0000000000_000_00, 0b0_0000_11010000_011_00000011_00000001, 0b0_000_0000_000000000000000000000000],
      .shfl ⟨0, false, ⟨.next, 0, 0⟩, []⟩ ⟨0, 3, 0x03, 0x01, 0x02, 0x04, 0x0, false, false, false⟩),
    ([0b1_000_0000_0000000_0001_000_0_000000000, 0b0_00000000_00000100_0000000000_000_00, 0b0_0000_11010001_000_00000011_00000001, 0b0_000_0000_000000000000000000000000],
      .vote ⟨0, false, ⟨.next, 0, 0⟩, []⟩ ⟨0, 0, 0x03, 0x01, 0x00, 0x04, 0x0, false, false, false⟩),
    ([0b1_000_0000_0000000_0001_000_0_000000000, 0b0_00000100_00000100_0000000000_000_00, 0b0_0000_11010010_001_11100011_00000001, 0b0_000_0000_000000000000000000000000],
      .redux ⟨0, false, ⟨.next, 0, 0⟩, []⟩ ⟨0, 1, 0xE3, 0x01, 0x04, 0x04, 0x0, false, false, false⟩),
    ([0b1_000_0000_0000000_0001_000_0_000000000, 0b0_11100100_00000100_0000000000_000_00, 0b0_0000_11010011_001_00000011_00000001, 0b0_000_0000_000000000000000000000000],
      .bcast ⟨0, false, ⟨.next, 0, 0⟩, []⟩ ⟨0, 1, 0x03, 0x01, 0xE4, 0x04, 0x0, false, false, false⟩)
  ].all (fun x : List Word × Instr => decide (decode DecodeCtx.max x.1 = .instr x.2)) = true := by decide

/-- System: words written out from R55, R63, R68 and the map of R74. -/
theorem test_decode_system : [
    ([0b1_000_0000_0000000_0001_000_0_000000000, 0b0_00000000_00000111_0000000000_000_00, 0b0_0000_11100000_000_00000000_00000000, 0b0_000_0000_000000000000000000000000],
      .trap ⟨0, false, ⟨.next, 0, 0⟩, []⟩ ⟨0, 0, 0x00, 0x00, 0x00, 0x07, 0x0, false, false, false⟩),
    ([0b1_000_0000_0000000_0001_000_0_000000000, 0b0_00000000_00001000_0000000000_000_00, 0b0_0000_11100001_000_00000000_00000000, 0b0_000_0000_000000000000000000000000],
      .bkpt ⟨0, false, ⟨.next, 0, 0⟩, []⟩ ⟨0, 0, 0x00, 0x00, 0x00, 0x08, 0x0, false, false, false⟩),
    ([0b1_000_0000_0000000_0001_000_0_000000000, 0b0_00000000_00000000_0000000000_000_00, 0b0_0000_11100010_000_00000000_00000000, 0b0_000_0000_000000000000000000000000],
      .nopre ⟨0, false, ⟨.next, 0, 0⟩, []⟩ ⟨0, 0, 0x00, 0x00, 0x00, 0x00, 0x0, false, false, false⟩),
    ([0b1_000_0000_0000000_0001_000_0_000000000, 0b0_00000000_00000000_0000000000_000_00, 0b0_0000_11100011_000_00000000_00000000, 0b0_000_0000_000000000000000000000000],
      .pre ⟨0, false, ⟨.next, 0, 0⟩, []⟩ ⟨0, 0, 0x00, 0x00, 0x00, 0x00, 0x0, false, false, false⟩),
    ([0b1_000_0000_0000000_0001_000_0_000000000, 0b0_00000000_00000000_0000000000_000_00, 0b0_0000_11100100_000_00001000_00000000, 0b0_000_0000_000000000000000000000000],
      .capq ⟨0, false, ⟨.next, 0, 0⟩, []⟩ ⟨0, 0, 0x08, 0x00, 0x00, 0x00, 0x0, false, false, false⟩),
    ([0b1_000_0000_0000000_0001_000_0_000000000, 0b0_00000000_00010000_0000000000_000_00, 0b0_0000_11100101_000_11100001_00000000, 0b0_000_0000_000000000000000000000000],
      .sread ⟨0, false, ⟨.next, 0, 0⟩, []⟩ ⟨0, 0, 0xE1, 0x00, 0x00, 0x10, 0x0, false, false, false⟩),
    ([0b1_000_0000_0000000_0001_000_0_000000000, 0b0_00000000_00010010_0000000000_000_00, 0b0_0000_11100110_000_00000000_00000110, 0b0_000_0000_000000000000000000000000],
      .swrite ⟨0, false, ⟨.next, 0, 0⟩, []⟩ ⟨0, 0, 0x00, 0x06, 0x00, 0x12, 0x0, false, false, false⟩),
    ([0b1_000_0000_0000000_0001_000_0_000000000, 0b0_00000110_00000000_0000000000_000_00, 0b0_0000_11100111_000_00000000_00000001, 0b0_000_0000_000000000000000000000000],
      .eret ⟨0, false, ⟨.next, 0, 0⟩, []⟩ ⟨0, 0, 0x00, 0x01, 0x06, 0x00, 0x0, false, false, false⟩),
    ([0b1_000_0000_0000000_0001_000_0_000000000, 0b0_00000000_00000000_0000000000_000_00, 0b0_0000_11100111_001_00000000_00000001, 0b0_000_0000_000000000000000000000000],
      .eretExit ⟨0, false, ⟨.next, 0, 0⟩, []⟩ ⟨0, 1, 0x00, 0x01, 0x00, 0x00, 0x0, false, false, false⟩),
    ([0b1_000_0000_0000000_0001_000_0_000000000, 0b0_00000000_00000101_0000000000_000_00, 0b0_0000_11101000_000_00000011_00000001, 0b0_000_0000_000000000000000000000000],
      .lget ⟨0, false, ⟨.next, 0, 0⟩, []⟩ ⟨0, 0, 0x03, 0x01, 0x00, 0x05, 0x0, false, false, false⟩),
    ([0b1_000_0000_0000000_0001_000_0_000000000, 0b0_00000010_00000101_0000000000_000_00, 0b0_0000_11101001_000_00000000_00000001, 0b0_000_0000_000000000000000000000000],
      .lset ⟨0, false, ⟨.next, 0, 0⟩, []⟩ ⟨0, 0, 0x00, 0x01, 0x02, 0x05, 0x0, false, false, false⟩),
    ([0b1_000_0000_0000000_0001_000_0_000000000, 0b0_00000000_00000000_0000000000_000_00, 0b0_0000_11101010_000_00000000_00000000, 0b0_000_0000_000000000000000000000000],
      .yield ⟨0, false, ⟨.next, 0, 0⟩, []⟩ ⟨0, 0, 0x00, 0x00, 0x00, 0x00, 0x0, false, false, false⟩)
  ].all (fun x : List Word × Instr => decide (decode DecodeCtx.max x.1 = .instr x.2)) = true := by decide

/-- R55 to R63, R68: a tree of the tests `eq.s32 v1, v2` and `lt.n32 v3, -1` at positions 1 and 2, of `add.s32 v3, v1, v2` on arc 1, and of the leaves next, branch and exit. -/
theorem test_decode_tree :
    decode DecodeCtx.max [0b1_001_0000_0000011_0001_000_0_000000000, 0b0_00000_000_00000001_00000010_0_0_0_0_000, 0b0_00010_001_00000011_11111111_1_1_0_0_000,
        0b0_00000010_00000000_0000000000_000_00, 0b0_0001_00000010_000_00000011_00000001, 0b0_000_0000_000000000000000000000000, 0b0_001_0000_111111111111111111111111,
        0b0_110_0000_000000000000000000000000] =
      .instr (.treeInstruction ⟨0, false, 3, [⟨.eq, .s32, 1, 2, false, false, false, false⟩, ⟨.lt, .n32, 3, 0xFF, true, true, false, false⟩],
        [⟨2, ⟨1, 0, 3, 1, 2, 0, 0, false, false, false⟩⟩], [⟨.next, 0, 0⟩, ⟨.branch, 0, 0xFFFFFF⟩, ⟨.exit, 0, 0⟩], []⟩) := by decide +kernel

/-! ## Ill-formed words and instructions (R76): one for each reason -/

/-- R53, R57, R55, R76: a word that is no head, a test without its parent, a reserved bit, an operation on an arc that does not exist, an unassigned opcode, a main register beyond
the allocation, and a VAR without a meaning. -/
theorem test_decode_refuses :
    decode DecodeCtx.max [0b0_000_0000_0000000_0001_000_0_000000000, 0, 0, 0] = .notHead ∧
    decode DecodeCtx.max [0b1_000_0000_0000010_0001_000_0_000000000, 0, 0, 0] = .illegal .shape ∧
    decode DecodeCtx.max [0b1_000_0000_0000000_0001_000_0_000000001, 0b0_00000010_00000000_0000000000_000_00, 0b0_0000_00000010_000_00000011_00000001, 0] = .illegal .reserved ∧
    decode DecodeCtx.max [0b1_000_0000_0000000_0001_000_0_000000000, 0b0_00000010_00000000_0000000000_000_00, 0b0_0001_00000010_000_00000011_00000001, 0] = .illegal .placement ∧
    decode DecodeCtx.max [0b1_000_0000_0000000_0001_000_0_000000000, 0b0_00000010_00000000_0000000000_000_00, 0b0_0000_11111111_000_00000011_00000001, 0] = .illegal .unassigned ∧
    decode { DecodeCtx.max with alloc := 8 } [0b1_000_0000_0000000_0001_000_0_000000000, 0b0_00000010_00000000_0000000000_000_00, 0b0_0000_00000010_000_00001000_00000001, 0] = .illegal .operand ∧
    decode DecodeCtx.max [0b1_000_0000_0000000_0001_000_0_000000000, 0b0_00000010_00000000_0000000000_000_00, 0b0_0000_00000101_100_00000011_00000001, 0] = .illegal .variant := by decide +kernel

/-- Instructions that are not well formed, for the same reasons, and one that is. -/
theorem test_well_formed :
    (Instr.add nx (pl 4 2 0 1 0 0)).wf DecodeCtx.max = true ∧
    (Instr.treeInstruction ⟨0, false, 2, [⟨.eq, .s32, 1, 2, false, false, false, false⟩], [], [⟨.next, 0, 0⟩, ⟨.next, 0, 0⟩], []⟩).wf DecodeCtx.max = false ∧
    (Instr.treeInstruction ⟨0, false, 0, [], [⟨2, { pl 0 3 1 2 0 0 with arc := 1 }⟩], [⟨.next, 0, 0⟩], []⟩).wf DecodeCtx.max = false ∧
    (Instr.treeInstruction ⟨0, false, 0, [], [⟨0xFF, pl 0 3 1 2 0 0⟩], [⟨.next, 0, 0⟩], []⟩).wf DecodeCtx.max = false ∧
    (Instr.add nx (pl 0 8 1 2 0 0)).wf { DecodeCtx.max with alloc := 8 } = false ∧ (Instr.mulhi nx (pl 4 3 1 2 0 0)).wf DecodeCtx.max = false ∧
    (Instr.watchC nx (pl 0 0 0 2 4 0)).wf DecodeCtx.max = false ∧ (Instr.trap nx (pl 0 0xD2 0 0 5 0)).wf DecodeCtx.max = false := by decide +kernel

/-! ## Single steps -/

/-- The registers of a lane after an instruction. -/
def after (i : Instr) (s : State) (j : Nat) : List Nat :=
  match exec i s with
  | .next u => ((u.wave? 1 0).bind (fun w => w.lanes[j]?)).elim [] (fun l => l.v.map (·.val.toNat))
  | _ => []

/-- R47, R100: a sum wraps; with CLP it stops at the end of its range. VAR 0 is `s32`. -/
theorem test_add_wraps :
    after (.add nx (pl 0 2 0 1 0 0)) (two [0x7FFFFFFF, 1, 9] [5, 0xFFFFFFFE, 9] half0) 0 = [0x7FFFFFFF, 1, 0x80000000] ∧
    after (.add nx (pl 0 2 0 1 0 0)) (two [0x7FFFFFFF, 1, 9] [5, 0xFFFFFFFE, 9] half0) 1 = [5, 0xFFFFFFFE, 3] := by decide +kernel

/-- R101: division truncates toward zero; by zero it gives all ones, and the remainder is the dividend. -/
theorem test_div_corners :
    after (.div nx (pl 0 2 0 1 0 0)) (two [0xFFFFFFF9, 2, 9] [7, 0, 9] half0) 0 = [0xFFFFFFF9, 2, 0xFFFFFFFD] ∧
    after (.div nx (pl 0 2 0 1 0 0)) (two [0xFFFFFFF9, 2, 9] [7, 0, 9] half0) 1 = [7, 0, 0xFFFFFFFF] ∧
    after (.rem nx (pl 0 2 0 1 0 0)) (two [0xFFFFFFF9, 2, 9] [7, 0, 9] half0) 1 = [7, 0, 7] ∧
    after (.div nx (pl 0 0 0 1 0 0)) (two [0x80000000, 0xFFFFFFFF] [7, 0xFFFFFFFF] half0) 0 = [0x80000000, 0xFFFFFFFF] := by decide +kernel

/-- R24: a source that is also the destination is read before it is written. -/
theorem test_source_is_destination : after (.sub nx (pl 0 0 1 0 0 0)) (two [3, 10] [1, 1] half0) 0 = [7, 10] := by decide +kernel

/-! ## Witnesses: every statement's hypotheses are met -/

/-- The surroundings of the group at a place, without literals. -/
def envAt (s : State) (l : Loc) : Env :=
  match s.env? l [] with
  | some e => e
  | none => ⟨⟨0, 0, 0, false⟩, teamOf [] [], waveOf [] [], {}, 0, 0, DecodeCtx.max, false, []⟩

theorem env_at {s : State} {l : Loc} (h : (s.env? l []).isSome = true) : s.env? l [] = some (envAt s l) := by
  obtain ⟨e, he⟩ := Option.isSome_iff_exists.mp h
  simp [envAt, he]

/-- The words of `add v2, v0, v1`. -/
def addWords : List Word :=
  [0b1_000_0000_0000000_0001_000_0_000000000, 0b0_00000001_00000000_0000000000_000_00, 0b0_0000_00000010_000_00000010_00000000, 0b0_000_0000_000000000000000000000000]

/-- A team about to issue those words. -/
def wStep : State := (world []).withFetchWord 128 (0b1_000_0000_0000000_0001_000_0_000000000 + 0b0_00000001_00000000_0000000000_000_00 * 2 ^ 32 +
  0b0_0000_00000010_000_00000010_00000000 * 2 ^ 64)

/-- The place that issues there. -/
def wLoc : Loc := ⟨5, 0, 0, false⟩

/-- The state that the step makes of it. -/
def wStep1 : State := ({ wStep.tick with agenda := [] } : State).ldsDue wLoc.team

theorem witness_step_runs_decoded_instruction : ∃ (s : State) (l : Loc) (d : Bool) (r : List Act) (g : Group) (e : Env) (ps : List Word) (i : Instr),
    s.agenda = .only l d :: r ∧ s.tick.group? l = some g ∧ g.st = .ready ∧ (({ s.tick with agenda := r } : State).ldsDue l.team).env? l [] = some e ∧
    (e.g.late = false ∨ l.handler = true) ∧
    (({ s.tick with agenda := r } : State).ldsDue l.team).fetch e.core e.team.ctx e.g.pc.toNat e.g.chooser.toNat = .code ps ∧ decode e.dc ps = .instr i :=
  ⟨wStep, wLoc, false, [], { mask := fullMask 32, pc := 0x10000, st := .ready, chooser := 0x10000 }, envAt wStep1 wLoc, addWords,
    .add nx (pl 0 2 0 1 0 0), rfl, by decide +kernel, rfl, env_at (by decide +kernel), .inl (by decide +kernel), by decide +kernel, by decide +kernel⟩

/-- A posted store to another module that stands in flight. -/
def wFlight : Flight :=
  { id := 2, team := 1, wave := 0, lane := 0, core := 0, ctx := 0, serial := 1, kind := .store, space := .global, va := 64, pa := 64, size := 4, data := 0x01020304, page := some { page0 with kind := 2 } }

theorem witness_step_runs_agenda_events :
    (∃ (s : State) (i : Instr) (r : List Act), s.agenda = .ev i :: r) ∧
    (∃ (s : State) (i : Instr), s.agenda = [] ∧ s.tick.firstQuad = none ∧ s.tick.idleEvent = some i) ∧
    (∃ s : State, s.agenda = [] ∧ s.tick.firstQuad = none ∧ s.tick.idleEvent = none) :=
  ⟨⟨{ world [] with agenda := [.ev .throttleStepUp] }, .throttleStepUp, [], rfl⟩,
   ⟨{ world [] with flights := [wFlight] }, .writePerformed (.flight 2 {}), rfl, by decide +kernel, by decide +kernel⟩,
   ⟨world [], rfl, by decide +kernel, by decide +kernel⟩⟩

/-- The executable page of the team that `withFetchWord` places. -/
theorem witness_fetched_parcels_are_bytes : ∃ (s : State) (core c pc : Nat) (p : Page), let a := s.codePa core (p.phys pc)
    pc % 16 = 0 ∧ pc < 2 ^ 56 ∧ s.fetchPage core c pc = .ok p ∧ s.up p a = true ∧ s.poisoned a 16 = false ∧ p.kind = 0 ∧
    headWords (BitVec.ofNat 32 (Mem.nat s.mem a 4)) = 1 ∧ isHead (BitVec.ofNat 32 (Mem.nat s.mem a 4)) = true :=
  ⟨wStep, 0, 0, 0x10000, probePage, rfl, by decide, rfl, by decide +kernel, by decide +kernel, rfl, by decide +kernel, by decide +kernel⟩

theorem witness_decode_of_encode : ∃ x i t, Instr.wf x i = true ∧ i.tree? = some t := ⟨DecodeCtx.max, .add nx (pl 0 2 0 1 0 0), _, by decide +kernel, rfl⟩

theorem witness_encode_of_decode : ∃ x h r i, decode x (h :: r) = .instr i ∧ 4 * headWords h ≤ (h :: r).length :=
  ⟨DecodeCtx.max, 0b1_000_0000_0000000_0001_000_0_000000000, addWords.drop 1, .add nx (pl 0 2 0 1 0 0), by decide +kernel, by decide +kernel⟩

/-- `add v2, v0, v1` in two lanes, and what it writes. -/
def wAdd : Payload := pl 0 2 0 1 0 0
def wAddS : State := two [7, 5, 3] [1, 2, 3] half0

/-- Met by ClassALanesAndScalars, ClassAFrame and PathWritesDestinationsOnly. -/
theorem witness_class_a : ∃ i t s e, Goes i t s e ∧ classAOps t = true :=
  ⟨.add nx wAdd, Tree.one .add nx wAdd, wAddS, _, goes_of rfl (by decide +kernel) (by decide +kernel) (by decide +kernel), by decide +kernel⟩

theorem witness_class_a_result : ∃ (i : Instr) (k : Opcode) (h : Head) (p : Payload) (s : State) (e : Env) (j a b c d v : Nat) (l : Lane),
    Goes i (Tree.one k h p) s e ∧ opClass k.byte = .A ∧ h.leaf.kind ≠ .call ∧ h.leaf.kind ≠ .callInd ∧
    (p.d.toNat < 0xD0 ∨ 0xE0 ≤ p.d.toNat) ∧ p.arc = 0 ∧
    j ∈ e.lanes ∧ laneAt s e.loc j = some l ∧ e.sources s.draw (start e j) k p = .ok (a, b, c, d) ∧ classA k p (inputs e a b c d) = .ok v :=
  ⟨.add nx wAdd, .add, nx, wAdd, wAddS, envOf wAddS (Tree.one .add nx wAdd), 0, 7, 5, 0, 0, 12, laneOf [7, 5, 3],
    goes_of rfl (by decide +kernel) (by decide +kernel) (by decide +kernel), by decide +kernel, by decide, by decide, by decide, rfl, by decide +kernel, by decide +kernel, rfl, by decide +kernel⟩

theorem witness_scalar_takes_lowest_lane : ∃ (i : Instr) (k : Opcode) (h : Head) (p : Payload) (s : State) (e : Env) (j a b c d v : Nat) (l : List Word),
    Goes i (Tree.one k h p) s e ∧ opClass k.byte = .A ∧ 0xE0 ≤ p.d.toNat ∧ p.arc = 0 ∧ h.leaf.kind ≠ .call ∧ h.leaf.kind ≠ .callInd ∧
    e.lanes.head? = some j ∧ scalarsAt s e.loc = some l ∧ l.length = 32 ∧
    e.sources s.draw (start e j) k p = .ok (a, b, c, d) ∧ classA k p (inputs e a b c d) = .ok v ∧ (dWide (k.shape e.dc p).d = true → p.d.toNat < 0xFF) :=
  ⟨.add nx (pl 0 0xFF 0 1 0 0), .add, nx, pl 0 0xFF 0 1 0 0, wAddS, envOf wAddS (Tree.one .add nx (pl 0 0xFF 0 1 0 0)), 0, 7, 5, 0, 0, 12, List.replicate 32 0,
    goes_of rfl (by decide +kernel) (by decide +kernel) (by decide +kernel), by decide +kernel, by decide, rfl, by decide, by decide, by decide +kernel, by decide +kernel, rfl, rfl, by decide +kernel, by decide +kernel⟩

theorem witness_integer_operations :
    (∃ (p : Payload) (x : AIn), p.v < 4 ∧ srcB p x ≠ 0) ∧ (∃ (p : Payload) (x : AIn), p.v < 4 ∧ srcB p x = 0) ∧
    (∃ (p : Payload) (x : AIn), tySigned p.v = true ∧ srcA p x = -(2 ^ (tyBits p.v - 1)) ∧ srcB p x = -1) ∧
    (∃ p : Payload, tySigned p.v = true ∧ p.aa = false ∧ p.na = false) ∧ (∃ p : Payload, tySigned p.v = true ∧ p.aa = true ∧ p.na = false) ∧
    (∃ p : Payload, tySigned p.v = true ∧ p.aa = false ∧ p.na = true) ∧ (∃ p : Payload, tySigned p.v = true ∧ p.aa = true ∧ p.na = true) :=
  ⟨⟨pl 3 0 0 0 0 0, { a := 1, b := 1 }, by decide⟩, ⟨pl 3 0 0 0 0 0, { a := 1 }, by decide⟩,
   ⟨pl 0 0 0 0 0 0x100, { a := 0x80000000, b := 0xFFFFFFFF }, by decide⟩, ⟨pl 0 0 0 0 0 0, by decide⟩, ⟨pl 0 0 0 0 0 0x100, by decide⟩,
   ⟨pl 2 0 0 0 0 0x200, by decide⟩, ⟨pl 2 0 0 0 0 0x300, by decide⟩⟩

theorem witness_bit_operations :
    (∃ (p : Payload) (i : Nat), p.v < 4 ∧ i < tyBits p.v) ∧
    (∃ (x : DecodeCtx) (k : Opcode) (h : Head) (p : Payload), k ∈ [Opcode.and, .or, .xor, .andn, .not, .shl, .shr, .rot, .bfe, .bfi, .popc, .clz, .ctz, .brev] ∧
      (Tree.one k h p).illegal? x = none) :=
  ⟨⟨pl 3 0 0 0 0 0, 63, by decide⟩, ⟨DecodeCtx.max, .bfi, nx, pl 3 0 2 4 6 0, by decide⟩⟩

theorem witness_address_and_byte_results : ∃ p : Payload, (p.v = 2 ∨ p.v = 3) ∧ p.clp = false ∧ p.na = false ∧ p.aa = false ∧ p.c.toNat < 8 :=
  ⟨pl 3 0 0 0 7 0, by decide⟩

theorem witness_rounding_modes : (2 * (roundShift .rne false 3 1 * 2 ^ 1 - (3 : Int)) = 2 ^ 1 ∨ 2 * ((3 : Int) - roundShift .rne false 3 1 * 2 ^ 1) = 2 ^ 1) := by decide

theorem witness_float_special_values :
    (∃ (p : Payload) (a : Nat), p.v = 4 ∧ p.na = false ∧ p.aa = false ∧ p.nb = false ∧ p.ab = false ∧ FFmt.f32.read (a % 2 ^ FFmt.f32.bits) = .nan) ∧
    (∃ (p : Payload) (a b : Nat), p.v = 5 ∧ p.na = false ∧ p.aa = false ∧ p.nb = false ∧ p.ab = false ∧ FFmt.f64.read (a % 2 ^ FFmt.f64.bits) = .inf false ∧
      FFmt.f64.read (b % 2 ^ FFmt.f64.bits) = .inf true) ∧
    (∃ (p : Payload) (x : AIn) (n s : Bool) (m : Nat) (g : Int), p.v = 4 ∧ p.na = false ∧ p.aa = false ∧ p.nb = false ∧ p.ab = false ∧ p.clp = false ∧ (Fmt.of x.fmt).ftz = false ∧
      FFmt.f32.read (x.a % 2 ^ FFmt.f32.bits) = .fin n m g ∧ m ≠ 0 ∧ FFmt.f32.read (x.b % 2 ^ FFmt.f32.bits) = .fin s 0 (1 - (FFmt.f32.bias : Int) - FFmt.f32.mb)) :=
  ⟨⟨pl 4 0 0 0 0 0, 0x7FC00000, by decide⟩, ⟨pl 5 0 0 0 0 0, 0x7FF0000000000000, 0xFFF0000000000000, by decide⟩,
   ⟨pl 4 0 0 0 0 0, { a := 0x3F800000, b := 0x80000000 }, false, true, 0x800000, -23, by decide⟩⟩

theorem witness_conversion_to_integer :
    (∃ p : Payload, p.c = 0xA0 ∧ p.b = 0 ∧ p.na = false ∧ p.aa = false ∧ p.scl = 0) ∧ FFmt.f32.readZ false 0x7FC00000 = .nan ∧ FFmt.f32.readZ false 0x7F800000 = .inf false ∧
    FFmt.f32.readZ false 0xFF800000 = .inf true ∧ 2 ^ 31 ≤ (FFmt.f32.readZ false 0x4F000000).toInt .rtz ∧ (FFmt.f32.readZ false 0xCF000001).toInt .rtz < -(2 ^ 31) ∧
    -(2 ^ 31) ≤ (FFmt.f32.readZ false 0xCF000000).toInt .rtz :=
  ⟨⟨pl 0 0 0 0 0xA0 0, by decide⟩, by decide, by decide, by decide, by decide, by decide, by decide⟩

/-- A block of two node records: record 0 asks whether feature 0 is below 1.0 and goes to record 1 or 2; record 1 is a leaf of value 1.0. -/
def wNodes : Mem := ((Mem.putNat [] 0 16 (0x3F800000 * 2 ^ 32 + 1 * 2 ^ 64 + 2 * 2 ^ 76)).putNat 16 16 (2 ^ 17 + 0x3F800000 * 2 ^ 32))

theorem witness_forest_results :
    (∃ a, nbit a 31 = true ∧ nbits a 12 19 = 0) ∧ (∃ a, nbit a 31 = false ∧ nbits a 12 19 ≠ 0) ∧ (∃ a, nbit a 31 = false ∧ nbits a 12 19 = 0) ∧
    (∃ x : AIn, x.b % 16 = 0 ∧ x.scrSize < x.b % 2 ^ 32 + 16 * (x.a % 4096) + 16 ∧ nbit x.a 31 = false) ∧ (∃ x : AIn, nodeIn x (x.a % 4096) ∧ nbit (nodeRec x (x.a % 4096)) 17 = true) ∧
    (∃ (p : Payload) (x : AIn), let r := nodeRec x (x.a % 4096); let a := x.c % 2 ^ 32 + 4 * nbits r 0 16; let j := if nodeLeft x r (x.scr.nat a 4) then nbits r 64 12 else nbits r 76 12
      nodeIn x (x.a % 4096) ∧ nbit r 17 = false ∧ a % 4 = 0 ∧ a + 4 ≤ x.scrSize ∧ a < 2 ^ 32 ∧ p.v = 0 ∧ nodeIn x j ∧ j = 1) ∧
    (∃ p q : Payload, q.v + 1 = p.v) ∧
    (∃ x : AIn, nbit x.c 31 = true ∧ nbits x.c 12 19 = 0 ∧ nodeIn x (x.c % 4096) ∧ (Fmt.of x.fmt).fte = false) ∧
    (∃ (p : Payload) (x : AIn), x.b % 4 = 0 ∧ x.b % 2 ^ 32 + 4 * (p.c.toNat + 1) ≤ x.scrSize ∧ srcF32 p x = .nan) ∧
    (∃ (p : Payload) (x : AIn), x.b % 4 = 0 ∧ x.b % 2 ^ 32 + 4 * (p.c.toNat + 1) ≤ x.scrSize ∧ srcF32 p x ≠ .nan) ∧
    (∃ (p : Payload) (x : AIn), x.b % 4 = 0 ∧ x.scrSize < x.b % 2 ^ 32 + 4 * (p.c.toNat + 1)) ∧
    (∃ (p : Payload) (y : DecodeCtx) (h : Head), (Tree.one .fcross h p).illegal? y = none) ∧ (∃ b, b % 4 ≠ 0) ∧
    (∃ x : AIn, x.b % 16 = 0 ∧ x.scrSize < x.b % 2 ^ 32 + 16) ∧ (∃ b, b % 16 ≠ 0) :=
  ⟨⟨0x80000000, by decide⟩, ⟨0x1000, by decide⟩, ⟨0xFFF, by decide⟩, ⟨{ a := 1, scrSize := 31 }, by decide⟩, ⟨{ scr := wNodes, a := 1, scrSize := 48 }, by unfold nodeIn; decide +kernel⟩,
   ⟨pl 0 0 0 0 0 0, { a := 0, scr := wNodes, c := 32, scrSize := 48 }, by unfold nodeIn; decide +kernel⟩, ⟨pl 1 0 0 0 0 0, pl 0 0 0 0 0 0, by decide⟩,
   ⟨{ a := 0, scr := wNodes, c := 0x80000001, scrSize := 48 }, by unfold nodeIn; decide +kernel⟩,
   ⟨pl 4 0 0 0 0 0, { a := 0x7FC00000, b := 8, scrSize := 12 }, by decide⟩, ⟨pl 4 0 0 0 1 0, { a := 0x3F800000, b := 8, scrSize := 16 }, by decide⟩,
   ⟨pl 4 0 0 0 1 0, { a := 0, b := 8, scrSize := 15 }, by decide⟩, ⟨pl 1 0 2 4 6 0, DecodeCtx.max, nx, by decide⟩, ⟨1, by decide⟩, ⟨{ a := 0, scrSize := 15 }, by decide⟩, ⟨8, by decide⟩⟩

/-- `lds v2, [v0 + zero + 4]`, and two lanes whose v0 is an offset; the scratchpad holds eight bytes at 0. -/
def wLds : Payload := pl 4 2 0 0xD2 0 4
def wHalf : Half := { half0 with scr := Sparse.writeList [] 0 (leBytes 8 0x1122334455667788) }
def wLdsS : State := two [0, 9, 9, 9] [4, 9, 9, 9] wHalf
/-- `stg [v0:v1], v2`, `ldg` of 64 bits, and pages that are mapped as plain, tracked or uncached memory. -/
def wStg : Payload := pl 4 0 0 0xD2 2 0
def wLdg : Payload := pl 5 2 0 0xD2 0 8
def wStgS (k : Nat) : State := mapped k (two [0x40, 0, 0xAABBCCDD, 0, 0] [0x48, 0, 0x11223344, 0, 0] half0)
/-- `atmg.add` without a result. -/
def wAtmg : Payload := pl 0 0 0 2 0 2

theorem witness_access_addresses : ∃ (k : Opcode) (i : Instr) (h : Head) (p : Payload) (s : State) (e : Env) (ms : List MAcc) (m : MAcc),
    (k = .lds ∧ Accepted i (Tree.one k h p) s e ∧ asked s (Tree.one k h p) e = [ms] ∧ m ∈ ms) ∧
    (∃ p s e ms m, Accepted (.ldg h p) (Tree.one .ldg h p) s e ∧ asked s (Tree.one .ldg h p) e = [ms] ∧ m ∈ ms) ∧
    (∃ p s e ms m, Accepted (.atmg h p) (Tree.one .atmg h p) s e ∧ asked s (Tree.one .atmg h p) e = [ms] ∧ m ∈ ms) :=
  ⟨.lds, .lds nx wLds, nx, wLds, wLdsS, envOf wLdsS (Tree.one .lds nx wLds), _, _,
    ⟨rfl, accepted_of rfl (by decide +kernel) (by decide +kernel) (by decide +kernel), rfl, List.mem_cons_self⟩,
   ⟨wLdg, wStgS 0, _, _, _, accepted_of rfl (by decide +kernel) (by decide +kernel) (by decide +kernel), rfl, List.mem_cons_self⟩,
   ⟨wAtmg, wStgS 0, _, _, _, accepted_of rfl (by decide +kernel) (by decide +kernel) (by decide +kernel), rfl, List.mem_cons_self⟩⟩

/-- Three forms: a 64-bit load, a store to tracked memory, an atomic without acquire order. -/
theorem witness_transactions_start : ∀ x ∈ [(Opcode.ldg, Instr.ldg nx wLdg, wLdg, wStgS 0), (.stg, .stg nx wStg, wStg, wStgS 2), (.atmg, .atmg nx wAtmg, wAtmg, wStgS 0)],
    ∃ e ms, Accepted x.2.1 (Tree.one x.1 nx x.2.2.1) x.2.2.2 e ∧ asked x.2.2.2 (Tree.one x.1 nx x.2.2.1) e = [ms] ∧ ms.all (fun m => (starts x.1 m).isSome) = true ∧
      startsAll x.2.2.2 e x.1 ms = true ∧ nx.leaf.kind ≠ .call ∧ nx.leaf.kind ≠ .callInd := by
  intro x hx
  simp only [List.mem_cons, List.not_mem_nil, or_false] at hx
  rcases hx with rfl | rfl | rfl
  all_goals exact ⟨_, _, accepted_of rfl (by decide +kernel) (by decide +kernel) (by decide +kernel), rfl, by decide +kernel, by decide +kernel, by decide, by decide⟩

/-- An `lds` result that is due, and an older one for the same register. -/
def wDue : LdsPend := { id := 9, wave := 0, dest := 2, vals := [(0, 5), (1, 6)], due := 0, fromHandler := false }
def wDueT : Team := { teamOf [waveOf [laneOf [0, 9, 9], laneOf [4, 9, 9]] [groupOf 3 0x1000]] [wHalf] with lds := [{ wDue with id := 8 }, wDue] }

theorem witness_scratchpad_loads :
    (∃ (i : Instr) (h : Head) (p : Payload) (s : State) (e : Env) (m0 : MAcc) (r : List MAcc),
      Accepted i (Tree.one .lds h p) s e ∧ asked s (Tree.one .lds h p) e = [m0 :: r] ∧ h.leaf.kind ≠ .call ∧ h.leaf.kind ≠ .callInd) ∧
    (∃ (s : State) (t id : Nat) (x : Team) (o : List LdsPend) (q : LdsPend) (y : Wave), s.team? t = some x ∧ x.ldsUpTo id = o ++ [q] ∧ q.id = id ∧ o ≠ [] ∧ q.fromHandler = false ∧
      q.dest < 0xC0 ∧ x.waves[q.wave]? = some y ∧ comesTo s t q.wave q.due = true ∧ (q.vals.map Prod.fst).Nodup) :=
  ⟨⟨.lds nx wLds, nx, wLds, wLdsS, _, _, _, accepted_of rfl (by decide +kernel) (by decide +kernel) (by decide +kernel), rfl, by decide, by decide⟩,
   ⟨world [wDueT], 1, 9, wDueT, [{ wDue with id := 8 }], wDue, _, rfl, rfl, rfl, by decide, rfl, by decide, rfl, by decide +kernel, by decide⟩⟩

def wSts : Payload := pl 4 0 0 0xD2 2 0

def wStgT : Tree := Tree.one .stg nx wStg
def wStgM : List MAcc := (asked (wStgS 0) wStgT (envOf (wStgS 0) wStgT)).headD []

theorem witness_stores_at_issue :
    (∃ (i : Instr) (h : Head) (p : Payload) (s : State) (e : Env) (ms : List MAcc),
      Accepted i (Tree.one .sts h p) s e ∧ asked s (Tree.one .sts h p) e = [ms] ∧ h.leaf.kind ≠ .call ∧ h.leaf.kind ≠ .callInd) ∧
    (∃ (i : Instr) (h : Head) (p : Payload) (s : State) (e : Env) (ms : List MAcc) (n : Nat) (m : MAcc),
      Accepted i (Tree.one .stg h p) s e ∧ asked s (Tree.one .stg h p) e = [ms] ∧ (∀ x ∈ ms, x.page.elim false (fun q => q.kind == 0) = true) ∧
      (∀ x ∈ ms, x.pa % widthBytes p.v = 0) ∧ e.core < s.cores.length ∧ (s.core e.core).l1.length + ms.length ≤ l1Lines ∧
      (∀ x ∈ ms, inSet s e.team.serial x.pa = true) ∧ ms[n]? = some m ∧
      (∀ n' m', n < n' → ms[n']? = some m' → m'.pa ≠ m.pa) ∧ (∀ g ∈ s.flights, g.team ≠ e.loc.team ∨ g.wave ≠ e.loc.wave)) :=
  ⟨⟨.sts nx wSts, nx, wSts, wLdsS, _, _, accepted_of rfl (by decide +kernel) (by decide +kernel) (by decide +kernel), rfl, by decide, by decide⟩,
   ⟨.stg nx wStg, nx, wStg, wStgS 0, envOf (wStgS 0) wStgT, wStgM, 1, _, accepted_of rfl (by decide +kernel) (by decide +kernel) (by decide +kernel), rfl, by decide +kernel, by decide +kernel, by decide +kernel, by decide +kernel, by decide +kernel, rfl,
     fun n' m' h hm => by have := (List.getElem?_eq_some_iff.mp hm).1; have hl : wStgM.length = 2 := (by decide +kernel); exact absurd this (by omega), by decide +kernel⟩⟩

/-- A group that waits for STALL, one that has yielded, and one that waits for a page. -/
def wStall (till : Nat) : State := world [teamOf [waveOf [laneOf []] [{ groupOf 1 0 with st := .stalled, wait := .stall till }, groupOf 0 0]] [half0]]
def wYield (till : Nat) : State := world [teamOf [waveOf [laneOf []] [{ groupOf 1 0 with yieldTill := till }]] [half0]]
def wWalk : Team := teamOf [waveOf [laneOf []] [{ groupOf 1 0 with st := .stalled, wait := .walk [7] }]] [half0]

theorem witness_waits_end :
    (∃ s g, State.group? s (locOf 1 0 0) = some g ∧ g.st = .stalled ∧ g.wait = .stall 0 ∧ comesTo s 1 0 0 = true) ∧
    (∃ s g, State.group? s (locOf 1 0 0) = some g ∧ g.st = .stalled ∧ g.wait = .stall 9 ∧ comesTo s 1 0 9 = false) ∧
    (∃ s g, State.group? s (locOf 1 0 0) = some g ∧ g.yieldTill = 1 ∧ comesTo { s with cores := [{ quads := [{ cyc := 1 }, {}, {}, {}] }] } 1 0 1 = true) ∧
    (∃ s g, State.group? s (locOf 1 0 0) = some g ∧ g.yieldTill = 9 ∧ comesTo s 1 0 9 = false) ∧
    (∃ (s : State) (t w slot page : Nat) (x : Team) (y : Wave) (g : Group), s.team? t = some x ∧ x.waves[w]? = some y ∧ y.slots[slot]? = some g ∧ g.st = .stalled ∧
      g.wait = .walk [page] ∧ x.onCore = true ∧ x.coreOf y < s.cores.length ∧ page < hostTag) :=
  ⟨⟨wStall 0, _, rfl, rfl, rfl, by decide +kernel⟩, ⟨{ wStall 9 with teams := (wStall 9).teams ++ [{ teamOf [waveOf [laneOf []] [groupOf 1 0]] [half0] with id := 2 }] }, _, rfl, rfl, rfl, by decide +kernel⟩,
   ⟨wYield 1, _, rfl, rfl, by decide +kernel⟩, ⟨wYield 9, _, rfl, rfl, by decide +kernel⟩, ⟨world [wWalk], 1, 0, 0, 7, wWalk, _, _, rfl, rfl, rfl, rfl, rfl, rfl, by decide +kernel, by decide +kernel⟩⟩

/-- A load in flight, a reduction in flight, and the lane that they return to. -/
def wLoad : Flight := { wFlight with kind := .load, data := 0, dest := some 2, page := some page0 }
def wSred : Flight := { wLoad with kind := .sred, cmp := 1, ty := 4, op := 1 }
def wLoadS (f : Flight) : State := { two [0, 0, 9] [0, 0, 9] half0 with flights := [f] }

/-- Each answer: a value, a mark, the home's bytes, a reduction. -/
def wArrives (f : Flight) : Prop :=
  alone (wLoadS f) f = true ∧ f.dest = some 2 ∧ f.wide = false ∧ f.fromHandler = false ∧ regAt (wLoadS f) f.team f.wave f.lane 2 = some ⟨9, false, 0⟩ ∧ (wLoadS f).waitsTeam f = false

theorem witness_data_arrives :
    (∃ f, wArrives f ∧ f.fixed = some 7 ∧ f.mark = 0) ∧ (∃ f, wArrives f ∧ f.fixed = some 0 ∧ f.mark ≠ 0 ∧ f.mark < 256) ∧
    (∃ f p, wArrives f ∧ f.fixed = none ∧ f.sent = false ∧ f.kind = .load ∧ f.space = .global ∧ f.page = some p ∧ p.kind = 0 ∧ (((wLoadS f).core f.core).line (lineOf f.pa)).valid = 0 ∧
      (wLoadS f).up p f.pa = true ∧ (wLoadS f).poisoned f.pa f.size = false ∧ f.pa % 128 + f.size ≤ 128 ∧ 0 < f.size ∧ f.core < (wLoadS f).cores.length ∧ f.mark = 0 ∧
      ((wLoadS f).core f.core).l1.length < l1Lines) ∧
    (∃ f p, let v := (wLoadS f).evictRange f.core f.pa (4 * f.cmp)
      alone (wLoadS f) f = true ∧ f.dest = some 2 ∧ f.wide = false ∧ f.sext = false ∧ f.fromHandler = false ∧ v.flight? f.id = some f ∧
      regAt v f.team f.wave f.lane 2 = some ⟨9, false, 0⟩ ∧ v.waitsTeam f = false ∧
      f.kind = .sred ∧ f.space = .global ∧ f.page = some p ∧ f.fixed = none ∧ f.sent = false ∧ f.mark = 0 ∧ v.up p f.pa = true ∧ v.poisoned f.pa (4 * f.cmp) = false) :=
  ⟨⟨{ wLoad with fixed := some 7 }, by unfold wArrives; decide +kernel⟩, ⟨{ wLoad with fixed := some 0, mark := 0x0C }, by unfold wArrives; decide +kernel⟩,
   ⟨wLoad, page0, by unfold wArrives; decide +kernel⟩, ⟨wSred, page0, by decide +kernel⟩⟩

/-- A line with dirty bytes in core 0, and a wave with a store that has not left it. -/
def wLineS : State := { world [] with cores := [{ l1 := [{ line := 1, valid := 0xFF, dirty := 0xF, data := 0x01020304 }] }] }
def wSbufT : Team := teamOf [{ waveOf [laneOf []] [] with sbuf := [⟨0, 4, [1, 2]⟩] }] [half0]

/-- What a function of 8 registers and waves of 16 lanes declares. -/
def wFunc : Func := ⟨0x10000, 8, 0, 0, 0, 16, false, 0x10000, 0x20000, [], false⟩
/-- A launch that can be replayed, whose writable set is 68 bytes from 0; stores to it and beside it, to the other scratchpad of a twin team, to the host and to another module. -/
def wReplay : Launch := { serial := 1, queue := 256, index := 0, ctx := 0, ent := 2 ^ 184, fn := wFunc, st := .started, marked := [(0, 68)], snaps := [⟨0, 68, [], [], [], []⟩] }
def wStoreS (f : Flight) : State := { world [teamOf [waveOf [laneOf []] []] [half0]] with flights := [f], launches := [wReplay] }
def wPlain (pa : Nat) : Flight := { wFlight with pa := pa, page := some { page0 with kind := 2 } }
def wAway (sp : Space) (va : Nat) : Flight := { wFlight with space := sp, va := va }

theorem witness_writes_are_performed :
    (∃ (s : State) (f : Flight) (p : Page), Memory.wf s.mem = true ∧ alone s f = true ∧ f.kind = .store ∧ f.space = .global ∧ f.page = some p ∧ f.fixed = none ∧ f.sent = false ∧
      f.dest = none ∧ s.up p f.pa = true ∧ 0 < f.size ∧ s.partPoison f.pa f.size = false ∧ inSet s f.serial f.pa = true ∧ (s.launch? f.serial).isSome = true) ∧
    (∃ (s : State) (f : Flight) (p : Page), alone s f = true ∧ f.kind = .store ∧ f.space = .global ∧ f.page = some p ∧ f.fixed = none ∧ f.sent = false ∧
      f.dest = none ∧ s.up p f.pa = true ∧ 0 < f.size ∧ s.partPoison f.pa f.size = false ∧ inSet s f.serial f.pa = false) ∧
    (∃ (s : State) (f : Flight) (k : Half), alone s f = true ∧ f.kind = .store ∧ f.fixed = none ∧ f.sent = false ∧ f.dest = none ∧ f.space = .twin ∧ s.half? f.team f.half = some k ∧ k.bars = []) ∧
    (∃ (s : State) (f : Flight), alone s f = true ∧ f.kind = .store ∧ f.fixed = none ∧ f.sent = false ∧ f.dest = none ∧ f.space = .host ∧ Sparse.wf s.hostMem = true) ∧
    (∃ (s : State) (f : Flight), alone s f = true ∧ f.kind = .store ∧ f.fixed = none ∧ f.sent = false ∧ f.dest = none ∧ f.space = .remote ∧ nbits f.va 56 8 ≠ s.mid ∧ 0 < f.size ∧ f.va % 2 ^ 56 + f.size ≤ 2 ^ 56) ∧
    (∃ (s : State) (core pa : Nat), Memory.wf s.mem = true ∧ core < s.cores.length ∧ s.served (s.homeDie (128 * lineOf pa) false) = true ∧ ((s.core core).line (lineOf pa)).dirty ≠ 0 ∧
      s.poison.contains (lineOf pa) = false ∧ ∀ a, lineOf a = lineOf pa → inSet s ((s.core core).line (lineOf pa)).serial a = true) ∧
    (∃ (s : State) (core pa : Nat), s.poison.contains (lineOf pa) = true ∧ ((s.core core).line (lineOf pa)).dirty = BitVec.allOnes 128) ∧
    (∃ (s : State) (t w : Nat) (x : Team) (y : Wave), s.team? t = some x ∧ x.waves[w]? = some y ∧ (∀ h ∈ x.halves, h.bars = []) ∧ y.sbuf ≠ []) :=
  ⟨⟨wStoreS (wPlain 64), wPlain 64, { page0 with kind := 2 }, by decide +kernel⟩, ⟨wStoreS (wPlain 68), wPlain 68, { page0 with kind := 2 }, by decide +kernel⟩,
   ⟨wStoreS (wAway .twin 64), wAway .twin 64, half0, by decide +kernel⟩, ⟨wStoreS (wAway .host 64), wAway .host 64, by decide +kernel⟩,
   ⟨wStoreS (wAway .remote (2 ^ 56)), wAway .remote (2 ^ 56), by decide +kernel⟩,
   ⟨wLineS, 0, 128, by decide +kernel, by decide +kernel, by decide +kernel, by decide +kernel, by decide +kernel, fun _ _ => rfl⟩,
   ⟨{ wLineS with poison := [1], cores := [{ l1 := [{ line := 1, valid := BitVec.allOnes 128, dirty := BitVec.allOnes 128, data := 1 }] }] }, 0, 128, by decide +kernel⟩,
   ⟨world [wSbufT], 1, 0, wSbufT, _, rfl, rfl, by decide, by decide⟩⟩

theorem witness_barrier_phases :
    (∃ (b : Bar) (n k : Nat), n ≤ b.parr ∧ b.pbytes + k < 2 ^ 32 ∧ b.parr = n ∧ b.pbytes + k = 0) ∧ (∃ (b : Bar) (n k : Nat), n ≤ b.parr ∧ b.pbytes + k < 2 ^ 32 ∧ b.pbytes + k ≠ 0) ∧
    (∃ (b : Bar) (n : Nat), n > b.parr ∧ b.parr ≠ 0) ∧ (∃ (b : Bar) (k : Nat), k ≤ b.pbytes ∧ b.parr ≠ 0) ∧ (∃ (b : Bar) (k : Nat), k ≤ b.pbytes ∧ b.parr = 0) ∧ (∃ (b : Bar) (k : Nat), k > b.pbytes) :=
  ⟨⟨⟨false, 0, 0, 0, 1, 1, 0⟩, 1, 0, by decide⟩, ⟨⟨false, 0, 0, 0, 1, 1, 0⟩, 1, 2 ^ 32 - 1, by decide⟩, ⟨⟨false, 0, 0, 0, 1, 1, 0⟩, 2, by decide⟩,
   ⟨⟨false, 0, 0, 4, 1, 1, 0⟩, 4, by decide⟩, ⟨⟨false, 0, 0, 4, 1, 0, 0⟩, 4, by decide⟩, ⟨⟨false, 0, 0, 4, 1, 0, 0⟩, 5, by decide⟩⟩

/-- A half with a work-list front, a copy ring and an index descriptor at offset 0: BOUND 10, FILL 7, SOFF 0x200, no barrier. -/
def wIdx : Nat := 0x8000 + 10 * 2 ^ 64 + 7 * 2 ^ 96 + 0x200 * 2 ^ 128 + 0x1FFFF * 2 ^ 160
def wFront : Ring := { ctl := 0x100, base := 0x120, depth := 8, list := 0x4000 }
def wRing : Ring := { ctl := 0x300, base := 0x320, depth := 4 }
def wPostH : Half := { half0 with fronts := [some wFront, none, none, none], ring := some wRing, scr := Sparse.writeList [] 0 (leBytes 32 wIdx) }
def wPostS : State := two [0, 3, 9, 9] [0, 12, 9, 9] wPostH

/-- A gather of two lanes, and a pop of one coordinate each. -/
theorem witness_posts_enter_their_queues : ∀ x ∈ [(Opcode.idxg, Instr.idxg nx (pl 0 0 0 1 0 0), pl 0 0 0 1 0 0), (.wlpop, .wlpop nx (pl 0 2 0 0 5 0), pl 0 2 0 0 5 0)],
    ∃ e m0 r w y, Accepted x.2.1 (Tree.one x.1 nx x.2.2) wPostS e ∧ asked wPostS (Tree.one x.1 nx x.2.2) e = [m0 :: r] ∧ postWork wPostS e x.1 x.2.2 m0 (m0 :: r) = some w ∧
      halfOf wPostS e = some y ∧ nx.leaf.kind ≠ .call ∧ nx.leaf.kind ≠ .callInd ∧ x.2.2.d.toNat < 0xE0 := by
  intro x hx
  simp only [List.mem_cons, List.not_mem_nil, or_false] at hx
  rcases hx with rfl | rfl
  all_goals exact ⟨_, _, _, _, _, accepted_of rfl (by decide +kernel) (by decide +kernel) (by decide +kernel), rfl, rfl, rfl, by decide, by decide, by decide⟩

/-- `cpy.1d` of 16 bytes from the scratchpad to the scratchpad without a barrier, the addresses in v0:v1 and v2:v3, and `qword` of a bin staging area. -/
def wCpy : Payload := pl 0 0xD2 0 2 4 0
def wCpyS : State := two [0x400, 0, 0x500, 0, 16] [0x400, 0, 0x500, 0, 16] wPostH
def wQw : Payload := pl 3 0 0 2 4 0
def wQwS : State := two [0x600, 0, 0x620, 0, 4] [0x600, 0, 0x620, 0, 4] wPostH

theorem witness_rings_and_queues :
    (∃ (i : Instr) (k : Opcode) (h : Head) (p : Payload) (s : State) (e : Env) (m0 : MAcc) (r : List MAcc) (x : Half) (q : Ring) (z : QSlot),
      (k = .cpy1d ∨ k = .cpyE) ∧ Accepted i (Tree.one k h p) s e ∧ asked s (Tree.one k h p) e = [m0 :: r] ∧ halfOf s e = some x ∧ x.ring = some q ∧ m0.ent = some z) ∧
    (∃ (i : Instr) (h : Head) (p : Payload) (s : State) (e : Env) (m0 : MAcc) (r : List MAcc) (x : Half),
      Accepted i (Tree.one .qword h p) s e ∧ asked s (Tree.one .qword h p) e = [m0 :: r] ∧ halfOf s e = some x ∧ x.fronts.length = 4 ∧ p.v < 4) :=
  ⟨⟨.cpy1d nx wCpy, .cpy1d, nx, wCpy, wCpyS, envOf wCpyS (Tree.one .cpy1d nx wCpy), _, _, _, _, _, .inl rfl, accepted_of rfl (by decide +kernel) (by decide +kernel) (by decide +kernel), rfl, rfl, rfl, rfl⟩,
   ⟨.qword nx wQw, nx, wQw, wQwS, _, _, _, _, accepted_of rfl (by decide +kernel) (by decide +kernel) (by decide +kernel), rfl, rfl, rfl, by decide⟩⟩

/-- A barrier at 0x40 with two arrivals expected. -/
def wBar : Bar := ⟨false, 0, 0, 0, 2, 2, 0⟩
def wBarH : Half := { half0 with scr := wBar.put (Sparse.writeList [] 0x80 (leBytes 8 0x100)) 0x40, bars := [0x40] }
def wBarS : State := mapped 0 (two [0x40, 1, 0x80, 0, 5, 0] [0x40, 1, 0x80, 0, 5, 0] wBarH)

theorem witness_barriers_and_watches :
    (∃ p e m0 r x, Accepted (.barInit nx p) (Tree.one .barInit nx p) wBarS e ∧ asked wBarS (Tree.one .barInit nx p) e = [m0 :: r] ∧
      halfOf (wBarS.flushScr e.loc.team e.loc.wave) e = some x) ∧
    (∃ p e m0 r x, Accepted (.barArr nx p) (Tree.one .barArr nx p) wBarS e ∧ asked wBarS (Tree.one .barArr nx p) e = [m0 :: r] ∧
      halfOf (wBarS.releaseWave e.loc.team e.loc.wave 1) e = some x) ∧
    (∃ p e m0 r x, Accepted (.barExp nx p) (Tree.one .barExp nx p) wBarS e ∧ asked wBarS (Tree.one .barExp nx p) e = [m0 :: r] ∧
      halfOf (wBarS.flushScr e.loc.team e.loc.wave) e = some x) ∧
    (∃ p e m0 r x, Accepted (.watchA nx p) (Tree.one .watchA nx p) wBarS e ∧ asked wBarS (Tree.one .watchA nx p) e = [m0 :: r] ∧ wBarS.team? e.loc.team = some x) ∧
    (∃ p e m0 r x, Accepted (.watchC nx p) (Tree.one .watchC nx p) wBarS e ∧ asked wBarS (Tree.one .watchC nx p) e = [m0 :: r] ∧ wBarS.team? e.loc.team = some x ∧
      wBarS.word8 ((m0.page.filter (fun q => q.kind == 3)).map (·.mset)) ((m0.words.head?).getD 0) < m0.q.c) ∧
    (∃ p e m0 r x z, Accepted (.watchC nx p) (Tree.one .watchC nx p) { wBarS with mem := [(0x80, 5)] } e ∧
      asked { wBarS with mem := [(0x80, 5)] } (Tree.one .watchC nx p) e = [m0 :: r] ∧ State.team? { wBarS with mem := [(0x80, 5)] } e.loc.team = some x ∧
      m0.q.c ≤ State.word8 { wBarS with mem := [(0x80, 5)] } ((m0.page.filter (fun q => q.kind == 3)).map (·.mset)) ((m0.words.head?).getD 0) ∧ x.place = .resident ∧
      halfOf (State.flushScr { wBarS with mem := [(0x80, 5)] } e.loc.team e.loc.wave) e = some z) :=
  ⟨⟨pl 0 0 0 1 0 0, _, _, _, _, accepted_of rfl (by decide +kernel) (by decide +kernel) (by decide +kernel), rfl, rfl⟩,
   ⟨pl 0 0 0 0xD2 0 0, _, _, _, _, accepted_of rfl (by decide +kernel) (by decide +kernel) (by decide +kernel), rfl, rfl⟩,
   ⟨pl 0 0 0 1 0 0, _, _, _, _, accepted_of rfl (by decide +kernel) (by decide +kernel) (by decide +kernel), rfl, rfl⟩,
   ⟨pl 0 0 0 2 0 0, _, _, _, _, accepted_of rfl (by decide +kernel) (by decide +kernel) (by decide +kernel), rfl, rfl⟩,
   ⟨pl 1 0 0 2 4 0, envOf wBarS (Tree.one .watchC nx (pl 1 0 0 2 4 0)), _, _, _, accepted_of rfl (by decide +kernel) (by decide +kernel) (by decide +kernel), rfl, rfl, by decide +kernel⟩,
   ⟨pl 1 0 0 2 4 0, envOf { wBarS with mem := [(0x80, 5)] } (Tree.one .watchC nx (pl 1 0 0 2 4 0)), _, _, _, _, accepted_of rfl (by decide +kernel) (by decide +kernel) (by decide +kernel), rfl, rfl, by decide +kernel, rfl, rfl⟩⟩


/-- A context record at 0x4000 with page tables at 0x5000 that map the first 512 MiB to itself, HANDLER 0x9000, and a fault queue of 16 records at 0x2000. -/
def wMem : Mem :=
  ((((Mem.putNat [] 0x4000 8 0x5000).putNat 0x4008 8 0x9000).putNat 0x4010 8 0x2000).putNat 0x4018 8 4).putNat 0x5000 8 0x8000000000006001
    |>.putNat 0x6000 8 0x8000000000007001 |>.putNat 0x7000 8 0xD000000000000000
/-- A state whose context 0 has that record; the debugger may be attached. -/
def tabled (dbg : Bool) (s : State) : State := { s with mem := wMem, ctxs := [{ reg := true, addr := 0x4000, dbg := dbg }] }

theorem nx_no_call : noCall nx := ⟨by decide, by decide⟩

def wAdd2 : Payload := pl 4 2 0 1 0 0
def wAdd2S : State := two [1, 2, 9] [3, 4, 9] half0

/-- A wave whose groups stand in the first slots holds none in the others. -/
theorem group_rest {w : Wave} {gs : List Group} {n j : Nat} (h : w.slots = gs ++ List.replicate n ({} : Group)) (hj : gs.length ≤ j) : w.group j = {} := by
  simp only [Wave.group, nth, h, List.getD_eq_getElem?_getD, List.getElem?_append_right hj, List.getElem?_replicate]
  split <;> rfl

theorem only_slot {w : Wave} {g : Group} (h : w.slots = [g] ++ List.replicate 71 ({} : Group)) : onlySlot w 0 :=
  ⟨by simp [h], fun j hj => by rw [group_rest h (by simp; omega)]⟩

theorem runsTo_of {i : Instr} {t : Tree} {s : State} {p : LRun → Bool} (h : i.tree? = some t) (o : Instr.ofTree t = i) (g : (s.issuing t).isSome = true) (d : s.disagree = false)
    (b : (envOf s t).blocked t = none) (c : classAOps t = true) (m : (envOf s t).loc.handler = false) (r : ((envOf s t).runs s.draw t).all p = true) : RunsTo i t s (envOf s t) p := by
  obtain ⟨e, he⟩ := Option.isSome_iff_exists.mp g
  exact ⟨h, o, by simp [envOf, he], d, b, c, m, r⟩

/-- A tree that tests v0 = v1 and then goes one of two ways. -/
def wTwo (a b : Leaf) : Tree := ⟨0, false, 1, [⟨.eq, .s32, 0, 1, false, false, false, false⟩], [], [a, b], []⟩
/-- Two lanes of which the second has v0 = v1, in a wave of two. -/
def wForkW : Wave := waveOf [laneOf [1, 2, 9], laneOf [3, 3, 9]] [groupOf 3 0x1000]
def wFork : State := world [teamOf [wForkW, { wForkW with idx := 1 }] [half0]]
/-- The same in a launch whose function has a site at 0x1000 that lands at 0x1100. -/
def wSite : State := { wFork with launches := [{ wReplay with fn := { wFunc with lands := [(0x1000, 0x1100)] } }] }
def wAway1 : Tree := wTwo ⟨.next, 0, 0⟩ ⟨.branch, 0, 0x10⟩
def wExits : Tree := wTwo ⟨.next, 0, 0⟩ ⟨.exit, 0, 0⟩
/-- A record of two lanes of which the second has arrived, or none has; the first issues at 0x1000. -/
def wRecW (m : Nat) (st : GState) : Wave :=
  { waveOf [laneOf [1, 2, 9], laneOf [3, 3, 9]] [{ groupOf 1 0x1000 with rcd := some 0 }, { groupOf 2 0x1010 with rcd := some 0, st := st }] with
    recs := { valid := true, members := 3, arrived := BitVec.ofNat 64 m, land := 0x1010 } :: List.replicate 31 {} }
def wRec (m : Nat) (st : GState) : State := world [teamOf [wRecW m st] [half0]]
def wBrk : Tree := ⟨0, false, 0, [], [], [⟨.brk, 1, 0x20⟩], []⟩
/-- A node number that is no state in the first lane, a finished descent in the second; no fault queue has room. -/
def wNodeW : Wave := waveOf [laneOf [0x1000, 0, 0, 9], laneOf [0x80000000, 0, 0, 9]] [groupOf 3 0x1000]
def wNodeS : State := { world [teamOf [wNodeW] [half0]] with mem := wMem.putNat 0x4028 8 16, ctxs := [{ reg := true, addr := 0x4000 }] }
def wNode : Payload := pl 0 3 0 1 2 0

theorem witness_lanes_follow_their_successors :
    (∃ i t s e w, State.wave? s e.loc.team e.loc.wave = some w ∧ RunsTo i t s e goesOn ∧ onlySlot w e.loc.slot ∧ e.g.rcd = none ∧ s.landAt e.team.serial e.head.toNat = none) ∧
    (∃ i t s e w x n y, State.wave? s e.loc.team e.loc.wave = some w ∧ RunsTo i t s e (fun r => r.fault.isNone) ∧ onlySlot w e.loc.slot ∧ e.g.rcd = none ∧
      s.landAt e.team.serial e.head.toNat = none ∧ w.meets = [] ∧ w.left = false ∧ w.handler = none ∧ (∀ k, k < 32 → (w.landRec k).valid = false) ∧ s.team? e.loc.team = some x ∧
      (∀ z ∈ x.waves, z.latch = none) ∧ n ≠ e.loc.wave ∧ x.waves[n]? = some y ∧ y.left = false ∧ lanesMask (e.lanes.filter (fun j => (succOf s e t j).isNone)) ≠ 0) ∧
    (∃ i t s e w a k j1 j2, State.wave? s e.loc.team e.loc.wave = some w ∧ RunsTo i t s e goesOn ∧ onlySlot w e.loc.slot ∧ (∀ l ∈ t.leaves, l.kind ≠ .brk) ∧
      s.landAt e.team.serial e.head.toNat = some a ∧ e.g.pushed = false ∧ w.recs.length = 32 ∧ w.freeRec = some k ∧ j1 ∈ e.lanes ∧ j2 ∈ e.lanes ∧
      succOf s e t j1 ≠ succOf s e t j2 ∧ (∃ j ∈ e.lanes, succOf s e t j = some (BitVec.ofNat 64 a))) ∧
    (∃ i t s e w k, State.wave? s e.loc.team e.loc.wave = some w ∧ let r := w.landRec k
      RunsTo i t s e goesOn ∧ e.lanes ≠ [] ∧ (∀ l ∈ t.leaves, l.kind ≠ .brk) ∧ e.g.rcd = some k ∧ r.valid = true ∧ (∀ j ∈ e.lanes, succOf s e t j = some r.land) ∧
      r.arrived ||| lanesMask e.lanes = r.members ∧ (∀ j, j ≠ e.loc.slot → (w.group j).rcd = some k → (w.group j).st = .arrived) ∧
      (∀ p, r.parent = some p → (w.landRec p).valid = false ∨ (w.landRec p).land ≠ r.land)) ∧
    (∃ i t s e w k x, State.wave? s e.loc.team e.loc.wave = some w ∧ let r := w.landRec k
      RunsTo i t s e goesOn ∧ e.lanes ≠ [] ∧ (∀ l ∈ t.leaves, l.kind = .brk ∧ l.pop = 1) ∧ e.g.rcd = some k ∧ r.valid = true ∧ r.parent = none ∧
      (∀ j ∈ e.lanes, succOf s e t j = some x) ∧ r.arrived &&& lanesMask e.lanes = 0) ∧
    (∃ i t s e w, State.wave? s e.loc.team e.loc.wave = some w ∧ RunsTo i t s e (fun r => r.fault.isSome || r.succ.isSome) ∧ onlySlot w e.loc.slot ∧ e.g.rcd = none ∧
      s.landAt e.team.serial e.head.toNat = none ∧ e.g.retried = false ∧ e.wave.idx = e.loc.wave ∧ e.team.ctx < s.ctxs.length ∧ s.fqRoom e.team.ctx = false ∧
      faultsOf s e t ≠ [] ∧ (∀ f ∈ faultsOf s e t, f.cause ≠ 0x0C ∧ f.cause ≠ 0x0D) ∧ ∃ j ∈ e.lanes, (e.run s.draw t j).fault = none) := by
  have d {i t s p} (h : i.tree? = some t) (o : Instr.ofTree t = i) (g : (s.issuing t).isSome = true ∧ s.disagree = false ∧ (envOf s t).blocked t = none ∧ classAOps t = true ∧
      (envOf s t).loc.handler = false ∧ ((envOf s t).runs s.draw t).all p = true) : RunsTo i t s (envOf s t) p := runsTo_of h o g.1 g.2.1 g.2.2.1 g.2.2.2.1 g.2.2.2.2.1 g.2.2.2.2.2
  refine ⟨⟨.treeInstruction wAway1, wAway1, wFork, _, wForkW, rfl, d rfl (by decide +kernel) (by decide +kernel), only_slot rfl, rfl, by decide +kernel⟩,
    ⟨.treeInstruction wExits, wExits, wFork, _, wForkW, _, 1, _, rfl, d rfl (by decide +kernel) (by decide +kernel), only_slot rfl, rfl, by decide +kernel, rfl, rfl, rfl, by decide +kernel, rfl,
      by decide +kernel, by decide, rfl, rfl, by decide +kernel⟩,
    ⟨.treeInstruction wAway1, wAway1, wSite, envOf wSite wAway1, wForkW, 0x1100, 0, 0, 1, rfl, d rfl (by decide +kernel) (by decide +kernel), only_slot rfl, by decide, by decide +kernel, rfl, by decide +kernel,
      by decide +kernel, by decide +kernel, by decide +kernel, by decide +kernel, by decide +kernel⟩,
    ⟨.add nx wAdd2, Tree.one .add nx wAdd2, wRec 2 .arrived, _, wRecW 2 .arrived, 0, rfl, d rfl (by decide +kernel) (by decide +kernel), by decide +kernel, by decide, rfl, rfl, by decide +kernel, by decide +kernel,
      fun j hj hr => ?_, fun p hp => nomatch (show (none : Option Nat) = some p from hp)⟩,
    ⟨.treeInstruction wBrk, wBrk, wRec 0 .ready, _, wRecW 0 .ready, 0, 0x1200, rfl, d rfl (by decide +kernel) (by decide +kernel), by decide +kernel, by decide, rfl, rfl, rfl, by decide +kernel, by decide +kernel⟩,
    ⟨.node nx wNode, Tree.one .node nx wNode, wNodeS, _, wNodeW, rfl, d rfl (by decide +kernel) (by decide +kernel), only_slot rfl, rfl, by decide +kernel, rfl, rfl, by decide +kernel, by decide +kernel, by decide +kernel, by decide +kernel,
      by decide +kernel⟩⟩
  rcases j with _ | _ | j
  · exact absurd rfl hj
  · rfl
  · rw [group_rest (w := wRecW 2 .arrived) (n := 70) rfl (by simp)] at hr
    exact absurd hr (by decide)

def wEmptyS : State := world [teamOf [waveOf [{ v := [⟨0, true, 0⟩, ⟨0, false, 0⟩, ⟨0, false, 0⟩] }] [groupOf 1 0x1000]] [half0]]
theorem witness_empty_registers_keep_from_issuing : ∃ (i : Instr) (t : Tree) (s : State) (e : Env) (w : Wait), i.tree? = some t ∧ s.issuing t = some e ∧ e.blocked t = some w ∧ w = .regs [(0, 0)] :=
  ⟨.add nx wAdd2, Tree.one .add nx wAdd2, wEmptyS, _, .regs [(0, 0)], rfl, rfl, by decide +kernel, rfl⟩

def wTrap (k : Opcode) : Tree := Tree.one k nx (pl 0 0 0 0 5 0)
/-- What `Handled` asks of the state in which the records stand. -/
def handleable (v : State) (e : Env) (l : List LaneFault) : Prop := ∃ x y g,
  v.recsOut e.team.ctx e.loc.team e.loc.wave e.loc.slot = true ∧ v.team? e.loc.team = some x ∧ x.waves[e.loc.wave]? = some y ∧ y.slots[e.loc.slot]? = some g ∧
  x.ctx = e.team.ctx ∧ x.stopped = false ∧ g.recs = l ∧ g.st = .parked ∧ v.handlerAddr e.team.ctx ≠ 0
/-- The same, as a test. -/
def handles (v : State) (e : Env) (l : List LaneFault) : Bool :=
  match v.team? e.loc.team with
  | some x => (match x.waves[e.loc.wave]? with
    | some y => (match y.slots[e.loc.slot]? with
      | some g => v.recsOut e.team.ctx e.loc.team e.loc.wave e.loc.slot && x.ctx == e.team.ctx && !x.stopped && g.recs == l && g.st == .parked && v.handlerAddr e.team.ctx != 0
      | none => false)
    | none => false)
  | none => false
theorem handleable_of {v : State} {e : Env} {l : List LaneFault} (h : handles v e l = true) : handleable v e l := by
  unfold handles at h
  repeat' split at h
  · simp only [Bool.and_eq_true, Bool.not_eq_true', beq_iff_eq, bne_iff_ne, ne_eq] at h
    exact ⟨_, _, _, h.1.1.1.1.1, by assumption, by assumption, by assumption, h.1.1.1.1.2, h.1.1.1.2, h.1.1.2, h.1.2, h.2⟩
  all_goals exact Bool.noConfusion h
/-- A team of which one lane stands at an address: at words whose reserved header bit is set, and at one that is not a multiple of 16. -/
def wAt (pc : Nat) : State :=
  let s := (tabled false (world [])).withFetchWord 128 0b1_000_0000_0000000_0001_000_0_000000001
  { s with teams := s.teams.map (fun t => { t with waves := t.waves.map (fun w => { w with slots := modNth w.slots 0 (fun g => { g with mask := 1, pc := BitVec.ofNat 64 pc }) }) }) }
def wBad : State := wAt 0x10000
def wOdd : State := wAt 0x10008
def wBadV (s : State) : State := ({ s.tick with agenda := [] } : State).ldsDue wLoc.team
theorem witness_traps_and_breakpoints :
    (∀ x ∈ [(Opcode.trap, 0x10), (.bkpt, 0x0F)], ∃ i h p s e, Goes i (Tree.one x.1 h p) s e ∧ e.loc.handler = false ∧ e.lanes ≠ [] ∧ (x.1 = .bkpt → (s.ctx e.team.ctx).dbg = false) ∧
      handleable (recorded s e h.stall.toNat x.2 p.c.toNat) e (causeRecs e x.2 p.c.toNat 0 e.head.toNat)) ∧
    (∃ i h p s e, Goes i (Tree.one .bkpt h p) s e ∧ (s.ctx e.team.ctx).dbg = true ∧ e.loc.handler = false) ∧
    (∃ (s : State) (core c pc : Nat) (p : Page), let a := s.codePa core (p.phys pc)
      pc % 16 = 0 ∧ pc < 2 ^ 56 ∧ s.fetchPage core c pc = .ok p ∧ s.up p a = true ∧ s.poisoned a 16 = false ∧ p.kind = 0 ∧ isHead (BitVec.ofNat 32 (Mem.nat s.mem a 4)) = false) := by
  refine ⟨?_, ⟨.bkpt nx (pl 0 0 0 0 5 0), nx, _, tabled true wAdd2S, _, goes_of rfl (by decide +kernel) (by decide +kernel) (by decide +kernel), rfl, rfl⟩,
    wStep, 0, 0, 0x10010, probePage, rfl, by decide, rfl, by decide +kernel, by decide +kernel, rfl, by decide +kernel⟩
  · intro x hx
    simp only [List.mem_cons, List.not_mem_nil, or_false] at hx
    rcases hx with rfl | rfl
    · exact ⟨.trap nx (pl 0 0 0 0 5 0), nx, _, tabled false wAdd2S, envOf (tabled false wAdd2S) (wTrap .trap),
        goes_of rfl (by decide +kernel) (by decide +kernel) (by decide +kernel), rfl, by decide +kernel, by decide, handleable_of (by decide +kernel)⟩
    · exact ⟨.bkpt nx (pl 0 0 0 0 5 0), nx, _, tabled false wAdd2S, envOf (tabled false wAdd2S) (wTrap .bkpt),
        goes_of rfl (by decide +kernel) (by decide +kernel) (by decide +kernel), rfl, by decide +kernel, by decide +kernel, handleable_of (by decide +kernel)⟩

/-- What the records of an illegal instruction, and of a fetch that finds a cause, leave of a team at its words. -/
def wBadE (s : State) : Env := envAt (wBadV s) wLoc
theorem bad_handled : handleable (parkedWith (slotTaken (wBadV wBad) (wBadE wBad) 0) (wBadE wBad) (causeRecs (wBadE wBad) 0x01 Reason.reserved.code 0 (wBadE wBad).head.toNat)) (wBadE wBad)
    (causeRecs (wBadE wBad) 0x01 Reason.reserved.code 0 (wBadE wBad).head.toNat) := handleable_of (by decide +kernel)
theorem odd_handled : handleable (parkedWith ((wBadV wOdd).issued (wBadE wOdd)) (wBadE wOdd) (causeRecs (wBadE wOdd) 0x03 0 0x10008 0x10000)) (wBadE wOdd)
    (causeRecs (wBadE wOdd) 0x03 0 0x10008 0x10000) := handleable_of (by decide +kernel)

theorem witness_illegal_words : ∃ (s : State) (l : Loc) (d : Bool) (r : List Act) (g : Group) (e : Env) (ps : List Word) (x : Reason),
      let v := ({ s.tick with agenda := r } : State).ldsDue l.team
      s.agenda = .only l d :: r ∧ s.tick.group? l = some g ∧ g.st = .ready ∧ v.env? l [] = some e ∧ e.g.late = false ∧ l.handler = false ∧ e.lanes ≠ [] ∧
      v.fetch e.core e.team.ctx e.g.pc.toNat e.g.chooser.toNat = .code ps ∧ decode e.dc ps = .illegal x ∧
      handleable (parkedWith (slotTaken v e 0) e (causeRecs e 0x01 x.code 0 e.head.toNat)) e (causeRecs e 0x01 x.code 0 e.head.toNat) :=
  ⟨wBad, wLoc, false, [], { mask := 1, pc := 0x10000, st := .ready, chooser := 0x10000 }, wBadE wBad, [0b1_000_0000_0000000_0001_000_0_000000001, 0, 0, 0], .reserved,
      rfl, by decide +kernel, rfl, env_at (by decide +kernel), by decide +kernel, rfl, by decide +kernel, by decide +kernel, by decide +kernel, bad_handled⟩

theorem witness_fetch_causes : ∃ (s : State) (l : Loc) (d : Bool) (r : List Act) (g : Group) (e : Env) (c n a h : Nat),
      let v := ({ s.tick with agenda := r } : State).ldsDue l.team
      s.agenda = .only l d :: r ∧ s.tick.group? l = some g ∧ g.st = .ready ∧ v.env? l [] = some e ∧ e.g.late = false ∧ l.handler = false ∧ e.lanes ≠ [] ∧
      v.fetch e.core e.team.ctx e.g.pc.toNat e.g.chooser.toNat = .cause c n a h ∧ c = 0x03 ∧
      handleable (parkedWith (v.issued e) e (causeRecs e c n a h)) e (causeRecs e c n a h) :=
  ⟨wOdd, wLoc, false, [], { mask := 1, pc := 0x10008, st := .ready, chooser := 0x10000 }, wBadE wOdd, 0x03, 0, 0x10008, 0x10000,
      rfl, by decide +kernel, rfl, env_at (by decide +kernel), by decide +kernel, rfl, by decide +kernel, by decide +kernel, rfl, odd_handled⟩

/-- `atms.add` of v1 at v0 with its old value in v2; the same without D. -/
def wAtms (m : Nat) : Payload := pl 0 (if m = 0 then 0 else 2) 0 1 0 m
/-- `atmg.add` with acquire order on [v0:v1], the operand v2. -/
def wAcq : Payload := pl 0 4 0 2 0 0x110
def wOne : State := mapped 0 (world [teamOf [waveOf [laneOf [0x40, 0, 5, 0, 9, 9]] [groupOf 1 0x1000]] [half0]])
/-- `sred.sum` of two words and of none at [v0:v1]. -/
def wSredP : Payload := pl 0 4 0 2 0 0
def wSredS : State := mapped 0 (two [0x40, 0, 2, 0, 9, 9] [0x80, 0, 0, 0, 9, 9] half0)

theorem witness_atomics_and_reductions :
    (∀ m ∈ [0, 0x10], ∃ i h p s e m0 r x, Accepted i (Tree.one .atms h p) s e ∧ asked s (Tree.one .atms h p) e = [m0 :: r] ∧ noCall h ∧
      (∀ g ∈ s.flights, g.id < s.nextId ∧ (g.team ≠ e.loc.team ∨ g.wave ≠ e.loc.wave)) ∧
      halfOf ((before s (Tree.one .atms h p) e).flushScr e.loc.team e.loc.wave) e = some x ∧ x.bars = [] ∧ p.m.getLsbD 9 = false ∧ p.m.toNat = m) ∧
    (∃ i h p s e m pg, Accepted i (Tree.one .atmg h p) s e ∧ asked s (Tree.one .atmg h p) e = [[m]] ∧ noCall h ∧ Memory.wf s.mem = true ∧
      (∀ g ∈ s.flights, g.id < s.nextId ∧ (g.team ≠ e.loc.team ∨ g.wave ≠ e.loc.wave) ∧ (pg.kind = 2 → g.core ≠ e.core)) ∧ p.m.getLsbD 8 = true ∧ p.m.getLsbD 9 = false ∧
      inSet s e.team.serial m.pa = true ∧ m.page = some pg ∧ ((s.core e.core).line (lineOf m.pa)).dirty = 0 ∧ s.up pg m.pa = true ∧ s.poisoned m.pa (typeBytes p.v) = false) ∧
    (∃ i h p s e ms, Accepted i (Tree.one .sred h p) s e ∧ asked s (Tree.one .sred h p) e = [ms] ∧ noCall h ∧ settled s e.loc.team = true ∧ ms.map (fun m => m.q.b) = [2, 0]) := by
  refine ⟨?_, ⟨.atmg nx wAcq, nx, wAcq, wOne, _, _, _, accepted_of rfl (by decide +kernel) (by decide +kernel) (by decide +kernel), rfl, nx_no_call, by decide +kernel, by decide +kernel,
    by decide, by decide, by decide +kernel, rfl, by decide +kernel, by decide +kernel, by decide +kernel⟩, .sred nx wSredP, nx, wSredP, wSredS, _, _,
    accepted_of rfl (by decide +kernel) (by decide +kernel) (by decide +kernel), rfl, nx_no_call, by decide +kernel, by decide +kernel⟩
  intro m hm
  simp only [List.mem_cons, List.not_mem_nil, or_false] at hm
  rcases hm with rfl | rfl
  · exact ⟨.atms nx (wAtms 0), nx, _, two [0, 3, 9] [4, 5, 9] wHalf, _, _, _, _, accepted_of rfl (by decide +kernel) (by decide +kernel) (by decide +kernel), rfl, nx_no_call,
      by decide +kernel, rfl, rfl, rfl, rfl⟩
  · exact ⟨.atms nx (wAtms 0x10), nx, _, two [0, 3, 9] [4, 5, 9] wHalf, _, _, _, _, accepted_of rfl (by decide +kernel) (by decide +kernel) (by decide +kernel), rfl, nx_no_call,
      by decide +kernel, rfl, rfl, rfl, rfl⟩

/-- Exchanges of two lanes with their mask in v2:v3, the value in v0 and the lane or number in v4. -/
def wEx : State := two [7, 0, 3, 0, 1, 0, 9] [8, 0, 3, 0, 1, 0, 9] half0
def wExL : List (Opcode × Instr × Payload) :=
  [(.shfl, .shfl nx (pl 0 6 0 4 2 0), pl 0 6 0 4 2 0), (.vote, .vote nx (pl 1 6 0 0 2 0), pl 1 6 0 0 2 0), (.redux, .redux nx (pl 0 6 0 0 2 0), pl 0 6 0 0 2 0),
   (.bcast, .bcast nx (pl 1 6 0 0xD2 2 0), pl 1 6 0 0xD2 2 0)]
/-- The exchanges with a scalar D: a vote, every reduction of integers, the sum of floats, a broadcast. -/
def wExS : List (Opcode × Instr × Payload) :=
  [(.vote, .vote nx (pl 2 0xE0 0 0 2 0), pl 2 0xE0 0 0 2 0), (.redux, .redux nx (pl 3 0xFE 0 5 2 0), pl 3 0xFE 0 5 2 0), (.bcast, .bcast nx (pl 1 0xFF 0 0xD2 2 0), pl 1 0xFF 0 0xD2 2 0)] ++
  (List.range 6).map (fun n => (.redux, .redux nx (pl 0 0xE1 0 n 2 0), pl 0 0xE1 0 n 2 0)) ++ [(.redux, .redux nx (pl 4 0xE1 0 0 2 0), pl 4 0xE1 0 0 2 0)]
/-- What an exchange of that state gives its first lane. -/
def wExV (x : Opcode × Instr × Payload) : Nat := (exchanged wEx (envOf wEx (Tree.one x.1 nx x.2.2)) (Tree.one x.1 nx x.2.2) x.1 x.2.2 0).getD 0
/-- `bar.arr.m` at 0x40 with no bytes. -/
def wArrP : Payload := pl 1 0 4 5 2 0
def wArrS : State := two [7, 0, 3, 0, 0x40, 0, 9] [8, 0, 3, 0, 0x40, 0, 9] { wBarH with bars := [] }

theorem witness_exchanges_and_arrivals :
    (∀ x ∈ wExL, ∃ e, Goes x.2.1 (Tree.one x.1 nx x.2.2) wEx e ∧ meetsAlone wEx e (Tree.one x.1 nx x.2.2) ∧ noCall nx ∧ x.2.2.d.toNat < 0xD0 ∧
      (∀ j ∈ e.lanes, (exchanged wEx e (Tree.one x.1 nx x.2.2) x.1 x.2.2 j).isSome = true)) ∧
    (∀ x ∈ wExS, ∃ e v, Goes x.2.1 (Tree.one x.1 nx x.2.2) wEx e ∧ meetsAlone wEx e (Tree.one x.1 nx x.2.2) ∧ noCall nx ∧ 0xE0 ≤ x.2.2.d.toNat ∧
      (dWide (x.1.shape e.dc x.2.2).d = true → x.2.2.d.toNat < 0xFF) ∧ (∀ j ∈ e.lanes, exchanged wEx e (Tree.one x.1 nx x.2.2) x.1 x.2.2 j = some v)) ∧
    (∃ i h p s e x a b, Goes i (Tree.one .barArrM h p) s e ∧ meetsAlone s e (Tree.one .barArrM h p) ∧ noCall h ∧
      (∀ j ∈ e.lanes, ∃ q, ask s e (Tree.one .barArrM h p) j = some q ∧ q.a = a ∧ q.b = b) ∧ a < 2 ^ 32 ∧ b < 2 ^ 32 ∧ a + 16 ≤ e.team.scrSize ∧ barOk e a = true ∧
      settled s e.loc.team = true ∧ e.team.twin = false ∧ halfOf s e = some x) := by
  have hl : (envOf wEx (Tree.one .shfl nx (pl 0 6 0 4 2 0))).lanes = [0, 1] := by decide +kernel
  constructor
  · intro x hx
    simp only [wExL, List.mem_cons, List.not_mem_nil, or_false] at hx
    rcases hx with rfl | rfl | rfl | rfl
    all_goals
      refine ⟨_, goes_of rfl (by decide +kernel) (by decide +kernel) (by decide +kernel), ⟨rfl, rfl, by decide +kernel, by decide +kernel, by decide +kernel, fun j hj => ?_⟩, nx_no_call, by decide,
        by decide +kernel⟩
      have hj' : j ∈ [0, 1] := hl ▸ hj
      simp only [List.mem_cons, List.not_mem_nil, or_false] at hj'
      rcases hj' with rfl | rfl <;> exact ⟨_, rfl, by decide +kernel⟩
  refine ⟨?_, ?_⟩
  · intro x hx
    refine ⟨envOf wEx (Tree.one x.1 nx x.2.2), wExV x, ?_⟩
    simp only [wExS, List.range, List.range.loop, List.map, List.cons_append, List.nil_append, List.mem_cons, List.not_mem_nil, or_false] at hx
    rcases hx with rfl | rfl | rfl | rfl | rfl | rfl | rfl | rfl | rfl | rfl
    all_goals
      refine ⟨goes_of rfl (by decide +kernel) (by decide +kernel) (by decide +kernel),
        ⟨rfl, rfl, by decide +kernel, by decide +kernel, by decide +kernel, fun j hj => ?_⟩, nx_no_call, by decide, by decide +kernel, by decide +kernel⟩
      have hj' : j ∈ [0, 1] := hl ▸ hj
      simp only [List.mem_cons, List.not_mem_nil, or_false] at hj'
      rcases hj' with rfl | rfl <;> exact ⟨_, rfl, by decide +kernel⟩
  · refine ⟨.barArrM nx wArrP, nx, wArrP, wArrS, envOf wArrS (Tree.one .barArrM nx wArrP), _, 0x40, 0, goes_of rfl (by decide +kernel) (by decide +kernel) (by decide +kernel),
      ⟨rfl, rfl, by decide +kernel, by decide +kernel, by decide +kernel, fun j hj => ?_⟩, nx_no_call, fun j hj => ?_, by decide, by decide, by decide, by decide +kernel, by decide +kernel, rfl, rfl⟩
    all_goals
      have hj' : j ∈ [0, 1] := (show (envOf wArrS (Tree.one .barArrM nx wArrP)).lanes = [0, 1] by decide +kernel) ▸ hj
      simp only [List.mem_cons, List.not_mem_nil, or_false] at hj'
      rcases hj' with rfl | rfl <;> exact ⟨_, rfl, by decide +kernel⟩

/-- `bar.wait.p` at 0x40 for the phase in v1. -/
def wWaitP : Payload := pl 1 2 0 1 0 0
def wWaitS (ph : Nat) (tw : Bool) : State :=
  world [{ teamOf [waveOf [laneOf [0x40, 0, 9], laneOf [0x40, 0, 9]] [groupOf 3 0x1000]] [{ half0 with scr := ({ wBar with phase := ph }).put [] 0x40 }] with twin := tw }]
theorem witness_barrier_waits : ∀ n ∈ [(0, false), (1, false), (1, true)], ∃ (i : Instr) (h : Head) (p : Payload) (s : State) (e : Env) (x : Half) (a ph : Nat),
    let t := Tree.one .barWait h p; let v := (s.drawn e).flushScr e.loc.team e.loc.wave; let b := Bar.read x.scr a
    Goes i t s e ∧ noCall h ∧ e.lanes ≠ [] ∧ (asks s e t).length = e.lanes.length ∧ (∀ q ∈ asks s e t, q.a = a ∧ q.b = ph) ∧ ph < 2 ^ 32 ∧
    a + 16 ≤ e.team.scrSize ∧ barOk e a = true ∧ (s.drawn e).acqOpen e = [] ∧ halfOf v e = some x ∧ b.ovr = false ∧ e.team.twin = n.2 ∧
    (if n.1 = 0 then toSigned 32 ((b.phase + 2 ^ 32 - ph) % 2 ^ 32) ≤ 0 else 0 < toSigned 32 ((b.phase + 2 ^ 32 - ph) % 2 ^ 32)) := by
  intro n hn
  simp only [List.mem_cons, List.not_mem_nil, or_false] at hn
  rcases hn with rfl | rfl | rfl
  · exact ⟨.barWait nx wWaitP, nx, wWaitP, wWaitS 0 false, envOf (wWaitS 0 false) (Tree.one .barWait nx wWaitP), _, 0x40, 0, goes_of rfl (by decide +kernel) (by decide +kernel) (by decide +kernel), nx_no_call, by decide +kernel, by decide +kernel, by decide +kernel, by decide +kernel, by decide +kernel, by decide +kernel, by decide +kernel, rfl, by decide +kernel⟩
  · exact ⟨.barWait nx wWaitP, nx, wWaitP, wWaitS 1 false, envOf (wWaitS 1 false) (Tree.one .barWait nx wWaitP), _, 0x40, 0, goes_of rfl (by decide +kernel) (by decide +kernel) (by decide +kernel), nx_no_call, by decide +kernel, by decide +kernel, by decide +kernel, by decide +kernel, by decide +kernel, by decide +kernel, by decide +kernel, rfl, by decide +kernel⟩
  · exact ⟨.barWait nx wWaitP, nx, wWaitP, wWaitS 1 true, envOf (wWaitS 1 true) (Tree.one .barWait nx wWaitP), _, 0x40, 0, goes_of rfl (by decide +kernel) (by decide +kernel) (by decide +kernel), nx_no_call, by decide +kernel, by decide +kernel, by decide +kernel, by decide +kernel, by decide +kernel, by decide +kernel, by decide +kernel, rfl, by decide +kernel⟩

/-- `phase.rel.gang`, `phase.acq`, `qfence` and `publish`. -/
def wRel : Payload := pl 2 0 0 0 0 0
def wPub : Payload := pl 0 0 0 0 0 0
def wPubS : State := { two [0x40, 0] [0x40, 0] half0 with atomEn := [0] }
theorem witness_order_instructions :
    (∃ i h p s e, Goes i (Tree.one .phaseRel h p) s e ∧ noCall h ∧ ((s.drawn e).releaseWave e.loc.team e.loc.wave p.v).unanswered e.loc.team e.loc.wave p.v = [] ∧
      ((s.drawn e).releaseWave e.loc.team e.loc.wave p.v).acqOpen e = []) ∧
    (∃ i h p s e, Goes i (Tree.one .phaseAcq h p) s e ∧ noCall h ∧ s.flights = [] ∧ e.team.lds = [] ∧ p.v ≥ 2) ∧
    (∃ i h p s e, Goes i (Tree.one .qfence h p) s e ∧ noCall h) ∧
    (∃ i h p s e a, Goes i (Tree.one .publish h p) s e ∧ noCall h ∧ settled s e.loc.team = true ∧ s.replaying e.team.serial = false ∧
      s.atomEn.contains (s.ctx e.team.ctx).fn = true ∧ a % 8 = 0 ∧ asks s e (Tree.one .publish h p) ≠ [] ∧ (∀ q ∈ asks s e (Tree.one .publish h p), q.a = a) ∧ e.loc.handler = false) :=
  ⟨⟨.phaseRel nx wRel, nx, wRel, wPubS, _, goes_of rfl (by decide +kernel) (by decide +kernel) (by decide +kernel), nx_no_call, by decide +kernel, by decide +kernel⟩,
   ⟨.phaseAcq nx wRel, nx, wRel, wPubS, _, goes_of rfl (by decide +kernel) (by decide +kernel) (by decide +kernel), nx_no_call, by decide +kernel, by decide +kernel, by decide⟩,
   ⟨.qfence nx (pl 0 0 0 0 5 0), nx, pl 0 0 0 0 5 0, wPubS, _, goes_of rfl (by decide +kernel) (by decide +kernel) (by decide +kernel), nx_no_call⟩,
   ⟨.publish nx wPub, nx, wPub, wPubS, _, 0x40, goes_of rfl (by decide +kernel) (by decide +kernel) (by decide +kernel), nx_no_call, by decide +kernel, by decide +kernel, by decide +kernel, by decide,
     by decide +kernel, by decide +kernel, rfl⟩⟩

/-! ### Special registers, the handler, the matrix instructions -/

def wSys (v d a b c : Nat) : Payload := pl v d a b c 0
/-- A wave whose group of lanes 0 and 1 is trapped with cause 0x10, and whose handler fragment, with 32 registers of its own, is the group that issues. -/
def wHandW : Wave :=
  { waveOf [laneOf [1, 2, 9], laneOf [3, 4, 9]] [{ groupOf 3 0x1000 with st := .trapped, recs := [{ cause := 0x10, detail := 5, lane := 0, head := 0x1000 }] }, groupOf 4 0x3000] with
    active := 7, lanes := [laneOf [1, 2, 9], laneOf [3, 4, 9], laneOf []], trapQ := [0]
    handler := some { lane := laneOf (0 :: 0 :: 3 :: 0 :: List.replicate 28 7), s := List.replicate 32 0, g := groupOf 1 0x9000 } }
def wHandS : State :=
  { tabled false (world [teamOf [wHandW] [half0]]) with cur := some ⟨1, 0, 0, true⟩, mem := wMem.putNat 0x406C 1 1 }

theorem wSread : ∀ c ∈ (specials wPubS (envOf wPubS (Tree.one .nopre nx (wSys 0 0 0 0 0)))).map (·.1),
    Instr.ofTree (Tree.one .sread nx (wSys 0 0xE0 0 0 c)) = .sread nx (wSys 0 0xE0 0 0 c) ∧ (wPubS.issuing (Tree.one .sread nx (wSys 0 0xE0 0 0 c))).isSome = true ∧
    goes wPubS (Tree.one .sread nx (wSys 0 0xE0 0 0 c)) (envOf wPubS (Tree.one .sread nx (wSys 0 0xE0 0 0 c))) = true ∧
    wPubS.wave? (envOf wPubS (Tree.one .sread nx (wSys 0 0xE0 0 0 c))).loc.team (envOf wPubS (Tree.one .sread nx (wSys 0 0xE0 0 0 c))).loc.wave =
      some (waveOf [laneOf [0x40, 0], laneOf [0x40, 0]] [groupOf 3 0x1000]) ∧ (envOf wPubS (Tree.one .sread nx (wSys 0 0xE0 0 0 c))).loc.handler = false ∧
    ∃ x ∈ specials wPubS (envOf wPubS (Tree.one .sread nx (wSys 0 0xE0 0 0 c))), x.1 = c ∧ (wSys 0 0xE0 0 0 c).c.toNat = x.1 := by decide +kernel

theorem wSreadH : ∀ c ∈ [0x18, 0x19, 0x1A, 0x1B],
    Instr.ofTree (Tree.one .sread nx (wSys 0 0xE0 0 0 c)) = .sread nx (wSys 0 0xE0 0 0 c) ∧ (wHandS.issuing (Tree.one .sread nx (wSys 0 0xE0 0 0 c))).isSome = true ∧
    goes wHandS (Tree.one .sread nx (wSys 0 0xE0 0 0 c)) (envOf wHandS (Tree.one .sread nx (wSys 0 0xE0 0 0 c))) = true ∧
    wHandS.wave? (envOf wHandS (Tree.one .sread nx (wSys 0 0xE0 0 0 c))).loc.team (envOf wHandS (Tree.one .sread nx (wSys 0 0xE0 0 0 c))).loc.wave = some wHandW ∧
    (envOf wHandS (Tree.one .sread nx (wSys 0 0xE0 0 0 c))).loc.handler = true ∧ (wSys 0 0xE0 0 0 c).c.toNat = c := by decide +kernel

theorem wSwrite : ∀ c ∈ [0x12, 0x13, 0x20],
    Instr.ofTree (Tree.one .swrite nx (wSys 0 0 2 0 c)) = .swrite nx (wSys 0 0 2 0 c) ∧ (wHandS.issuing (Tree.one .swrite nx (wSys 0 0 2 0 c))).isSome = true ∧
    goes wHandS (Tree.one .swrite nx (wSys 0 0 2 0 c)) (envOf wHandS (Tree.one .swrite nx (wSys 0 0 2 0 c))) = true ∧
    wHandS.wave? (envOf wHandS (Tree.one .swrite nx (wSys 0 0 2 0 c))).loc.team (envOf wHandS (Tree.one .swrite nx (wSys 0 0 2 0 c))).loc.wave = some wHandW ∧
    asks wHandS (envOf wHandS (Tree.one .swrite nx (wSys 0 0 2 0 c))) (Tree.one .swrite nx (wSys 0 0 2 0 c)) ≠ [] ∧
    (∀ q ∈ asks wHandS (envOf wHandS (Tree.one .swrite nx (wSys 0 0 2 0 c))) (Tree.one .swrite nx (wSys 0 0 2 0 c)), q.a = 3) ∧ (wSys 0 0 2 0 c).c.toNat = c ∧
    (envOf wHandS (Tree.one .swrite nx (wSys 0 0 2 0 c))).loc.handler = true ∧
    wHandS.ctxField (envOf wHandS (Tree.one .swrite nx (wSys 0 0 2 0 c))).team.ctx 864 8 % 2 = 1 ∧
    (wHandS.drawn (envOf wHandS (Tree.one .swrite nx (wSys 0 0 2 0 c)))).recordUp (envOf wHandS (Tree.one .swrite nx (wSys 0 0 2 0 c))).team.ctx = true := by decide +kernel

/-- A wave of depth 15, and a handler without PRIV in a launch that has started. -/
def wDeepS : State := tabled false (world [teamOf [{ waveOf [laneOf [1, 2, 9], laneOf [3, 4, 9]] [groupOf 3 0x1000] with depth := 15 }] [half0]])
def wNoPrivS : State := { tabled false (world [teamOf [wHandW] [half0]]) with cur := some ⟨1, 0, 0, true⟩, launches := [wReplay] }

theorem witness_system_registers :
    (∃ i h p s e w, Goes i (Tree.one .nopre h p) s e ∧ noCall h ∧ s.wave? e.loc.team e.loc.wave = some w ∧ w.depth < 15) ∧
    (∃ i h p s e w, Goes i (Tree.one .pre h p) s e ∧ noCall h ∧ s.wave? e.loc.team e.loc.wave = some w) ∧
    (∃ i h p s e w, Goes i (Tree.one .capq h p) s e ∧ noCall h ∧ s.wave? e.loc.team e.loc.wave = some w) ∧
    (∀ c ∈ (specials wPubS (envOf wPubS (Tree.one .nopre nx (wSys 0 0 0 0 0)))).map (·.1), ∃ i h p s e w, Goes i (Tree.one .sread h p) s e ∧ noCall h ∧
      s.wave? e.loc.team e.loc.wave = some w ∧ e.loc.handler = false ∧ ∃ x ∈ specials s e, x.1 = c ∧ p.c.toNat = x.1) ∧
    (∀ c ∈ [0x18, 0x19, 0x1A, 0x1B], ∃ i h p s e w g, Goes i (Tree.one .sread h p) s e ∧ noCall h ∧ s.wave? e.loc.team e.loc.wave = some w ∧ e.loc.handler = true ∧
      g ∈ w.trapQ.head?.bind (fun j => w.slots[j]?) ∧ p.c.toNat = c) ∧
    (∀ c ∈ [0x12, 0x13, 0x20], ∃ i h p s e w, Goes i (Tree.one .swrite h p) s e ∧ noCall h ∧ s.wave? e.loc.team e.loc.wave = some w ∧ asks s e (Tree.one .swrite h p) ≠ [] ∧
      (∀ q ∈ asks s e (Tree.one .swrite h p), q.a = 3) ∧ p.c.toNat = c ∧ e.loc.handler = true ∧ s.ctxField e.team.ctx 864 8 % 2 = 1 ∧ (s.drawn e).recordUp e.team.ctx = true) ∧
    (∀ x ∈ [(Opcode.nopre, Instr.nopre nx (wSys 0 0 0 0 0), wSys 0 0 0 0 0), (.sread, .sread nx (wSys 0 0xE0 0 0 0x18), wSys 0 0xE0 0 0 0x18), (.sread, .sread nx (wSys 0 0xE0 0 0 0x1B), wSys 0 0xE0 0 0 0x1B),
        (.swrite, .swrite nx (wSys 0 0 2 0 0x20), wSys 0 0 2 0 0x20)],
      ∃ s e w, Goes x.2.1 (Tree.one x.1 nx x.2.2) s e ∧ noCall nx ∧ State.wave? s e.loc.team e.loc.wave = some w ∧ e.loc.handler = false ∧ e.lanes ≠ [] ∧ 15 ≤ e.wave.depth ∧
        (x.1 = .swrite → asks s e (Tree.one x.1 nx x.2.2) ≠ [] ∧ ∀ q ∈ asks s e (Tree.one x.1 nx x.2.2), q.a = 9) ∧
        handleable (recorded s e nx.stall.toNat 0x05 0) e (causeRecs e 0x05 0 0 e.head.toNat)) ∧
    (∃ i h p s e w l, Goes i (Tree.one .swrite h p) s e ∧ noCall h ∧ s.wave? e.loc.team e.loc.wave = some w ∧ asks s e (Tree.one .swrite h p) ≠ [] ∧
      (∀ q ∈ asks s e (Tree.one .swrite h p), q.a = 3) ∧ p.c = 0x20 ∧ e.loc.handler = true ∧ s.ctxField e.team.ctx 864 8 % 2 = 0 ∧ e.g.retried = false ∧
      s.launch? e.team.serial = some l ∧ l.st.final = false) := by
  refine ⟨⟨.nopre nx (wSys 0 0 0 0 0), nx, _, wPubS, _, _, goes_of rfl (by decide +kernel) (by decide +kernel) (by decide +kernel), nx_no_call, rfl, by decide⟩,
    ⟨.pre nx (wSys 0 0 0 0 0), nx, _, wPubS, _, _, goes_of rfl (by decide +kernel) (by decide +kernel) (by decide +kernel), nx_no_call, rfl⟩,
    ⟨.capq nx (wSys 0 0 0 0 0), nx, _, wPubS, _, _, goes_of rfl (by decide +kernel) (by decide +kernel) (by decide +kernel), nx_no_call, rfl⟩, fun c hc => ?_, fun c hc => ?_, fun c hc => ?_,
    fun x hx => ?_, ⟨.swrite nx (wSys 0 0 2 0 0x20), nx, _, wNoPrivS, envOf wNoPrivS (Tree.one .swrite nx (wSys 0 0 2 0 0x20)), wHandW, wReplay, goes_of rfl (by decide +kernel) (by decide +kernel) (by decide +kernel), nx_no_call,
      rfl, by decide +kernel, by decide +kernel, by decide, rfl, by decide +kernel, rfl, rfl, rfl⟩⟩
  · let p := wSys 0 0xE0 0 0 c; let t := Tree.one .sread nx p; let e := envOf wPubS t
    obtain ⟨h1, h2, h3, h4, h5, h6⟩ := wSread c hc
    exact ⟨.sread nx p, nx, p, wPubS, e, _, goes_of rfl h1 h2 h3, nx_no_call, h4, h5, h6⟩
  · let p := wSys 0 0xE0 0 0 c; let t := Tree.one .sread nx p; let e := envOf wHandS t
    obtain ⟨h1, h2, h3, h4, h5, h6⟩ := wSreadH c hc
    exact ⟨.sread nx p, nx, p, wHandS, e, wHandW, wHandW.group 0, goes_of rfl h1 h2 h3, nx_no_call, h4, h5, by decide +kernel, h6⟩
  · let p := wSys 0 0 2 0 c; let t := Tree.one .swrite nx p; let e := envOf wHandS t
    obtain ⟨h1, h2, h3, h4, h5, h6, h7, h8, h9, h0⟩ := wSwrite c hc
    exact ⟨.swrite nx p, nx, p, wHandS, e, wHandW, goes_of rfl h1 h2 h3, nx_no_call, h4, h5, h6, h7, h8, h9, h0⟩
  · refine ⟨wDeepS, envOf wDeepS (Tree.one x.1 nx x.2.2), { waveOf [laneOf [1, 2, 9], laneOf [3, 4, 9]] [groupOf 3 0x1000] with depth := 15 }, ?_⟩
    simp only [List.mem_cons, List.not_mem_nil, or_false] at hx
    rcases hx with rfl | rfl | rfl | rfl <;>
      exact ⟨goes_of rfl (by decide +kernel) (by decide +kernel) (by decide +kernel), nx_no_call, rfl, rfl, by decide +kernel, by decide +kernel, by decide +kernel,
        handleable_of (by decide +kernel)⟩

def wFmtS : State := two [1, 0, 0xF] [1, 0, 0xF] half0
/-- Two waves of one half, for the gang 0, 1. -/
def wGangT : Team := teamOf [waveOf [laneOf [1, 2, 9]] [groupOf 1 0x1000], { waveOf [laneOf [1, 2, 9]] [groupOf 1 0x1000] with idx := 1 }] [half0]
theorem witness_group_registers :
    (∀ x ∈ [(Opcode.fmt, Instr.fmt nx (wSys 0 0 0 0 0), wSys 0 0 0 0 0, (0 : Nat)), (.fmtM, .fmtM nx (wSys 1 0 0 2 0), wSys 1 0 0 2 0, 2)],
      ∃ s e w a b, Goes x.2.1 (Tree.one x.1 nx x.2.2.1) s e ∧ nx.leaf.kind = .next ∧ e.loc.handler = false ∧ e.lanes ≠ [] ∧ s.wave? e.loc.team e.loc.wave = some w ∧ e.g.rcd = none ∧
        asks s e (Tree.one x.1 nx x.2.2.1) ≠ [] ∧ (∀ q ∈ asks s e (Tree.one x.1 nx x.2.2.1), q.a = (a : Word).toNat ∧ q.b = (b : Word).toNat) ∧
        fmtOk (if x.1 = .fmt then a else (e.g.fmt &&& ~~~b) ||| (a &&& b)) = true) ∧
    (∃ i h p s e w, Goes i (Tree.one .gang h p) s e ∧ h.leaf.kind = .next ∧ e.lanes ≠ [] ∧ e.loc.handler = false ∧ s.wave? e.loc.team e.loc.wave = some w ∧ w.latch = none ∧ p.v = 0) ∧
    (∃ i h p s e w n, Goes i (Tree.one .gang h p) s e ∧ h.leaf.kind = .next ∧ e.lanes ≠ [] ∧ e.loc.handler = false ∧ s.wave? e.loc.team e.loc.wave = some w ∧ w.latch = none ∧ p.v ≠ 0 ∧
      let l := (List.range p.v).map (fun i => nbits (gangBits p) (7 * i) 7)
      l.idxOf? w.idx = some n ∧ (∀ j ∈ l, ∃ y, e.team.waves[j]? = some y ∧ y.half = w.half ∧ y.left = false)) ∧
    (∃ i h p s e w, Goes i (Tree.one .yield h p) s e ∧ h.leaf.kind = .next ∧ e.lanes ≠ [] ∧ e.loc.handler = false ∧ s.wave? e.loc.team e.loc.wave = some w ∧ e.g.rcd = none) := by
  refine ⟨?_, ⟨.gang nx (pl 0 0 0 0 0 0), nx, _, wFmtS, _, _, goes_of rfl (by decide +kernel) (by decide +kernel) (by decide +kernel), rfl, by decide +kernel, rfl, rfl, rfl, rfl⟩,
    ⟨.gang nx (pl 2 0 0 0 0 128), nx, pl 2 0 0 0 0 128, world [wGangT], _, _, 0, goes_of rfl (by decide +kernel) (by decide +kernel) (by decide +kernel), rfl, by decide +kernel, rfl, rfl, rfl, by decide,
      by decide +kernel, fun j hj => ?_⟩,
    ⟨.yield nx (wSys 0 0 0 0 0), nx, _, wFmtS, _, _, goes_of rfl (by decide +kernel) (by decide +kernel) (by decide +kernel), rfl, by decide +kernel, rfl, rfl, rfl⟩⟩
  · intro x hx
    simp only [List.mem_cons, List.not_mem_nil, or_false] at hx
    rcases hx with rfl | rfl
    · exact ⟨wFmtS, envOf wFmtS (Tree.one .fmt nx (wSys 0 0 0 0 0)), _, 1, 0, goes_of rfl (by decide +kernel) (by decide +kernel) (by decide +kernel), rfl, rfl, by decide +kernel, rfl, rfl, by decide +kernel, by decide +kernel, by decide +kernel⟩
    · exact ⟨wFmtS, envOf wFmtS (Tree.one .fmtM nx (wSys 1 0 0 2 0)), _, 1, 0xF, goes_of rfl (by decide +kernel) (by decide +kernel) (by decide +kernel), rfl, rfl, by decide +kernel, rfl, rfl, by decide +kernel, by decide +kernel, by decide +kernel⟩
  · have hj' : j ∈ [0, 1] := (show (List.range (pl 2 0 0 0 0 128).v).map (fun i => nbits (gangBits (pl 2 0 0 0 0 128)) (7 * i) 7) = [0, 1] by decide) ▸ hj
    simp only [List.mem_cons, List.not_mem_nil, or_false] at hj'
    rcases hj' with rfl | rfl <;> exact ⟨_, rfl, rfl, rfl⟩

theorem witness_lanes_from_the_handler : ∀ k ∈ [Opcode.lget, .lset], ∃ i h p s e w lane a l x, Goes i (Tree.one k h p) s e ∧ h.leaf.kind = .next ∧ e.loc.handler = true ∧
    s.wave? e.loc.team e.loc.wave = some w ∧ lane < w.width ∧ w.lanes[lane]? = some l ∧ asks s e (Tree.one k h p) ≠ [] ∧ e.team.lds = [] ∧ p.c.toNat < 0xC0 ∧ l.v[p.c.toNat]? = some x ∧
    (if k = .lget then ∀ q ∈ asks s e (Tree.one k h p), q.a = lane else x.empty = false ∧ ∀ q ∈ asks s e (Tree.one k h p), q.a = a ∧ q.b = lane) ∧ p.v = 0 := by
  intro k hk
  simp only [List.mem_cons, List.not_mem_nil, or_false] at hk
  rcases hk with rfl | rfl
  · exact ⟨.lget nx (wSys 0 5 0 0 1), nx, _, wHandS, envOf wHandS (Tree.one .lget nx (wSys 0 5 0 0 1)), wHandW, 0, 0, _, _, goes_of rfl (by decide +kernel) (by decide +kernel) (by decide +kernel), rfl, rfl, by decide +kernel, by decide, rfl, by decide +kernel,
      by decide +kernel, by decide, rfl, by decide +kernel, by decide⟩
  · exact ⟨.lset nx (wSys 0 0 2 1 1), nx, _, wHandS, envOf wHandS (Tree.one .lset nx (wSys 0 0 2 1 1)), wHandW, 0, 3, _, _, goes_of rfl (by decide +kernel) (by decide +kernel) (by decide +kernel), rfl, rfl, by decide +kernel, by decide, rfl, by decide +kernel,
      by decide +kernel, by decide, rfl, by decide +kernel, by decide⟩

theorem witness_returns_from_the_handler : ∀ x ∈ [(Opcode.eret, Instr.eret nx (wSys 0 0 2 0xD2 0), wSys 0 0 2 0xD2 0), (.eretExit, .eretExit nx (wSys 1 0 2 0 0), wSys 1 0 2 0 0)],
    ∃ s e w n g q r, Goes x.2.1 (Tree.one x.1 nx x.2.2) s e ∧ e.loc.handler = true ∧ s.wave? e.loc.team e.loc.wave = some w ∧ w.trapQ = [n] ∧ w.slots[n]? = some g ∧ g.mask ≠ 0 ∧ g.rcd = none ∧
      asks s e (Tree.one x.1 nx x.2.2) = q :: r ∧ g.mask &&& ~~~(BitVec.ofNat 64 (if w.width = 64 then q.a else q.a % 2 ^ 32)) = 0 ∧ w.meets = [] ∧ w.left = false ∧
      (∃ j, j ≠ n ∧ j < w.slots.length ∧ (w.group j).st ≠ .free ∧ (w.group j).mask &&& g.mask = 0 ∧ (w.group j).rcd = none) ∧ w.recs = List.replicate 32 {} := by
  intro x hx
  simp only [List.mem_cons, List.not_mem_nil, or_false] at hx
  rcases hx with rfl | rfl
  · exact ⟨wHandS, envOf wHandS (Tree.one .eret nx (wSys 0 0 2 0xD2 0)), wHandW, 0, _, _, _, goes_of rfl (by decide +kernel) (by decide +kernel) (by decide +kernel), rfl, by decide +kernel, rfl, rfl, by decide, rfl, rfl, by decide +kernel, rfl, rfl,
      ⟨1, by decide, by decide, by decide, by decide, rfl⟩, rfl⟩
  · exact ⟨wHandS, envOf wHandS (Tree.one .eretExit nx (wSys 1 0 2 0 0)), wHandW, 0, _, _, _, goes_of rfl (by decide +kernel) (by decide +kernel) (by decide +kernel), rfl, by decide +kernel, rfl, rfl, by decide, rfl, rfl, by decide +kernel, rfl, rfl,
      ⟨1, by decide, by decide, by decide, by decide, rfl⟩, rfl⟩

/-- `mmld` and `mmst` of FP32 rows at v0 = 0, `mmz`, `mmstat` and `cbld` of band or codebook 0. -/
def wBand (k : Opcode) : Payload :=
  match k with
  | .mmld => pl 1 2 0 0xD2 0 0 | .mmst => pl 1 0 0 0xD2 0 0 | .mmstat => pl 0 2 0 0 0 0 | .cbld => pl 1 0 0 0 0 0 | _ => pl 0 0 0 0 0 0
def wBandS : State := world [{ teamOf [waveOf [laneOf [0, 0, 9, 9], laneOf [0, 0, 9, 9]] [groupOf 3 0x1000]] [half0] with scrSize := 0x10000 }]

theorem witness_band_instructions :
    (∀ k ∈ [Opcode.mmld, .mmst], ∃ i h p s e x a st x0, Goes i (Tree.one k h p) s e ∧ noCall h ∧ e.lanes ≠ [] ∧ e.loc.handler = false ∧ settled s e.loc.team = true ∧ halfOf s e = some x ∧
      s.team? e.loc.team = some x0 ∧ asks s e (Tree.one k h p) ≠ [] ∧ (∀ q ∈ asks s e (Tree.one k h p), q.a = a ∧ rowStride p q = st) ∧ p.v = 1 ∧ a % 16 = 0 ∧ st % 16 = 0 ∧
      a + (31 * st + 128 * bandBytes (p.c.toNat % 16)) ≤ e.team.scrSize ∧ (k = .mmst → (s.ctx e.team.ctx).susTrap = false ∧ (nth {} x.bands p.band).trap = false)) ∧
    (∃ i h p s e x x0, Goes i (Tree.one .mmz h p) s e ∧ noCall h ∧ e.lanes ≠ [] ∧ e.loc.handler = false ∧ settled s e.loc.team = true ∧ halfOf s e = some x ∧ s.team? e.loc.team = some x0 ∧
      asks s e (Tree.one .mmz h p) ≠ [] ∧ x.qmat = [] ∧ x0.fences = [] ∧ p.band < x.bands.length) ∧
    (∃ i h p s e x x0, Goes i (Tree.one .mmstat h p) s e ∧ noCall h ∧ e.lanes ≠ [] ∧ e.loc.handler = false ∧ settled s e.loc.team = true ∧ halfOf s e = some x ∧ s.team? e.loc.team = some x0 ∧
      asks s e (Tree.one .mmstat h p) ≠ [] ∧ x.qmat = [] ∧ x0.fences = [] ∧ p.d.toNat + 1 < 0xC0) ∧
    (∃ i h p s e x a x0, Goes i (Tree.one .cbld h p) s e ∧ noCall h ∧ e.lanes ≠ [] ∧ e.loc.handler = false ∧ settled s e.loc.team = true ∧ halfOf s e = some x ∧ s.team? e.loc.team = some x0 ∧
      asks s e (Tree.one .cbld h p) ≠ [] ∧ (∀ q ∈ asks s e (Tree.one .cbld h p), q.a = a) ∧ p.v = 1 ∧ a % 32 = 0 ∧ a + 32 ≤ e.team.scrSize) := by
  refine ⟨?_, ⟨.mmz nx (wBand .mmz), nx, _, wBandS, _, _, _, goes_of rfl (by decide +kernel) (by decide +kernel) (by decide +kernel), nx_no_call, by decide +kernel, rfl, by decide +kernel, rfl, rfl,
      by decide +kernel, rfl, rfl, by decide⟩,
    ⟨.mmstat nx (wBand .mmstat), nx, _, wBandS, _, _, _, goes_of rfl (by decide +kernel) (by decide +kernel) (by decide +kernel), nx_no_call, by decide +kernel, rfl, by decide +kernel, rfl, rfl,
      by decide +kernel, rfl, rfl, by decide⟩,
    ⟨.cbld nx (wBand .cbld), nx, _, wBandS, _, _, 0, _, goes_of rfl (by decide +kernel) (by decide +kernel) (by decide +kernel), nx_no_call, by decide +kernel, rfl, by decide +kernel, rfl, rfl,
      by decide +kernel, by decide +kernel, rfl, rfl, by decide +kernel⟩⟩
  intro k hk
  simp only [List.mem_cons, List.not_mem_nil, or_false] at hk
  rcases hk with rfl | rfl
  · exact ⟨.mmld nx (wBand .mmld), nx, wBand .mmld, wBandS, envOf wBandS (Tree.one .mmld nx (wBand .mmld)), _, 0, 512, _, goes_of rfl (by decide +kernel) (by decide +kernel) (by decide +kernel), nx_no_call, by decide +kernel, rfl, by decide +kernel, rfl, rfl,
      by decide +kernel, by decide +kernel, rfl, rfl, rfl, by decide +kernel, by decide⟩
  · exact ⟨.mmst nx (wBand .mmst), nx, wBand .mmst, wBandS, envOf wBandS (Tree.one .mmst nx (wBand .mmst)), _, 0, 512, _, goes_of rfl (by decide +kernel) (by decide +kernel) (by decide +kernel), nx_no_call, by decide +kernel, rfl, by decide +kernel, rfl, rfl,
      by decide +kernel, by decide +kernel, rfl, rfl, rfl, by decide +kernel, fun _ => by decide +kernel⟩

/-- Tensors of BF16 under handles of generation 1, and two waves in the gang 0, 1: the second may wait at the latch with the same B. -/
def wTen : Tensor := { base := 0x10000, rows := 256, cols := 512, stride := 1024, fmt := 1 }
def wMma : Payload := pl 0 0 0xE0 0xE2 0x11 0
def wMmaL : Lane := laneOf [7]
def wGang01 (pos : Nat) : DWord := BitVec.ofNat 64 (2 ^ 7 + 2 * 2 ^ 42 + pos * 2 ^ 45)
def wMmaZ : LatchArr :=
  { pd := { slot := 0, op := .mma, h := nx, p := pl 0 0 0xE0 0xE2 0x11 32, head := 0x1000, succ := [(0, some 0x1010)] }, ha := 0x1000000, ta := wTen, ca := 1, hb := 0x1000001, tb := wTen, cb := 0 }
def wMmaW (z : Option LatchArr) : Wave :=
  { waveOf [wMmaL] [{ groupOf 1 0x1000 with st := if z.isSome then .meeting else .ready, wait := if z.isSome then .latch else .none }] with idx := 1, gang := wGang01 1, latch := z }
def wMmaS (z : Option LatchArr) : State :=
  { world [teamOf [{ waveOf [wMmaL] [groupOf 1 0x1000] with gang := wGang01 0, s := 0x1000000 :: 0x1000001 :: List.replicate 30 0 }, wMmaW z] [half0]] with
    ctxs := [{ reg := true, seals := [{ tensor := some wTen }, { tensor := some wTen }] }] }
def wMmaT : Tree := Tree.one .mma nx wMma

theorem witness_matrix_operations_meet : ∀ o ∈ [none, some wMmaZ], ∃ (i : Instr) (k : Opcode) (h : Head) (p : Payload) (s : State) (e : Env) (x : Half) (q : MReq) (r : List MReq) (ta tb : Tensor),
    let ha := q.a % 2 ^ 32; let hb := q.a / 2 ^ 32 % 2 ^ 32; let ca := q.b % 2 ^ 32; let cb := q.b / 2 ^ 32 % 2 ^ 32
    ((k = .mma ∨ k = .mmx) ∧ Goes i (Tree.one k h p) s e ∧ noCall h ∧ e.loc.handler = false ∧ e.loc.wave = e.wave.idx ∧ e.wave.left = false ∧ asks s e (Tree.one k h p) = q :: r ∧
      s.handle? e.team.ctx ha = some ta ∧ s.handle? e.team.ctx hb = some tb ∧
      operandFits ta (p.c.toNat / 16) 32 (kOf (k == .mmx) (p.c.toNat / 16)) ca = true ∧ operandFits tb (p.c.toNat % 16) 128 (kOf (k == .mmx) (p.c.toNat / 16)) cb = true ∧
      e.wave.latch = none ∧ halfOf s e = some x) ∧
    match o with
    | some z => ∃ (n : Nat) (y : Wave) (g : Group), n ≠ e.wave.idx ∧ gangList e.wave.gang = [min n e.wave.idx, max n e.wave.idx] ∧ y.gang.toNat % 2 ^ 45 = e.wave.gang.toNat % 2 ^ 45 ∧
        s.wave? e.loc.team n = some y ∧ y.idx = n ∧ y.half = e.wave.half ∧ y.left = false ∧ y.latch = some z ∧ z.pd.op = k ∧ z.pd.p.v = p.v ∧ z.pd.p.c = p.c ∧ z.hb = hb ∧ z.tb = tb ∧ z.cb = cb ∧
        z.pd.p.band ≠ p.band ∧ y.slots[z.pd.slot]? = some g ∧ g.st = .meeting ∧ z.pd.h.leaf.kind = .next ∧
        (∀ j ∈ maskLanes y.width g.mask, ∃ d, z.pd.succ.find? (fun w => w.1 == j) = some (j, some d)) ∧ settled s e.loc.team = true
    | none => ∃ n y, n ∈ gangList e.wave.gang ∧ n ≠ e.wave.idx ∧ e.team.waves[n]? = some y ∧ y.latch = none ∧
        (∀ j ∈ gangList e.wave.gang, ∃ z, e.team.waves[j]? = some z ∧ z.half = e.wave.half ∧ z.left = false) := by
  intro o ho
  simp only [List.mem_cons, List.not_mem_nil, or_false] at ho
  rcases ho with rfl | rfl
  · refine ⟨.mma nx wMma, .mma, nx, wMma, wMmaS none, envOf (wMmaS none) wMmaT, _, _, _, wTen, wTen, ⟨.inl rfl, goes_of rfl (by decide +kernel) (by decide +kernel) (by decide +kernel), nx_no_call,
      rfl, rfl, rfl, rfl, by decide +kernel, by decide +kernel, by decide +kernel, by decide +kernel, rfl, rfl⟩, 1, _, by decide +kernel, by decide +kernel, rfl, rfl, fun j hj => ?_⟩
    have hj' : j ∈ [0, 1] := (show gangList (envOf (wMmaS none) wMmaT).wave.gang = [0, 1] by decide +kernel) ▸ hj
    simp only [List.mem_cons, List.not_mem_nil, or_false] at hj'
    rcases hj' with rfl | rfl <;> exact ⟨_, rfl, rfl, rfl⟩
  · refine ⟨.mma nx wMma, .mma, nx, wMma, wMmaS (some wMmaZ), envOf (wMmaS (some wMmaZ)) wMmaT, _, _, _, wTen, wTen, ⟨.inl rfl, goes_of rfl (by decide +kernel) (by decide +kernel) (by decide +kernel),
      nx_no_call, rfl, rfl, rfl, rfl, by decide +kernel, by decide +kernel, by decide +kernel, by decide +kernel, rfl, rfl⟩, 1, wMmaW (some wMmaZ), _, by decide +kernel, by decide +kernel, rfl, rfl, rfl, rfl, rfl, rfl,
      rfl, rfl, rfl, by decide +kernel, rfl, by decide +kernel, by decide +kernel, rfl, rfl, rfl, fun j hj => ?_, by decide +kernel⟩
    have hj' : j ∈ [0] := (show maskLanes 16 1 = [0] by decide) ▸ hj
    simp only [List.mem_cons, List.not_mem_nil, or_false] at hj'
    subst hj'; exact ⟨_, rfl⟩

/-- A `seal` that waits for its read, and the record at 0x40 of the scratchpad: 32 rows of 64 BF16 columns in device memory at 0x10000. -/
def wRecN : Nat := 0x10000 + 32 * 2 ^ 128 + 64 * 2 ^ 160 + 128 * 2 ^ 192 + 1 * 2 ^ 224
def wSealP : HPend := { slot := 0, op := .seal, h := nx, p := pl 1 2 0 0 0 0, head := 0x1000, succ := [(0, some 0x1010), (1, some 0x1010)], id := 4, vals := [0x40] }
def wSealW : Wave := { waveOf [laneOf [0x40, 0, 9], laneOf [0x40, 0, 9]] [{ groupOf 3 0x1000 with st := .stalled, wait := .sealRead 4 }] with hold := [wSealP] }
def wSealT : Team := teamOf [wSealW] [{ half0 with scr := Sparse.writeList [] 0x40 (leBytes 64 wRecN) }]
def wSealS : State := two [0x40, 0, 9] [0x40, 0, 9] half0
def wDropS : State := { two [0x1000000, 0, 9] [0x1000000, 0, 9] half0 with ctxs := [{ reg := true, seals := [{ tensor := some wTen }] }] }

theorem witness_seals_and_handles :
    (∃ i h p s e a, Goes i (Tree.one .seal h p) s e ∧ e.loc.handler = false ∧ asks s e (Tree.one .seal h p) ≠ [] ∧ (∀ q ∈ asks s e (Tree.one .seal h p), q.a = a) ∧ p.v = 1 ∧ a % 16 = 0 ∧
      a + 64 ≤ e.team.scrSize) ∧
    (∃ i h p s e a x, Goes i (Tree.one .hdrop h p) s e ∧ noCall h ∧ asks s e (Tree.one .hdrop h p) ≠ [] ∧ (∀ q ∈ asks s e (Tree.one .hdrop h p), q.a = a) ∧ a < 2 ^ 32 ∧
      (s.ctx e.team.ctx).seals[a % 2 ^ 24]? = some x ∧ x.tensor.isSome = true ∧ x.gen = a / 2 ^ 24 ∧ e.team.ctx < s.ctxs.length) ∧
    (∃ (s : State) (id : Nat) (x : HPend) (tm : Team) (w : Wave) (y : Half) (g : Group),
      s.pend? id = some (tm.id, w.idx, x) ∧ s.team? tm.id = some tm ∧ tm.waves[w.idx]? = some w ∧ w.slots[x.slot]? = some g ∧ g.st = .stalled ∧ g.rcd = none ∧ g.mask ≠ 0 ∧
      tm.halves[w.half]? = some y ∧ x.op = .seal ∧ x.p.v = 1 ∧ x.h.leaf.kind = .next ∧ x.p.d.toNat < 0xC0 ∧ tm.ctx < s.ctxs.length ∧
      (∀ j ∈ maskLanes w.width g.mask, ∃ d, x.succ.find? (fun z => z.1 == j) = some (j, some d)) ∧
      sealStatus (y.scr.nat ((x.vals.head?).getD 0) 64) tm.scrSize tm.twin = 0 ∧ (s.ctx tm.ctx).seals.length < 65536) := by
  refine ⟨⟨.seal nx wSealP.p, nx, _, wSealS, _, 0x40, goes_of rfl (by decide +kernel) (by decide +kernel) (by decide +kernel), rfl, by decide +kernel, by decide +kernel, rfl, rfl, by decide⟩,
    ⟨.hdrop nx (pl 0 0 0 0 0 0), nx, _, wDropS, _, 0x1000000, _, goes_of rfl (by decide +kernel) (by decide +kernel) (by decide +kernel), nx_no_call, by decide +kernel, by decide +kernel,
      by decide, rfl, rfl, rfl, by decide +kernel⟩,
    ⟨world [wSealT], 4, wSealP, wSealT, wSealW, _, _, rfl, rfl, rfl, rfl, rfl, rfl, by decide, rfl, rfl, rfl, rfl, by decide, by decide, fun j hj => ?_, by decide +kernel, by decide⟩⟩
  have hj' : j ∈ [0, 1] := (show maskLanes 16 3 = [0, 1] by decide) ▸ hj
  simp only [List.mem_cons, List.not_mem_nil, or_false] at hj'
  rcases hj' with rfl | rfl <;> exact ⟨_, rfl⟩

/-! ### Engines and the array -/

/-- A half of team 1 whose wave has not left, with room for what the statements need. -/
def wEngT (h : Half) : Team := { teamOf [waveOf [laneOf [0, 9, 9, 9]] [groupOf 1 0x1000]] [h] with admitted := 1, scrSize := 0x10000 }
/-- A copy of 16 bytes from 0x400 to 0x500 without a barrier. -/
def wCpyN : Nat := 0x400 + 0x500 * 2 ^ 64 + 16 * 2 ^ 128 + 0x1FFFF * 2 ^ 200
def wCpyH : Half := { half0 with ring := some { ctl := 0x300, base := 0x320, depth := 4, tail := 1, ents := [{ seq := 1, val := wCpyN }] }, scr := Sparse.writeList [] 0x400 (leBytes 16 0x1234) }
def wIdxE : Entry := { seq := 1, half := 0, work := .index false 0 0x1FFFF 0x200 7 10 0x8000 [(3, 12)] }
def wPushE : Entry := { seq := 1, half := 0, work := .wlpush false 0 [5] }
def wLeft : Team := { wEngT half0 with waves := [{ waveOf [laneOf []] [] with left := true }] }

theorem witness_engines_take_turns :
    (∃ (s : State) (core h : Nat) (t : Team) (y : Half) (r : Ring) (x : QSlot),
      s.nextTeam core 0 (fun t y => y.copyReady t) = some (t, h) ∧ s.team? t.id = some t ∧ t.halves[h]? = some y ∧ staying t = true ∧ y.ring = some r ∧ r.ents = [x] ∧
      y.prog = 0 ∧ y.ended = false ∧ y.bars = [] ∧ Sparse.wf y.scr = true ∧ s.flights = [] ∧ x.ctr = none ∧
      let c := Copy.of x.val
      c.form = 0 ∧ c.ssp = 0 ∧ c.dsp = 0 ∧ c.bar = none ∧ c.src % 128 = 0 ∧ 0 < c.len ∧ c.len ≤ 128 ∧ c.src + c.len ≤ 2 ^ 32 ∧ c.dst + c.len ≤ 2 ^ 32) ∧
    (∃ (s : State) (core h lane x bar ew soff fill bound base : Nat) (t : Team) (y : Half) (e : Entry),
      s.nextTeam core 1 (fun t y => y.replay != 0 || (match y.idxNext with | some e => t.mayStart 1 e.seq | none => false)) = some (t, h) ∧ y.replay = 0 ∧ s.flights = [] ∧ s.team? t.id = some t ∧ t.halves[h]? = some y ∧
      staying t = true ∧ y.qidx = [e] ∧ y.bars = [] ∧ e.held = none ∧ e.done = 0 ∧ e.vals = [] ∧ barOf bar = none ∧ bound ≤ x ∧
      e.work = .index false ew bar soff fill bound base [(lane, x)]) ∧
    (∃ (s : State) (core h i c : Nat) (t : Team) (y : Half) (e : Entry) (r : Ring),
      s.nextTeam core 3 (fun t y => match y.qwl with | e :: _ => e.held.isNone && t.mayStart 5 e.seq | [] => false) = some (t, h) ∧ s.team? t.id = some t ∧
      t.halves[h]? = some y ∧ staying t = true ∧ y.qwl = [e] ∧ e.done = 0 ∧ e.vals = [] ∧ e.work = .wlpush false i [c] ∧ y.front i = some r ∧ r.room ≠ 0) ∧
    (∃ (s : State) (x : Team), s.team? x.id = some x ∧ x.place = .resident ∧ x.waves.all (·.left) = true ∧ x.halves.all (fun y => y.idle && y.drain.isNone) = true) :=
  ⟨⟨world [wEngT wCpyH], 0, 0, wEngT wCpyH, wCpyH, _, _, by decide +kernel, rfl, rfl, by decide +kernel, rfl, rfl, rfl, rfl, rfl, by decide +kernel, rfl, rfl, by decide +kernel⟩,
   ⟨world [wEngT { half0 with qidx := [wIdxE] }], 0, 0, 3, 12, 0x1FFFF, 0, 0x200, 7, 10, 0x8000, wEngT { half0 with qidx := [wIdxE] }, _, wIdxE, by decide +kernel, rfl, rfl, rfl, rfl, by decide +kernel, rfl, rfl, rfl, rfl,
     rfl, by decide, by decide, rfl⟩,
   ⟨world [wEngT { wPostH with qwl := [wPushE] }], 0, 0, 0, 5, wEngT { wPostH with qwl := [wPushE] }, _, wPushE, _, by decide +kernel, rfl, rfl, by decide +kernel, rfl, rfl, rfl, rfl, rfl, by decide +kernel⟩,
   ⟨world [wLeft], wLeft, rfl, rfl, by decide, by decide +kernel⟩⟩

/-- A bin set over a row-major INT32 target of one row of 17 elements at 0x20000, 16 elements to a region, bins of 8 pairs at 0x30000. -/
def wBins : BinSet := { th := { base := 0x20000, rows := 1, cols := 17, stride := 80, fmt := 0xA }, op := 1, rsl := 4, bins := 0x30000, cap := 8, sreg := 0x1000, bar := 0x1FFFF }
def wPutE : Entry := { seq := 1, half := 0, work := .bput wBins [(16, 5)] }
def wPlayE : Entry := { seq := 1, half := 0, work := .bplay wBins 1 }
/-- A row update of one row of the tensor at 0x40000 with one column, without barrier and counter. -/
def wSmvW : Tensor := { base := 0x40000, rows := 4, cols := 8, stride := 32, fmt := 0 }
def wSmvY : Tensor := { base := 0x50000, rows := 1, cols := 4, stride := 16, fmt := 0 }
def wSmvE : Entry := { seq := 1, half := 0, work := .smv wSmvW wSmvY 0 1 (2 ^ 32 - 1) 0 [(0, 0x3F800000)] }
def wAppT : Team := wEngT { half0 with qbin := [wPutE], bins := some { ctl := 0x300, base := 0x320, depth := 4, tail := 1, ents := [{ seq := 0, val := 16 + 5 * 2 ^ 32 }] } }
def wPlayT : Team := wEngT { half0 with qbin := [wPlayE] }
def wSmvT : Team := wEngT { half0 with qstack := [wSmvE] }
def wBinS (t : Team) (m : Mem) : State := { tabled false (world [t]) with mem := m }
/-- Bin 1 with the pair (16, 5) pending in slot 0. -/
def wPlayS : State := wBinS wPlayT ((wMem.putNat 0x300C0 8 1).putNat 0x30080 8 1 |>.putNat 0x300C0 8 (16 + 5 * 2 ^ 32))
/-- The page that the tables give the first 512 MiB. -/
def wBig : Page := { page0 with size := 0x20000000 }

theorem short_of {x : Except EErr (List Nat)} (h : (match x with | .ok l => decide (l.length ≤ 1) | .error _ => false) = true) : ∃ l, x = .ok l ∧ l.length ≤ 1 := by
  match x, h with
  | .ok l, h => exact ⟨l, rfl, of_decide_eq_true h⟩

theorem witness_bins_and_rows :
    (∃ (s : State) (core h x z : Nat) (t : Team) (y : Half) (e : Entry) (d : BinSet) (r : Ring) (p q : Page),
      s.nextTeam core 2 (fun t y => match y.qbin with | e :: _ => e.held.isNone && t.mayStart 2 e.seq | [] => false) = some (t, h) ∧ s.team? t.id = some t ∧
      t.halves[h]? = some y ∧ staying t = true ∧ y.qbin = [e] ∧ e.work = .bput d [(x, z)] ∧ e.done = 0 ∧ e.vals = [] ∧ y.bins = some r ∧ calm s ∧ Memory.wf s.mem = true ∧
      let b := d.binAddr (x / 2 ^ d.rsl); let tail := Mem.nat s.mem (p.phys b) 8; let done := Mem.nat s.mem (p.phys b + 8) 8
      let a := b + 64 + 8 * (tail % d.cap); let pair := x + z * 2 ^ 32
      readsAt s t.ctx b 16 p ∧ writesAt s t.ctx t.serial b 8 p ∧ writesAt s t.ctx t.serial a 8 q ∧
      (s.devWrite t.serial (q.phys a) (leBytes 8 pair) false).xlate t.ctx b true = .ok p ∧ tail - done < d.cap) ∧
    (∃ (s : State) (core h g : Nat) (t : Team) (y : Half) (e : Entry) (d : BinSet) (p q o : Page),
      s.nextTeam core 2 (fun t y => match y.qbin with | e :: _ => e.held.isNone && t.mayStart 2 e.seq | [] => false) = some (t, h) ∧ s.team? t.id = some t ∧
      t.halves[h]? = some y ∧ staying t = true ∧ y.qbin = [e] ∧ e.work = .bplay d g ∧ e.vals = [] ∧ y.bars = [] ∧ calm s ∧ Memory.wf s.mem = true ∧
      (∀ t ∈ s.teams, ∀ k ∈ t.halves, ∀ z ∈ k.qbin, z.lock = none) ∧ d.count = g * 2 ^ d.rsl + 1 ∧
      let b := d.binAddr g; let tail := Mem.nat s.mem (p.phys b) 8; let done := Mem.nat s.mem (p.phys b + 8) 8
      let a := d.elemAddr (g * 2 ^ d.rsl); let c := b + 64 + 8 * (done % d.cap)
      let pair := Mem.nat s.mem (o.phys c) 8; let old := Mem.nat s.mem (q.phys a) 4; let new := d.apply old (pair / 2 ^ 32)
      readsAt s t.ctx b 16 p ∧ readsAt s t.ctx a 4 q ∧ readsAt s t.ctx c 8 o ∧ tail = done + 1 ∧ pair % 2 ^ 32 = g * 2 ^ d.rsl ∧
      writesAt s t.ctx t.serial a 4 q ∧ writesAt s t.ctx t.serial (b + 8) 8 p ∧ (s.devWrite t.serial (q.phys a) (leBytes 4 new) false).xlate t.ctx (b + 8) true = .ok p) ∧
    (∃ (s : State) (t h row bar : Nat) (x : Team) (z : Half) (e : Entry) (w y : Tensor) (xs : List (Nat × Nat)) (l : List Nat) (q : Page) (pg : Nat → Page),
      s.team? t = some x ∧ x.firstOf (·.qstack) = some (h, e) ∧ x.halves[h]? = some z ∧ z.qstack = [e] ∧ staying x = true ∧ x.place = .resident ∧ e.held = none ∧
      x.mayStart 3 e.seq = true ∧ e.done = 0 ∧ e.work = .smv w y row 1 bar 0 xs ∧ calm s ∧ Memory.wf s.mem = true ∧ s.rowStacks x.ctx w row 1 = .ok l ∧ l.length ≤ 1 ∧
      let k := (codeBits w.fmt + 7) / 8; let at_ := fun (c : Nat) => w.byteAddr row (k * c); let a := y.base + 4 * row
      let terms := (xs.filter (fun v => decide (v.1 < w.cols))).map (fun v => smvTerm w.fmt (Mem.nat s.mem ((pg v.1).phys (at_ v.1)) k) v.2)
      let new := (writeF .f32 .rne false false (Machine.Num.add .rne (FFmt.f32.read (Mem.nat s.mem (q.phys a) 4)) (Machine.Num.sum .rne terms).1).1).1
      0 < k ∧ (∀ v ∈ xs, v.1 < w.cols → readsAt s x.ctx (at_ v.1) k (pg v.1)) ∧ readsAt s x.ctx a 4 q ∧ writesAt s x.ctx x.serial a 4 q ∧
      (∃ p, (s.devWrite x.serial (q.phys a) (leBytes 4 new) false).xlate x.ctx a false = .ok p ∧ p.kind ≠ 3)) := by
  obtain ⟨l, h1, h2⟩ := short_of (x := (wBinS wSmvT wMem).rowStacks 0 wSmvW 0 1) (by decide +kernel)
  refine ⟨⟨wBinS wAppT wMem, 0, 0, 16, 5, wAppT, _, wPutE, wBins, _, wBig, wBig, by decide +kernel, rfl, rfl, by decide +kernel, rfl, rfl, rfl, rfl, rfl, by unfold calm; decide +kernel, by decide +kernel,
      by unfold readsAt; decide +kernel, by unfold writesAt; decide +kernel, by unfold writesAt; decide +kernel, by decide +kernel, by decide +kernel⟩,
    ⟨wPlayS, 0, 0, 1, wPlayT, _, wPlayE, wBins, wBig, wBig, wBig, by decide +kernel, rfl, rfl, by decide +kernel, rfl, rfl, rfl, rfl, by unfold calm; decide +kernel, by decide +kernel, by decide +kernel, by decide,
      by unfold readsAt; decide +kernel, by unfold readsAt; decide +kernel, by unfold readsAt; decide +kernel, by decide +kernel, by decide +kernel, by unfold writesAt; decide +kernel,
      by unfold writesAt; decide +kernel, by decide +kernel⟩,
    ⟨wBinS wSmvT wMem, 1, 0, 0, 2 ^ 32 - 1, wSmvT, _, wSmvE, wSmvW, wSmvY, [(0, 0x3F800000)], l, wBig, fun _ => wBig, rfl, rfl, rfl, rfl, by decide +kernel, rfl, rfl, by decide +kernel, rfl, rfl,
      by unfold calm; decide +kernel, by decide +kernel, h1, h2, by decide, by unfold readsAt; decide +kernel, by unfold readsAt; decide +kernel, by unfold writesAt; decide +kernel,
      wBig, by decide +kernel, by decide⟩⟩


/-- The page tables with the first 512 MiB as tracked BF16 memory, tiles of class zero, finite, from 0x40000 to 0x90000, and a joint operation of one member on them. -/
def wTrkT (base rows : Nat) : Tensor := { base := base, rows := rows, cols := 128, fmt := 1, trk := true, tiled := true }
def wMatE (w : Work) : Entry := { seq := 1, half := 0, work := w }
def wMember : Member := { wave := 0, band := 1, ta := wTrkT 0x40000 32, ca := 0 }
def wJointE : Entry := wMatE (.joint false 0 0x11 (wTrkT 0x80000 128) 0 [wMember])
def wJointT : Team := wEngT { half0 with qmat := [wJointE] }
def wJointS : State :=
  { tabled false (world [wJointT]) with
    mem := wMem.putNat 0x7000 8 (2 ^ 63 + 2 ^ 62 + 2 ^ 60 + 2 * 2 ^ 57 + 2 ^ 45), tracked := [⟨0x40000, 0x90000, 1⟩]
    dir := ((List.range 40).map (fun i => (0x20 + i, dirEntry 0 0 1 1 1))) }
def wMmldT : Team := wEngT { half0 with qmat := [wMatE (.mmld 1 0xA 0 512 2 0 true [0])], scr := Sparse.writeList [] 0 (leBytes 4 0x12345678) }
def wMmstT : Team := wEngT { half0 with qmat := [wMatE (.mmst 1 0xA 0 512 0 true 1)], bands := [{}, { e := sparseOf 0 [5, 6] }, {}, {}] }
def wCbldT : Team := wEngT { half0 with qmat := [wMatE (.cbld 3 0x40 0 7 true)], scr := Sparse.writeList [] 0x40 (leBytes 4 0x3F803F80) }

/-- A joint operation of BF16 tensors of one row and one column in the scratchpad, both 1.0, which no class elides. -/
def wOneT (a : Nat) : Tensor := { base := a, space := 1, rows := 1, cols := 1, stride := 16, fmt := 1 }
def wFullM : Member := { wave := 0, band := 1, ta := wOneT 0x40, ca := 0 }
def wFullT (mmx : Bool) : Team := wEngT { half0 with qmat := [wMatE (.joint mmx 0 0x11 (wOneT 0x80) 0 [wFullM])], scr := Sparse.writeList (Sparse.writeList [] 0x40 [0x80, 0x3F]) 0x80 [0x80, 0x3F] }
def wFullS (mmx : Bool) : State := tabled false (world [wFullT mmx])
theorem row_kept {s : State} {t : Team} {h : Nat} {x : Tensor} (hx : x.space = 1) (cb : List (BitVec 16)) (r c0 k : Nat) : ∃ l sc, s.operandRow t h x cb r c0 k = .ok (l, sc, s) := by
  have g (a n : Nat) : s.tensorGet t h x a n = .ok ((s.half? t.id h).elim 0 (fun y => y.scr.nat (a % 2 ^ 32) n), s) := by simp [State.tensorGet, hx]
  unfold State.operandRow
  split
  · exact ⟨_, _, rfl⟩
  · simp only [g, bind, Except.bind, pure, Except.pure]
    repeat' split
    all_goals exact ⟨_, _, rfl⟩

/-- Reading an operand in the scratchpad changes nothing. -/
theorem operand_kept {s : State} {t : Team} {h : Nat} {x : Tensor} (hx : x.space = 1) (row0 nrows c0 k : Nat) : ∃ o, s.operand t h x row0 nrows c0 k = .ok (o, s) := by
  unfold State.operand
  generalize List.range nrows = l
  have : ∀ (l : List Nat) (o : Operand), ∃ o', l.foldl (fun (acc : Except EErr (Operand × State)) i => do
      let (o, a) ← acc
      let (l, sc, b) ← a.operandRow t h x (nth [] ((s.half? t.id h).elim [] (·.cbs)) x.cb) (row0 + i) c0 k
      pure ({ rows := o.rows ++ [l], scales := o.scales ++ sc }, b)) (.ok (o, s)) = .ok (o', s) := by
    intro l
    induction l with
    | nil => intro o; exact ⟨o, rfl⟩
    | cons i l ih =>
      intro o
      obtain ⟨r, sc, hr⟩ := row_kept (s := s) (t := t) (h := h) hx (nth [] ((s.half? t.id h).elim [] (·.cbs)) x.cb) (row0 + i) c0 k
      simpa only [List.foldl, bind, Except.bind, hr, pure, Except.pure] using ih ⟨o.rows ++ [r], o.scales ++ sc⟩
  exact this l _

theorem witness_array_cells :
    (∃ (c : Nat) (a1 a2 b1 b2 : List Machine.Num), 0 < c ∧ a1.length = c ∧ b1.length = c ∧ a2.length = b2.length ∧ a2 ≠ []) ∧
    (∃ a b : List Machine.Num, a ≠ [] ∧ a.length = b.length ∧ ∃ x ∈ a.zip b, x.1 = .nan ∨ x.2 = .nan) ∧
    (∃ a b : List Machine.Num, a ≠ [] ∧ a.length = b.length ∧ ∃ x ∈ a.zip b, (x.1 = .inf false ∨ x.1 = .inf true) ∧ x.2.isZero = true) ∧
    (∃ (s : State) (core h : Nat) (t : Team) (y : Half) (e : Entry), (s.nextMat core = some (t, h, e) ∧ s.team? t.id = some t ∧ t.halves[h]? = some y ∧ y.qmat = [e] ∧ staying t = true ∧ y.bars = []) ∧
      ∃ (mmx : Bool) (v codes cb : Nat) (tb : Tensor) (m : Member) (b : Band) (oa ob : Operand), e.work = .joint mmx v codes tb cb [m] ∧ y.bands[m.band]? = some b ∧ (∀ c ∈ s.cores, c.l1 = []) ∧
        let fa := codes / 16; let k := kOf mmx fa; let sem := if mmx then v else 0
        let col (x : Nat) : Nat := k * (x / 65536 % 65536)
        let eA := s.tileEntry t.ctx m.ta (32 * (m.ca % 65536)) (col m.ca * slotBits m.ta.fmt / 8)
        let eB (q : Nat) : Nat := s.tileEntry t.ctx tb (128 * (cb % 65536) + 32 * q) (col cb * slotBits tb.fmt / 8)
        let skipped (q : Nat) : Bool := (sem == 0 || sem == 4) && (dirClass eA == 1 && dirFin (eB q) || dirClass (eB q) == 1 && dirFin eA)
        (∃ q, q < 4 ∧ skipped q = false) ∧ s.operand t h tb (128 * (cb % 65536)) 128 (col cb) k = .ok (ob, s) ∧ s.operand t h m.ta (32 * (m.ca % 65536)) 32 (col m.ca) k = .ok (oa, s)) := by
  obtain ⟨ob, hb⟩ := operand_kept (s := wFullS true) (t := wFullT true) (h := 0) (x := wOneT 0x80) rfl 0 128 0 128
  obtain ⟨oa, ha⟩ := operand_kept (s := wFullS true) (t := wFullT true) (h := 0) (x := wOneT 0x40) rfl 0 32 0 128
  exact ⟨⟨1, [.nan], [.nan], [.nan], [.nan], by decide⟩, ⟨[.nan], [.inf true], by decide⟩, ⟨[.inf true], [.fin false 0 0], by decide⟩,
    wFullS true, 0, 0, wFullT true, _, _, ⟨by decide +kernel, rfl, rfl, rfl, by decide +kernel, rfl⟩, true, 0, 0x11, 0, wOneT 0x80, wFullM, {}, oa, ob, rfl, rfl, by decide, ⟨0, by decide, by decide +kernel⟩, hb, ha⟩

theorem witness_array_takes_turns :
    (∃ (s : State) (core h : Nat) (t : Team) (y : Half) (e : Entry) (v codes cb : Nat) (tb : Tensor) (m : Member) (b : Band),
      (s.nextMat core = some (t, h, e) ∧ s.team? t.id = some t ∧ t.halves[h]? = some y ∧ y.qmat = [e] ∧ staying t = true ∧ y.bars = []) ∧
      e.work = .joint false v codes tb cb [m] ∧ y.bands[m.band]? = some b ∧
      let col (x : Nat) : Nat := kOf false (codes / 16) * (x / 65536 % 65536)
      (∀ q, q < 4 → dirClass (s.tileEntry t.ctx tb (128 * (cb % 65536) + 32 * q) (col cb * slotBits tb.fmt / 8)) = 1) ∧
      dirFin (s.tileEntry t.ctx m.ta (32 * (m.ca % 65536)) (col m.ca * slotBits m.ta.fmt / 8)) = true ∧ ∀ c ∈ s.cores, c.l1 = []) ∧
    (∃ (s : State) (core h : Nat) (t : Team) (y : Half) (e : Entry) (band addr stride dest wave lane : Nat) (l : Lane),
      (s.nextMat core = some (t, h, e) ∧ s.team? t.id = some t ∧ t.halves[h]? = some y ∧ y.qmat = [e] ∧ staying t = true ∧ y.bars = []) ∧
      e.work = .mmld band 0xA addr stride dest wave true [lane] ∧ band < y.bands.length ∧ addr + 31 * stride < 2 ^ 64 ∧
      (s.wave? t.id wave).bind (fun w => w.lanes[lane]?) = some l ∧ dest < l.v.length ∧ dest < 0xC0 ∧ (∀ n z, t.halves[n]? = some z → n ≠ h → z.qmat = [])) ∧
    (∃ (s : State) (core h : Nat) (t : Team) (y : Half) (e : Entry) (band code addr stride wave : Nat) (fmt : Word) (b : Band),
      (s.nextMat core = some (t, h, e) ∧ s.team? t.id = some t ∧ t.halves[h]? = some y ∧ y.qmat = [e] ∧ staying t = true ∧ y.bars = []) ∧
      e.work = .mmst band code addr stride wave true fmt ∧ e.done = 0 ∧ y.bands[band]? = some b ∧ addr + 31 * stride < 2 ^ 64 ∧ ∀ f ∈ s.flights, f.team ≠ t.id) ∧
    (∃ (s : State) (core h : Nat) (t : Team) (y : Half) (e : Entry) (n addr wave id : Nat),
      (s.nextMat core = some (t, h, e) ∧ s.team? t.id = some t ∧ t.halves[h]? = some y ∧ y.qmat = [e] ∧ staying t = true ∧ y.bars = []) ∧
      e.work = .cbld n addr wave id true ∧ n < y.cbs.length ∧ s.pend? id = none) :=
  ⟨⟨wJointS, 0, 0, wJointT, _, wJointE, 0, 0x11, 0, wTrkT 0x80000 128, wMember, {}, ⟨by decide +kernel, rfl, rfl, rfl, by decide +kernel, rfl⟩, rfl, rfl, by decide +kernel, by decide +kernel, by decide⟩,
   ⟨world [wMmldT], 0, 0, wMmldT, _, _, 1, 0, 512, 2, 0, 0, _, ⟨by decide +kernel, rfl, rfl, rfl, by decide +kernel, rfl⟩, rfl, by decide, by decide, rfl, by decide, by decide,
     fun n z h hn => by rcases n with _ | n; exact absurd rfl hn; simp [wMmldT, wEngT, teamOf] at h⟩,
   ⟨world [wMmstT], 0, 0, wMmstT, _, _, 1, 0xA, 0, 512, 0, 1, _, ⟨by decide +kernel, rfl, rfl, rfl, by decide +kernel, rfl⟩, rfl, rfl, rfl, by decide, by decide⟩,
   ⟨world [wCbldT], 0, 0, wCbldT, _, _, 3, 0x40, 0, 7, ⟨by decide +kernel, rfl, rfl, rfl, by decide +kernel, rfl⟩, rfl, by decide, by decide +kernel⟩⟩

/-! ### The fault service, the host and the debugger -/

/-- A group that waits for page 3 after a load there. -/
def wParkG : Group := { groupOf 1 0x1000 with st := .parked, recs := [{ cause := 4, detail := 0, lane := 0, addr := 0x30000, head := 0x1000 }] }
def wParkT : Team := teamOf [waveOf [laneOf [0]] [wParkG]] [half0]
def wParkS : State := tabled false (world [wParkT])
/-- A majority store whose second copy is asked; majority set 0 has three copies. -/
def wMajF (todo : List Nat) (acc : Bool) : Flight := { wFlight with space := .majority, read := some (0, 0), page := some { page0 with kind := 3 }, todo := todo, acc := acc }
def wMajS (f : Flight) : State := { world [] with flights := [f], msets := [3 + 8] }

theorem page_of {x : WalkRes} (h : (match x with | .page _ => true | _ => false) = true) : ∃ p, x = .page p := by
  match x, h with
  | .page p, _ => exact ⟨p, rfl⟩

theorem witness_faults_and_answers :
    (∃ (s : State) (c page t w k : Nat) (g : Group),
      c < 64 ∧ parkedFor s c page = [(t, w, k)] ∧ s.group? { team := t, wave := w, slot := k } = some g ∧ g.st = .parked ∧ (∀ x ∈ s.teams, x.ctx = c → x.elemOn page = false) ∧
      (∀ r ∈ g.recs, r.host = false ∧ r.addr < 2 ^ 56 ∧ ∃ p, s.walk c r.addr = .page p)) ∧
    (∃ (s : State) (c page w k : Nat) (x : Team) (y : Wave) (g : Group),
      c < 64 ∧ parkedFor s c page = [(x.id, w, k)] ∧ s.team? x.id = some x ∧ x.ctx = c ∧ x.stopped = false ∧ x.waves[w]? = some y ∧ y.slots[k]? = some g ∧ g.st = .parked ∧ s.handlerAddr c ≠ 0 ∧
      (∀ r ∈ g.recs, r.cause = 4 ∧ faultPage r.addr = page) ∧ (∀ z ∈ s.teams, z.halves.all freeHalf = true) ∧ y.handler = none) ∧
    (∃ (s : State) (c head : Nat), c < 64 ∧ s.recordUp c = true ∧ s.ctxField c 256 64 ≤ head ∧ head ≤ s.ctxField c 320 64 ∧ (s.ctx c).waiting = [] ∧ (∀ x ∈ s.teams, x.ctx ≠ c)) ∧
    (∃ (_ : State) (_ lo hi : Nat), lo ≤ hi) ∧
    (∃ (s : State) (t w : Nat) (x : Team) (y : Wave), s.team? t = some x ∧ x.waves[w]? = some y ∧ 0 < y.depth ∧ x.stopped = false ∧ s.wdog x.ctx ≤ s.ns - y.regionAt) ∧
    (∀ o ∈ [(([1] : List Nat), true), ([1, 2], false)], ∃ (s : State) (id copy : Nat) (f : Flight) (p : Page) (x : Nat × Nat),
      s.flight? id = some f ∧ f.space = .majority ∧ f.kind = .store ∧ f.fixed = none ∧ f.dest = none ∧ f.read = some x ∧ f.page = some p ∧
      (if o.1 = [1] then f.todo.filter (fun i => i != copy) = [] ∧ f.acc = true else f.todo.filter (fun i => i != copy) ≠ [])) ∧
    (∃ (s : State) (id a : Nat), s.hostAdds.find? (fun x => x.1 == id) = some (id, a) ∧ s.pend? id = none ∧ Sparse.wf s.hostMem = true) := by
  refine ⟨⟨wParkS, 0, 3, 1, 0, 0, wParkG, by decide, by decide +kernel, rfl, rfl, by decide +kernel, fun r hr => ?_⟩,
    ⟨wParkS, 0, 3, 0, 0, wParkT, _, wParkG, by decide, by decide +kernel, rfl, rfl, rfl, rfl, rfl, rfl, by decide +kernel, by decide +kernel, by decide +kernel, rfl⟩,
    ⟨{ wParkS with teams := [], mem := wMem.putNat 0x4028 8 2 }, 0, 1, by decide, by decide +kernel, by decide +kernel, by decide +kernel, rfl, by decide⟩, ⟨wParkS, 0, 1, 2, by decide⟩,
    ⟨{ world [teamOf [{ waveOf [laneOf [0]] [groupOf 1 0x1000] with depth := 1 }] [half0]] with ns := 2000000 }, 1, 0, _, _, rfl, rfl, by decide, rfl, by decide +kernel⟩, ?_,
    ⟨{ world [] with hostAdds := [(4, 0x40)] }, 4, 0x40, rfl, rfl, rfl⟩⟩
  · have : r = { cause := 4, detail := 0, lane := 0, addr := 0x30000, head := 0x1000 } := by simpa [wParkG] using hr
    subst this
    exact ⟨rfl, by decide, page_of (by decide +kernel)⟩
  · intro o ho
    simp only [List.mem_cons, List.not_mem_nil, or_false] at ho
    rcases ho with rfl | rfl
    · exact ⟨wMajS (wMajF [1] true), wFlight.id, 1, wMajF [1] true, _, _, by decide +kernel, rfl, rfl, rfl, rfl, rfl, rfl, by decide +kernel⟩
    · exact ⟨wMajS (wMajF [1, 2] false), wFlight.id, 1, wMajF [1, 2] false, _, _, by decide +kernel, rfl, rfl, rfl, rfl, rfl, rfl, by decide +kernel⟩

/-- A stopped team whose group, at a `bkpt` at 0x10000, is frozen. -/
def wBkG : Group := { groupOf 1 0x10000 with st := .frozen, prior := .ready, breaking := true }
def wBkT : Team := { teamOf [waveOf [laneOf [0]] [wBkG]] [half0] with stopped := true }
def wBkS : State :=
  { tabled true (world [wBkT]) with
    mem := Sparse.writeList wMem 0x10000 ((encode (.bkpt nx (pl 0 0 0 0 5 0))).flatMap (fun w => leBytes 4 w.toNat))
    cores := [{ tlb := [⟨0, 1, .page { page0 with w := false, x := true }⟩] }] }

def wBkE : Env := ⟨locOf 1 0 0, wBkT, waveOf [laneOf [0]] [wBkG], wBkG, wBkS.cycOf wBkT (waveOf [laneOf [0]] [wBkG]), 0, wBkT.decodeCtx false, false, []⟩
/-- The team as a debugger's step finds it. -/
def readyT (s : State) : Team := ((s.stepReady 1 0).team? 1).getD wBkT
def readyW (s : State) : Wave := (readyT s).waves.headD (waveOf [] [])
theorem ready_of {s : State} (h : (decide ((s.stepReady 1 0).team? 1 = some (readyT s)) && (readyT s).stopped && decide ((readyT s).waves[0]? = some (readyW s)) &&
      decide (((readyW s).slotsWith (fun g => g.mask.getLsbD 0)).head? = some 0) && decide ((readyW s).idx = 0)) = true) :
    (s.stepReady 1 0).team? 1 = some (readyT s) ∧ (readyT s).stopped = true ∧ (readyT s).waves[0]? = some (readyW s) ∧
      ((readyW s).slotsWith (fun g => g.mask.getLsbD 0)).head? = some 0 ∧ (readyW s).idx = 0 := by
  simp only [Bool.and_eq_true, decide_eq_true_eq] at h
  exact ⟨h.1.1.1.1, h.1.1.1.2, h.1.1.2, h.1.2, h.2⟩
/-- The same team off its core. -/
def wBkS3 : State := { wBkS with teams := [{ wBkT with place := .saved 0 }] }
def wBkS2 : State := { wBkS with teams := [{ wBkT with waves := [waveOf [laneOf [0]] [{ wBkG with prior := .arrived }]] }] }
/-- What `debugDeliver` asks of the state in which the records stand, as a test. -/
def delivers (v : State) (e : Env) (l : List LaneFault) : Bool :=
  match v.team? e.loc.team with
  | some x => (match x.waves[e.loc.wave]? with
    | some y => (match y.slots[e.loc.slot]? with
      | some g => v.recsOut e.team.ctx e.loc.team e.loc.wave e.loc.slot && x.ctx == e.team.ctx && x.stopped && g.recs == l && g.st == .frozen && v.handlerAddr e.team.ctx != 0 && y.handler.isNone
      | none => false)
    | none => false)
  | none => false
theorem deliverable_of {v : State} {e : Env} {l : List LaneFault} (h : delivers v e l = true) : ∃ x y g,
    v.recsOut e.team.ctx e.loc.team e.loc.wave e.loc.slot = true ∧ v.team? e.loc.team = some x ∧ x.waves[e.loc.wave]? = some y ∧ y.slots[e.loc.slot]? = some g ∧ x.ctx = e.team.ctx ∧ x.stopped = true ∧
      g.recs = l ∧ g.st = .frozen ∧ v.handlerAddr e.team.ctx ≠ 0 ∧ y.handler = none := by
  unfold delivers at h
  repeat' split at h
  · simp only [Bool.and_eq_true, Option.isNone_iff_eq_none, beq_iff_eq, bne_iff_ne, ne_eq] at h
    exact ⟨_, _, _, h.1.1.1.1.1.1, by assumption, by assumption, by assumption, h.1.1.1.1.1.2, h.1.1.1.1.2, h.1.1.1.2, h.1.1.2, h.1.2, h.2⟩
  all_goals exact Bool.noConfusion h
theorem delivery : delivers (delivered wBkS wBkE 5) wBkE (causeRecs wBkE 0x0F 5 0 wBkE.head.toNat) = true := by decide +kernel
theorem witness_debugger_delivery : ∃ (s : State) (t w slot : Nat) (e : Env) (h : Head) (p : Payload) (x : Team) (y : Wave) (g : Group), slot < 72 ∧ s.breakAt (locOf t w slot) = some (e, h, p) ∧
      let v := delivered s e p.c.toNat
      v.recsOut e.team.ctx t w slot = true ∧ v.team? t = some x ∧ x.waves[w]? = some y ∧ y.slots[slot]? = some g ∧ x.ctx = e.team.ctx ∧ x.stopped = true ∧
      g.recs = causeRecs e 0x0F p.c.toNat 0 e.head.toNat ∧ g.st = .frozen ∧ v.handlerAddr e.team.ctx ≠ 0 ∧ y.handler = none := by
  obtain ⟨x, y, g, h⟩ := deliverable_of delivery
  exact ⟨wBkS, 1, 0, 0, wBkE, nx, pl 0 0 0 0 5 0, x, y, g, by decide, by decide +kernel, h⟩

theorem witness_debugger_commands :
    (∃ (s : State) (c : Nat), c < s.ctxs.length) ∧
    (∃ (s : State) (t : Nat) (x : Team), s.team? t = some x ∧ (s.ctx x.ctx).dbg = true) ∧
    (∃ (s : State) (t w k : Nat) (x : Team) (y : Wave) (g : Group), s.team? t = some x ∧ x.stopped = true ∧ x.waves[w]? = some y ∧ y.slots[k]? = some g ∧ g.st = .frozen) ∧
    (∃ (s : State) (t w lane k : Nat) (x : Team) (y : Wave), (s.stepReady t w).team? t = some x ∧ x.stopped = true ∧ x.place = .resident ∧ x.waves[w]? = some y ∧
      (y.slotsWith (fun g => g.mask.getLsbD lane)).head? = some k ∧ (y.group k).st = .frozen ∧ (y.group k).prior = .ready) ∧
    (∃ (s : State) (t w lane k : Nat) (x : Team) (y : Wave), (s.stepReady t w).team? t = some x ∧ x.stopped = true ∧ x.place = .resident ∧ x.waves[w]? = some y ∧
      (y.slotsWith (fun g => g.mask.getLsbD lane)).head? = some k ∧ ((y.group k).st ≠ .frozen ∨ (y.group k).prior ≠ .ready)) ∧
    (∃ (s : State) (t w lane k : Nat) (x : Team) (y : Wave), (s.stepReady t w).team? t = some x ∧ (s.stepReady t w).wave? t w = some y ∧ x.stopped = true ∧ x.place ≠ .resident ∧
      (y.slotsWith (fun g => g.mask.getLsbD lane)).head? = some k) ∧
    (∃ (s : State) (t w : Nat) (x : Team) (y : Wave), (s.stepReady t w).team? t = some x ∧ x.stopped = true ∧ x.place = .resident ∧ x.waves[w]? = some y ∧ y.idx = w) ∧
    (∃ (s : State) (t w slot : Nat) (e : Env) (h : Head) (p : Payload), slot < 72 ∧ e.team.stopped = true ∧ s.breakAt (locOf t w slot) = some (e, h, p) ∧ e.g.st = .frozen ∧ e.g.prior = .ready ∧
      e.g.rcd = none ∧ e.lanes ≠ [] ∧ h.leaf.kind = .next) := by
  have hb : wBkS.breakAt (locOf 1 0 0) = some (wBkE, nx, pl 0 0 0 0 5 0) := by decide +kernel
  have h1 := ready_of (s := wBkS) (by decide +kernel)
  have h2 := ready_of (s := wBkS2) (by decide +kernel)
  have h3 := ready_of (s := wBkS3) (by decide +kernel)
  refine ⟨⟨wBkS, 0, by decide⟩, ⟨wBkS, 1, wBkT, rfl, rfl⟩, ⟨wBkS, 1, 0, 0, wBkT, _, wBkG, rfl, rfl, rfl, rfl, rfl⟩, ?_, ?_, ?_, ?_,
    ⟨wBkS, 1, 0, 0, wBkE, nx, pl 0 0 0 0 5 0, by decide, rfl, hb, rfl, rfl, rfl, by decide +kernel, rfl⟩⟩
  · exact ⟨wBkS, 1, 0, 0, 0, readyT wBkS, readyW wBkS, h1.1, h1.2.1, by decide +kernel, h1.2.2.1, h1.2.2.2.1, by decide +kernel, by decide +kernel⟩
  · exact ⟨wBkS2, 1, 0, 0, 0, readyT wBkS2, readyW wBkS2, h2.1, h2.2.1, by decide +kernel, h2.2.2.1, h2.2.2.2.1, .inr (by decide +kernel)⟩
  · exact ⟨wBkS3, 1, 0, 0, 0, readyT wBkS3, readyW wBkS3, h3.1, by decide +kernel, h3.2.1, by decide +kernel, h3.2.2.2.1⟩
  · exact ⟨wBkS, 1, 0, readyT wBkS, readyW wBkS, h1.1, h1.2.1, by decide +kernel, h1.2.2.1, h1.2.2.2.2⟩

/-! ### Queues, launches, teams, containers -/

/-- Queue 0 with its block at 0x1000: TAIL 1, HEAD 0, BASE 0x2000, DEPTH 4, context 0. -/
def wQBlk (tail : Nat) : Mem := ((Mem.putNat [] 0x1000 8 tail).putNat 0x1010 8 0x2000).putNat 0x1018 4 4
def wQSt : QueueSt := { addr := 0x1000, reg := true, read := true, base := 0x2000, depth := 4 }
def wQs (tail : Nat) (x : QueueSt) : State := { world [] with mem := wQBlk tail, queues := [x] }
/-- An entry of one team of 16 lanes and its launch, which may wait for a counter at an address. -/
def wEntN (wait sig : Nat) : Nat := 2 ^ 64 + 2 ^ 96 + 2 ^ 128 + 16 * 2 ^ 160 + 2 ^ 64 * 2 ^ 256 * (wait + 3 * 2 ^ 64 + sig * 2 ^ 128)
def wLaunch (st : LState) (next wait sig : Nat) : Launch := { serial := 1, queue := 0, index := 0, ctx := 0, ent := wEntN wait sig, fn := wFunc, st := st, next := next, waitOk := wait == 0 }

theorem ok_nat_of {x : Except Nat (Nat × State)} (h : (match x with | .ok _ => true | .error _ => false) = true) : ∃ v a, x = .ok (v, a) := by
  match x, h with
  | .ok (v, a), _ => exact ⟨v, a, rfl⟩
theorem error_nat_of {x : Except Nat (Nat × State)} (h : (match x with | .ok _ => true | .error _ => false) = false) : ∃ v, x = .error v := by
  cases x with
  | error v => exact ⟨v, rfl⟩
  | ok v => exact absurd h (by simp)

theorem witness_launch_queues :
    (∀ o ∈ [true, false], ∃ (s : State) (q : Nat), let x := s.queue q; let tail := s.devRead x.addr 8
      s.halted = false ∧ q < 256 ∧ x.reg = true ∧ x.stop = false ∧ x.read = true ∧ s.logFree = true ∧ s.homesUp x.addr 64 = true ∧ 0 < s.nextSerial ∧ (∀ y ∈ s.launches, y.serial < s.nextSerial) ∧
      if o then x.seen ≤ tail ∧ x.head < tail ∧ tail ≤ x.head + x.depth ∧ (s.modQueue q (fun x => { x with seen := tail })).entryUp q = true ∧ Sparse.wf s.mem = true ∧ s.launch? 0 = none else tail < x.seen ∨ x.head + x.depth < tail) ∧
    (∃ (s : State) (q : Nat), let x := s.queue q; let n := s.devRead x.addr 64
      s.halted = false ∧ q < 256 ∧ x.reg = true ∧ s.homesUp x.addr 64 = true ∧ nbits n 64 64 ≤ s.devRead x.addr 8 ∧ s.devRead x.addr 8 ≤ nbits n 64 64 + nbits n 192 32) ∧
    (∃ (s : State) (q addr : Nat), let n := s.devRead addr 64
      s.halted = false ∧ q < 256 ∧ q < s.queues.length ∧ s.homesUp addr 64 = true ∧ nbits n 64 64 ≤ s.devRead addr 8 ∧ s.devRead addr 8 ≤ nbits n 64 64 + nbits n 192 32) ∧
    (∃ (s : State) (c addr fn : Nat), s.halted = false ∧ c < 64 ∧ fn < 64 ∧ c < s.ctxs.length ∧ s.homesUp addr 256 = true) ∧
    (∀ o ∈ [0x100, 0x40000000], ∃ (s : State) (q : Nat) (l : Launch),
      s.halted = false ∧ s.launches.filter (fun l => l.queue == q && l.st = .accepted && entWait l.ent != 0) = [l] ∧ s.launch? l.serial = some l ∧
      if o = 0x100 then ∃ v a, s.waitRead l.ctx l.ent = .ok (v, a) else ∃ k, s.waitRead l.ctx l.ent = .error k) ∧
    (∃ (s : State) (q : Nat) (l : Launch), s.eligible q = some l ∧ q < s.queues.length) := by
  refine ⟨fun o ho => ?_, ⟨wQs 1 wQSt, 0, by decide +kernel⟩, ⟨wQs 1 {}, 0, 0x1000, by decide +kernel⟩, ⟨world [], 0, 0x4000, 0, by decide +kernel⟩, fun o ho => ?_,
    ⟨{ world [] with launches := [wLaunch .accepted 0 0 0] }, 0, wLaunch .accepted 0 0 0, by decide +kernel, by decide⟩⟩
  · simp only [List.mem_cons, List.not_mem_nil, or_false] at ho
    rcases ho with rfl | rfl
    · exact ⟨wQs 1 wQSt, 0, by decide +kernel⟩
    · exact ⟨wQs 6 wQSt, 0, by decide +kernel⟩
  · simp only [List.mem_cons, List.not_mem_nil, or_false] at ho
    rcases ho with rfl | rfl
    · exact ⟨{ tabled false (world []) with launches := [wLaunch .accepted 0 0x100 0] }, 0, wLaunch .accepted 0 0x100 0, rfl, by decide +kernel, by decide +kernel, ok_nat_of (by decide +kernel)⟩
    · exact ⟨{ tabled false (world []) with launches := [wLaunch .accepted 0 0x40000000 0] }, 0, wLaunch .accepted 0 0x40000000 0, rfl, by decide +kernel, by decide +kernel,
        error_nat_of (by decide +kernel)⟩

/-- A module with a started launch of two teams, the first of which runs, or an accepted one. -/
def wTwoEnt : Nat := 2 * 2 ^ 64 + 2 ^ 96 + 2 ^ 128 + 16 * 2 ^ 160
def wDispS (st : LState) (next : Nat) : State := { world [] with launches := [{ wLaunch st next 0 0 with ent := wTwoEnt }] }
def wDispL (st : LState) (next : Nat) : Launch := { wLaunch st next 0 0 with ent := wTwoEnt }
/-- A context with room for one saved image, and a team whose only group sleeps, beside a parked one that needs all the scratchpad. -/
def wSlotS (ts : List Team) : State := { tabled false (world ts) with mem := wMem.putNat 0x409C 4 1 }
def wSleepT : Team := { wEngT half0 with scrSize := 0x180000, waves := [waveOf [laneOf [0]] [{ groupOf 1 0x1000 with st := .asleep, wait := .sleep 0 0x40 0 }]] }
def wParkedT : Team := { wSleepT with id := 2, place := .parked, scrSize := 0x180000 }

theorem stays_of {s : State} {t : Nat} (h : ((s.team? t).elim [] Team.locs).all (fun a => (s.group? a).all (fun g => g.under != .ready || (s.pendingAt a).isNone)) = true) : s.examineTeam t = s :=
  State.examineTeam_stays fun a ha g hg hr => by
    have := List.all_eq_true.mp h a ha
    simpa [hg, hr] using this

def wSavedT : Team := { wEngT half0 with place := .saved 0 }
def wSavedS : State := { wSlotS [wSavedT] with launches := [wLaunch .started 1 0 0] }

theorem witness_teams_come_and_go :
    (∃ (s : State) (core n : Nat) (quads : List Nat) (l : Launch),
      s.nextItem = some (.team n) ∧ s.launch? n = some l ∧ s.halted = false ∧ s.itemRoom (.team n) core = true ∧ s.quadsOk (shapeOf l.ent l.fn) core quads = true ∧ l.next ≠ 0 ∧
      s.teams.all (fun t => t.id != s.nextId) = true ∧ s.fits (s.freshTeam l l.next core quads) = true ∧ s.teams.any (fun y => y.parked && y.shares (s.freshTeam l l.next core quads)) = false) ∧
    (∃ (s : State) (core n q : Nat) (quads : List Nat) (l : Launch),
      s.nextItem = some (.head n q) ∧ s.launch? n = some l ∧ s.halted = false ∧ s.itemRoom (.head n q) core = true ∧ s.quadsOk (shapeOf l.ent l.fn) core quads = true ∧ l.next = 0 ∧ l.st = .accepted) ∧
    (∃ (s : State) (core k : Nat) (quads : List Nat) (x : Team) (l : Launch),
      s.nextItem = some (.saved x.id) ∧ s.team? x.id = some x ∧ x.place = .saved k ∧ s.launch? x.serial = some l ∧ s.halted = false ∧ s.itemRoom (.saved x.id) core = true ∧
      s.quadsOk (shapeOf l.ent l.fn) core quads = true ∧ x.owed = false) ∧
    (∀ o ∈ [true, false], ∃ (s : State) (x : Team) (k : Nat), (if o then s.owesPreempt x = true else s.teams.filter (fun t => t.ctx == x.ctx) = [x]) ∧
      s.team? x.id = some x ∧ x.ctx < s.ctxs.length ∧ still s x = true ∧ s.freeSlot x.ctx = some k ∧ s.mayPreempt x = true ∧ x.halves ≠ [] ∧
      (s.settleForSave x.id).examineTeam x.id = s.settleForSave x.id ∧ (s.settleForSave x.id).imageFits (savedAs x k) = true) ∧
    (∃ (s : State) (x : Team), s.team? x.id = some x ∧ still s x = true ∧ s.examineTeam x.id = s ∧ x.draining = false ∧ s.mayPark x = true ∧
      s.teams.any (fun y => y.shares x && (y.draining || s.mayPark y && decide (y.idle < x.idle))) = false) ∧
    (∃ (s : State) (x : Team), s.team? x.id = some x ∧ x.parked = true ∧ x.fires = [] ∧ x.pops = [] ∧ s.waitsBefore x = false ∧ s.fits x = true) :=
  ⟨⟨wDispS .started 1, 0, 1, [0], wDispL .started 1, by decide +kernel, by decide +kernel, rfl, by decide +kernel, by decide +kernel, by decide, by decide +kernel, by decide +kernel, by decide +kernel⟩,
   ⟨wDispS .accepted 0, 0, 1, 0, [0], wDispL .accepted 0, by decide +kernel, by decide +kernel, rfl, by decide +kernel, by decide +kernel, rfl, rfl⟩,
   ⟨wSavedS, 0, 0, [0], wSavedT, wLaunch .started 1 0 0, by decide +kernel, rfl, rfl, by decide +kernel, rfl, by decide +kernel, by decide +kernel, rfl⟩,
   fun o _ => ⟨{ wSlotS [wSleepT] with wanted := [1] }, wSleepT, 0, by cases o <;> decide +kernel, rfl, by decide, by decide +kernel, by decide +kernel, by decide +kernel, by decide, stays_of (by decide +kernel), by decide +kernel⟩,
   ⟨{ world [wSleepT, wParkedT] with clock := 5000 }, wSleepT, rfl, by decide +kernel, stays_of (by decide +kernel), rfl, by decide +kernel, by decide +kernel⟩,
   ⟨world [wParkedT], wParkedT, rfl, rfl, rfl, rfl, by decide +kernel, by decide +kernel⟩⟩

/-- A launch whose one team has exited, with a signal counter at 0x100 or none; a loaded container in slot 2. -/
def wRetS (sig : Nat) : State := { tabled false (world []) with launches := [wLaunch .started 1 0 sig] }
def wContS : State := { world [] with conts := [{ loaded := true }, { gen := 4 }, { gen := 3, loaded := true }] }

theorem witness_launches_and_containers :
    (∀ sig ∈ [0, 0x100], ∃ (s : State) (n : Nat) (l : Launch),
      s.launch? n = some l ∧ s.halted = false ∧ (l.st = .started ∨ l.st = .replayed) ∧ entTeams l.ent ≤ l.next ∧ s.teams.all (fun t => t.serial != n) = true ∧ l.staged = [] ∧
      s.flights.all (fun f => f.serial != n) = true ∧ (∀ c ∈ s.cores, ∀ y ∈ c.l1, y.dirty ≠ 0 → y.serial ≠ n ∧ y.line ∉ l.wrote) ∧
      let v := s.setLaunch n (fun l => { l with st := .retired, tend := s.ns, snaps := [], marked := [] })
      if sig = 0 then entSig l.ent = 0 else ∃ p, entSig l.ent ≠ 0 ∧ v.xlate l.ctx (entSig l.ent) true = .ok p ∧ v.xlate l.ctx (entSig l.ent) false = .ok p ∧ p.kind ≠ 3 ∧
        v.up p (p.phys (entSig l.ent)) = true ∧ v.poisoned (p.phys (entSig l.ent)) 8 = false ∧ s.launch? 0 = none) ∧
    (∃ (s : State) (n i : Nat) (l : Launch), s.launch? n = some l ∧ l.serial = n ∧ Sparse.wf s.mem = true ∧ writtenCopy s (logbookAt + 64 * (n % 4096)) i) ∧
    (∃ (s : State) (n : Nat) (l : Launch), s.launch? n = some l ∧ s.halted = false ∧ l.st.final = false ∧ l.st ≠ .rolledBack) ∧
    (∃ (s : State) (c : Nat) (l : Launch), (∀ t ∈ s.teams, t.ctx = c → t.onCore = false) ∧ (∀ l ∈ s.launches, l.ctx = c → l.st ≠ .rolledBack) ∧
      l ∈ s.launches ∧ l.ctx = c ∧ l.st.final = false ∧ s.launch? l.serial = some l) ∧
    (∃ m : MoveIn, m.cls ≠ capClass) ∧
    (∃ (s : State) (c : Nat) (m : MoveIn) (x : MovedLaunch), s.halted = false ∧ m.cls = capClass ∧ (s.ctx c).reg = true ∧ m.launches = [x] ∧ m.slots = [] ∧
      s.launch? (nbits x.record 0 64) = none ∧ nbits x.record 220 4 ≤ 6) ∧
    (∃ (s : State) (addr size i : Nat) (c : Container), s.homesUp addr size = true ∧ s.poisoned addr size = false ∧ (∀ d, d < 4 → s.served d = true) ∧ 0 < size ∧
      s.halted = false ∧ s.conts.length ≤ 65536 ∧ (List.range s.conts.length).find? (fun i => !(nth {} s.conts i).loaded) = some i ∧ nth {} s.conts i = c ∧ c.gen < 65536) ∧
    (∃ (s : State) (h : Nat) (c : Container), s.halted = false ∧ s.container? h = some c) := by
  refine ⟨fun sig hs => ?_, ⟨wRetS 0, 1, 0, wLaunch .started 1 0 0, by decide +kernel, rfl, by decide +kernel, by unfold writtenCopy; decide +kernel⟩, ⟨wRetS 0, 1, wLaunch .started 1 0 0, by decide +kernel, rfl, by decide, by decide⟩, ⟨wRetS 0, 0, wLaunch .started 1 0 0, by decide, by decide +kernel, List.mem_cons_self, rfl, by decide, by decide +kernel⟩, ⟨{ cls := 0 }, by decide⟩,
    ⟨wRetS 0, 0, { cls := capClass, launches := [⟨7 + 3 * 2 ^ 220, wEntN 0 0, [], 0, []⟩] }, _, rfl, rfl, rfl, rfl, rfl, by decide +kernel, by decide +kernel⟩,
    ⟨wContS, 0x10000, 256, 1, { gen := 4 }, by decide +kernel, by decide +kernel, by decide +kernel, by decide, rfl, by decide, by decide +kernel, rfl, by decide⟩, ⟨wContS, 2 + 3 * 65536, { gen := 3, loaded := true }, rfl, by decide +kernel⟩⟩
  simp only [List.mem_cons, List.not_mem_nil, or_false] at hs
  rcases hs with rfl | rfl
  · exact ⟨wRetS 0, 1, wLaunch .started 1 0 0, by decide +kernel, rfl, .inl rfl, by decide +kernel, rfl, rfl, rfl, by decide +kernel, (by decide +kernel : entSig (wLaunch .started 1 0 0).ent = 0)⟩
  · exact ⟨wRetS 0x100, 1, wLaunch .started 1 0 0x100, by decide +kernel, rfl, .inl rfl, by decide +kernel, rfl, rfl, rfl, by decide +kernel,
      wBig, by decide +kernel, by decide +kernel, by decide +kernel, by decide, by decide +kernel, by decide +kernel, by decide +kernel⟩

/-! ### Memory sets, errors, dies, the fabric, the host -/

/-- Majority set 0 with three copies of one 64 KiB page in stack 0 of dies 0, 1 and 2. -/
def wBase (i : Nat) : Nat := 0x2000000000 + 0x100000000 * i
def wSet : Nat := 3 + 8 + 4 * 2 ^ 12 + 8 * 2 ^ 16 + wBase 0 * 2 ^ 32 + wBase 1 * 2 ^ 80 + wBase 2 * 2 ^ 128
def wSetW : List Nat := (List.range 8).map (fun i => wSet / 2 ^ (64 * i) % 2 ^ 64) ++ [1]
def wSetS (e len : Nat) : State :=
  { world [] with pools := (List.range 3).map (fun i => ⟨2, i, 0, wBase i, wBase i + 0x100000000⟩), msets := [e], msetLen := [len] }

theorem wSet_line (j i : Nat) (hi : i < 3) : lineOf (copyAddr wSet i (setLine wSet j)) = wBase i / 128 + j := by
  have h0 : nbits wSet 32 48 = wBase 0 := by decide +kernel
  have hc : (nth (0, 0) (setCopies wSet) i).1 = wBase i := by
    rcases i with _ | _ | _ | i
    · decide +kernel
    · decide +kernel
    · decide +kernel
    · omega
  simp only [copyAddr, setLine, lineOf, hc, h0, wBase]
  omega

/-- A byte below the firmware's pages is none of theirs. -/
theorem firm_low (a : Nat) (h : a < 0x2800000000) : firmByte a = false := by
  have h0 : ∀ i, i < 3 → 0x2800000000 ≤ copyAddr firmSet i firmBase := by decide +kernel
  unfold firmByte
  rw [List.any_eq_false]
  intro i hi
  have := h0 i (List.mem_range.mp hi)
  simp only [decide_eq_true_eq, not_and, Nat.not_lt]
  omega

theorem witness_tracking_and_majority_sets :
    (∃ (s : State) (k : Nat) (e : List Nat), k < 128 ∧ k < s.msets.length ∧ s.halted = false ∧ nbit (setWord e) 3 = false) ∧
    (∃ (s : State) (k : Nat) (e : List Nat), k < 128 ∧ k < s.msets.length ∧ s.halted = false ∧ nbit (setWord e) 3 = true ∧ nbit (nth 0 s.msets k) 3 = false ∧
      s.setOk (setWord e) (nth 0 e 8) = true ∧ Sparse.wf s.mem = true ∧ Sparse.wf s.mtags = true) ∧
    (∃ (s : State) (k i base stk : Nat), let e := nth 0 s.msets k
      s.stackAt base = some stk ∧ nbit e 3 = true ∧ i < nbits e 0 3 ∧ s.setOk (moveCopy e i base stk) (nth 0 s.msetLen k) = true ∧ s.halted = false) ∧
    (∃ (s : State) (k : Nat), let e := nth 0 s.msets k
      let at_ (j i : Nat) : Nat := lineOf (copyAddr e i (setLine e j))
      nbit e 3 = true ∧ s.halted = false ∧ Sparse.wf s.mem = true ∧ Sparse.wf s.mtags = true ∧ nth 0 s.msetLen k = 1 ∧
      (∀ j i j' i', j < 512 * nth 0 s.msetLen k → j' < 512 * nth 0 s.msetLen k → i < nbits e 0 3 → i' < nbits e 0 3 → at_ j i = at_ j' i' → j = j' ∧ i = i') ∧
      (∀ j i, j < 512 * nth 0 s.msetLen k → i < nbits e 0 3 → firmByte (128 * at_ j i) = false) ∧
      setMaj e ≤ ((List.range 5).filter (fun i => s.copyOk e i (setLine e 0))).length ∧
      s.copyUp e 0 = true ∧ s.copyOk e 0 (setLine e 0) = false) ∧
    (∃ (s : State) (lo hi fmt : Nat),
      s.halted = false ∧ lo % 65536 = 0 ∧ hi % 65536 = 0 ∧ lo < hi ∧ fmt ≤ 10 ∧ s.pools.any (fun p => decide (p.lo ≤ lo ∧ hi ≤ p.hi)) = true ∧
      s.tracked.any (fun r => decide (r.lo < hi ∧ lo < r.hi)) = true ∧ Sparse.wf s.dir = true) := by
  have h3 : nbits wSet 0 3 = 3 := by decide +kernel
  refine ⟨⟨world [], 0, [7], by decide, by decide, rfl, by decide +kernel⟩, ⟨wSetS 0 0, 0, wSetW, by decide, by decide, rfl, by decide +kernel, by decide +kernel, by decide +kernel, rfl, rfl⟩,
    ⟨wSetS wSet 1, 0, 0, wBase 0 + 0x10000, 0, by decide +kernel⟩, ⟨{ wSetS wSet 1 with poison := [wBase 0 / 128] }, 0, by decide +kernel, rfl, rfl, rfl, rfl, fun j i j' i' hj hj' hi hi' h => ?_, fun j i hj hi => ?_, by decide +kernel⟩,
    ⟨{ world [] with tracked := [⟨0, 0x20000, 2⟩] }, 0, 0x10000, 1, by decide +kernel⟩⟩
  · replace hi : i < 3 := h3 ▸ hi
    replace hi' : i' < 3 := h3 ▸ hi'
    replace hj : j < 512 := hj
    replace hj' : j' < 512 := hj'
    replace h : wBase i / 128 + j = wBase i' / 128 + j' := (wSet_line j i hi).symm.trans ((show lineOf (copyAddr wSet i (setLine wSet j)) = _ from h).trans (wSet_line j' i' hi'))
    simp only [wBase] at h
    omega
  · replace hi : i < 3 := h3 ▸ hi
    replace hj : j < 512 := hj
    refine firm_low _ ?_
    have := wSet_line j i hi
    simp only [wBase] at this
    show 128 * lineOf (copyAddr wSet i (setLine wSet j)) < _
    omega

def wErr (cls addr : Nat) : ErrInfo := ⟨cls, 0, addr⟩
def wLog (time : Nat) : LogRec := ⟨time, 0x80, 0, 0, 1, 0, 1, 0, 0⟩
def wCoreS (c : CoreSt) (sp : List Spare) : State := { world [] with cores := [c], spares := sp }
/-- Sixteen mismatches within an hour. -/
def wWorn : CoreSt := { mism := (List.range 16).map (fun i => 3600000000000 - i) }

theorem witness_errors_and_repairs :
    (∃ (s : State) (r : LogRec) (i : Nat), Sparse.wf s.mem = true ∧ s.errLog = [] ∧ writtenCopy s (errLogAt + 32 * (((s.logError r).errCount - 1) % 1024)) i) ∧
    (∃ (s : State) (r l : LogRec), Sparse.wf s.mem = true ∧ s.errLog.getLast? = some l ∧ l.cls = r.cls ∧ l.unit = r.unit ∧ l.addr = r.addr ∧ s.ns < l.time + 1000000 ∧ s.logBase < s.errCount) ∧
    (∃ (s : State) (l : LogRec), Sparse.wf s.mem = true ∧ s.errLog.getLast? = some l ∧ l.time + 1000000 ≤ s.ns) ∧
    (∃ (s : State) (e : ErrInfo), Sparse.wf s.mem = true ∧ s.errLog = [] ∧ e.cls = 1 ∧ e.loc < 4096 ∧ e.loc < s.cores.length ∧ 2 ≤ (s.countCorrected e.loc (lineOf e.addr)).1) ∧
    (∃ (s : State) (e : ErrInfo), Sparse.wf s.mem = true ∧ s.errLog = [] ∧ e.cls = 1 ∧ e.loc / 4096 = 1 ∧ s.corrLimit ≠ 0 ∧ s.corrLimit ≤ (s.countCorrected e.loc (lineOf e.addr)).2.1) ∧
    (∃ e : ErrInfo, e.cls = 7) ∧
    (∀ n ∈ [2, 0], ∃ (s : State) (e : ErrInfo), e.cls = 12 ∧ s.trackFmt e.addr = some 1 ∧ Sparse.wf s.dir = true ∧ e.loc / 4096 = n) ∧
    (∃ (s : State) (e : ErrInfo), e.cls = 2 ∧ e.loc / 4096 = 1 ∧ Sparse.wf s.mem = true ∧ (s.poolOf e.addr).isSome = true ∧ Sparse.wf s.dir = true ∧
      (s.trackFmt (e.addr / 8192 * 8192)).isSome = true ∧ s.errLog = []) ∧
    (∃ (s : State) (core : Nat) (e : ErrInfo) (l : Launch),
      s.teams.any (fun t => t.serial == e.addr && t.onCore && t.halves.any (fun h => h.core == core)) = true ∧ s.launch? e.addr = some l ∧ l.st.final = false ∧ l.replaying = false) ∧
    (∀ o ∈ [([] : List Spare), [{}], [{}, {}]], ∃ (s : State) (c : Nat), c < 96 ∧ c < s.cores.length ∧ s.halted = false ∧ (s.core c).service = true ∧
      ((s.core c).marked = true ∨ (s.core c).worn = true) ∧ idleCore s c = true ∧ s.sparesOf (c / 24) = List.range o.length) ∧
    (∃ (s : State) (c : Nat), c < 96 ∧ c < s.cores.length ∧ (s.core c).service = true ∧ (s.core c).marked = false ∧ (s.core c).worn = true ∧ idleCore s c = true) ∧
    (∀ n ∈ [0, 1, 2], ∃ (s : State) (stack chan : Nat), stack < 16 ∧ chan < 30 ∧ 32 * stack + chan ∈ s.badChans ∧ nth 0 s.spareChans stack = n) ∧
    (∀ b ∈ [true, false], ∃ (s : State) (c : Nat), c < 96 ∧ c < s.cores.length ∧ s.halted = false ∧ (s.core c).service = true ∧ (s.core c).testing = false ∧
      s.testsOn (c / 24) c = false ∧ s.coreEmpty c = true ∧ (s.core c).l1 = [] ∧ (s.core c).badRow = b) ∧
    (∀ b ∈ [true, false], ∃ (s : State) (i : Nat) (y : Spare), s.spares[i]? = some y ∧ y.free = true ∧ y.testing = b ∧ s.halted = false ∧ s.testsOn (i / 2) (96 + i) = false ∧ s.errLog = []) ∧
    (∃ (s : State) (c : Nat), c < 96 ∧ (s.core c).testing = true) ∧
    (∃ (s : State) (die way : Nat), die < 4 ∧ s.sparedWays.any (fun x => x.1 == die && x.2 / 16 == way / 16) = false) := by
  refine ⟨⟨world [], wLog 0, 0, rfl, rfl, by unfold writtenCopy; decide +kernel⟩, ⟨{ world [] with errLog := [wLog 0], errCount := 1 }, wLog 5, wLog 0, by decide +kernel⟩,
    ⟨{ world [] with errLog := [wLog 0], errCount := 1, ns := 2000000 }, wLog 0, by decide +kernel⟩, ⟨{ world [] with corrected := [(0, 1, 1)] }, wErr 1 0x80, by decide +kernel⟩,
    ⟨{ world [] with corrLimit := 1 }, ⟨1, 4096, 0x80⟩, by decide +kernel⟩, ⟨wErr 7 0, rfl⟩,
    fun n hn => ⟨{ world [] with tracked := [⟨0, 0x10000, 1⟩] }, ⟨12, 4096 * n, 0x2000⟩, rfl, rfl, rfl, by simp⟩,
    ⟨{ world [] with tracked := [⟨0, 0x10000, 1⟩] }, ⟨2, 4096, 0x80⟩, by decide +kernel⟩,
    ⟨{ world [wEngT half0] with launches := [wLaunch .started 1 0 0] }, 0, wErr 3 1, wLaunch .started 1 0 0, by decide +kernel, by decide +kernel, by decide, by decide +kernel⟩, fun o ho => ?_,
    ⟨wCoreS wWorn [], 0, by decide +kernel⟩, fun n _ => ⟨{ world [] with badChans := [3], spareChans := [n] }, 0, 3, by decide, by decide, List.mem_singleton.mpr rfl, rfl⟩,
    fun b _ => ⟨wCoreS { badRow := b } [], 0, by decide, Nat.succ_pos _, rfl, rfl, rfl, by cases b <;> decide +kernel, rfl, rfl, rfl⟩,
    fun b _ => ⟨wCoreS {} [{ testing := b }], 0, { testing := b }, rfl, rfl, rfl, rfl, by cases b <;> decide +kernel, rfl⟩,
    ⟨wCoreS { testing := true } [], 0, by decide⟩, ⟨world [], 0, 0, by decide⟩⟩
  refine ⟨wCoreS { marked := true } o, 0, by decide, Nat.succ_pos _, rfl, rfl, .inl rfl, rfl, ?_⟩
  simp only [List.mem_cons, List.not_mem_nil, or_false] at ho
  rcases ho with rfl | rfl | rfl <;> decide +kernel

/-- A die in a state, all caches empty; the other dies are ACTIVE. -/
def wDie (x : Eps) (teams : List Team) : State := { world teams with eps := [x, {}, {}, {}] }
theorem wDie_quiet (x : Eps) : quietDie (wDie x []) 0 :=
  ⟨rfl, rfl, fun c _ => by rcases c with _ | c <;> rfl⟩

theorem witness_die_commands :
    (∀ st ∈ [DieState.active, .quiescing, .orphaned, .dark], ∃ s : State, s.mx.lock = false ∧ 0 < s.eps.length ∧ (s.ep 0).st = st ∧ quietDie s 0 ∧ (st = .quiescing → s.drained 0 = true)) ∧
    (∃ s : State, s.mx.lock = false ∧ 0 < s.eps.length ∧ (s.ep 0).st = .quiescing ∧ s.drained 0 = false) ∧ (∃ s : State, 0 < s.eps.length ∧ s.mx.lock = true) ∧
    (∃ (s : State) (off : Bool), 0 < s.eps.length ∧ quietDie s 0 ∧ s.drained 0 = true ∧ (s.ep 0).held = some off) ∧
    (∃ s : State, 0 < s.eps.length ∧ quietDie s 0 ∧ s.served 0 = true ∧ s.errLog = []) ∧
    (∀ cold ∈ [true, false], ∃ s : State, 0 < s.eps.length ∧ (s.ep 0).st = .orphaned ∧ s.mx.lock = false ∧ s.halted = false ∧ (∀ c, c < 64 → (s.ctx c).waiting = []) ∧ (s.ep 0).cold = cold) :=
  ⟨fun st _ => ⟨wDie { st := st } [], rfl, Nat.succ_pos _, rfl, wDie_quiet _, fun h => by subst h; decide +kernel⟩, ⟨wDie { st := .quiescing } [wEngT half0], rfl, by decide, rfl, by decide +kernel⟩,
   ⟨{ world [] with mx := { lock := true } }, by decide, rfl⟩, ⟨wDie { st := .quiescing, held := some true } [], true, by decide, wDie_quiet _, by decide +kernel, rfl⟩,
   ⟨wDie {} [], by decide, wDie_quiet _, by decide +kernel, rfl⟩, fun cold _ => ⟨wDie { st := .orphaned, cold := cold } [], Nat.succ_pos _, rfl, rfl, rfl, fun c _ => by rcases c with _ | c <;> rfl, rfl⟩⟩

/-- Requests for module 9, which port 4 reaches, and for this module, number 3: from module 7 on lane 2. -/
def wTxn (dst hops typ : Nat) : Txn := { typ := typ, dst := dst, src := 7, lane := 2, tag := 1, hops := hops, addr := 0x100 }
def wFabS (q : List Txn) : State := { world [] with outQ := q, ports := List.replicate 32 {}, routes := (List.range 10).map (fun _ => { valid := true, ports := 16 }) }
/-- The flit of a kind that a port with a sequence number and an ACK sends. -/
def wFlit (seq ack kind : Nat) (l : List Txn) : Flit := (({ txSeq := seq, ack := ack } : Port).emit kind l).2
/-- Port 0 keeps one flit, of sequence number 0, that has been asked for again some times. -/
def wKeepS (n : Nat) : State := { wFabS [] with ports := { kept := [wFlit 0 4095 0 [wTxn 9 0 0]], row := [(0, n)] } :: List.replicate 31 {} }
/-- The flits that arrive, by the clause that they meet. -/
def wFlits : List (State × Flit) :=
  [(wFabS [], { wFlit 0 4095 0 [] with ok := false }), (wFabS [], wFlit 4000 4095 0 []), (wFabS [], wFlit 1 4095 0 []), (wFabS [], wFlit 0 4095 0 [wTxn 9 2 0]), (wFabS [], wFlit 0 4095 0 [wTxn 9 0 6]),
   (wFabS [], wFlit 0 4095 1 []), (wFabS [], wFlit 0 4095 3 []), (wFabS [], wFlit 0 4095 4 []), (wKeepS 0, wFlit 0 4095 2 []), (wKeepS 7, wFlit 0 4095 2 [])]

theorem witness_flits :
    (∀ x ∈ wFlits, 0 < x.1.ports.length ∧ x.1.portDown 0 = false ∧ x.1.islReset = false ∧ x.1.errLog = []) ∧
    let x (n : Nat) : State := (nth (wFabS [], wFlit 0 0 0 []) wFlits n).1
    let f (n : Nat) : Flit := (nth (wFabS [], wFlit 0 0 0 []) wFlits n).2
    let d (n : Nat) : Nat := ((f n).seq % 4096 + 4096 - (((x n).port 0).ack + 1) % 4096) % 4096
    (flitGood (f 0) = false ∧ (f 0).kind = 0) ∧ (flitGood (f 1) = true ∧ (f 1).kind = 0 ∧ 2048 ≤ d 1) ∧ (flitGood (f 2) = true ∧ (f 2).kind = 0 ∧ d 2 ≠ 0 ∧ d 2 < 2048) ∧
    (∃ t, flitGood (f 3) = true ∧ (f 3).kind = 0 ∧ d 3 = 0 ∧ (f 3).txns = [t] ∧ t.typ ≤ 2 ∧ t.dst ≠ (x 3).mid ∧ t.hops < 3) ∧
    (∃ t, flitGood (f 4) = true ∧ (f 4).kind = 0 ∧ d 4 = 0 ∧ (f 4).txns = [t] ∧ 6 ≤ t.typ) ∧
    (flitGood (f 5) = true ∧ (f 5).kind = 1) ∧ (flitGood (f 6) = true ∧ (f 6).kind = 3) ∧ (flitGood (f 7) = true ∧ 4 ≤ (f 7).kind) ∧
    (flitGood (f 8) = true ∧ (f 8).kind = 2 ∧ (∀ r ∈ ((x 8).port 0).row, r.2 < 7) ∧ keptAfter ((x 8).port 0) (f 8).ack ≠ []) ∧
    (∃ k n, flitGood (f 9) = true ∧ (f 9).kind = 2 ∧ k ∈ keptAfter ((x 9).port 0) (f 9).ack ∧ ((x 9).port 0).row = [(k.seq, n)] ∧ 7 ≤ n) := by
  have g (a b c : Nat) (l : List Txn) : flitGood (wFlit a b c l) = true := Port.emit_good _ _ _
  refine ⟨by decide +kernel, ⟨rfl, by decide +kernel⟩, ⟨g .., by decide +kernel⟩, ⟨g .., by decide +kernel⟩, ⟨wTxn 9 2 0, g .., by decide +kernel⟩, ⟨wTxn 9 0 6, g .., by decide +kernel⟩, ⟨g .., by decide +kernel⟩,
    ⟨g .., by decide +kernel⟩, ⟨g .., by decide +kernel⟩, ⟨g .., by decide +kernel⟩, ⟨wFlit 0 4095 0 [wTxn 9 0 0], 7, g .., rfl, ?_, rfl, by decide⟩⟩
  exact List.mem_filter.mpr ⟨List.mem_singleton.mpr rfl, by decide +kernel⟩

/-- Transactions that arrive: forwarded, turned back, a response that passes, one of no type, and for this module a read, a write of four bytes, a FetchAdd of 32 bits and a write whose
check value fails. What the domain's windows show of this module is a free value, so the rest is met wherever they lead. -/
def wOwn (typ cv : Nat) : Txn := { wTxn 3 0 typ with mask := 15, data := 0x01020304, cv := cv }
theorem witness_transactions :
    (∃ (s : State) (f : Txn), s.islReset = false ∧ s.outQ.find? (fun x => sameWay x f) ≠ some f ∧ f.typ ≤ 2 ∧ f.dst ≠ s.mid ∧ f.hops < 3) ∧
    (∃ (s : State) (f : Txn), s.islReset = false ∧ s.outQ.find? (fun x => sameWay x f) ≠ some f ∧ f.typ ≤ 2 ∧ f.dst ≠ s.mid ∧ 3 ≤ f.hops ∧ f.src ≠ s.mid) ∧
    (∃ (s : State) (f : Txn), s.islReset = false ∧ s.outQ.find? (fun x => sameWay x f) ≠ some f ∧ 3 ≤ f.typ ∧ f.typ < 6 ∧ f.dst ≠ s.mid ∧ f.hops ≤ 3) ∧
    (∃ (s : State) (f : Txn), s.islReset = false ∧ s.outQ.find? (fun x => sameWay x f) ≠ some f ∧ 6 ≤ f.typ ∧ f.port < s.ports.length) ∧
    (∀ typ ∈ [0, 1, 2], ∃ (s : State) (f : Txn), s.islReset = false ∧ s.outQ.find? (fun x => sameWay x f) ≠ some f ∧ f.typ = typ ∧ f.dst = s.mid ∧ f.src ≠ s.mid ∧ f.pois = false ∧
      f.cv = lineCheck f.data ∧ s.launch? 0 = none ∧ Memory.wf s.mem = true ∧ ∀ pa, s.served (s.dieOf pa) = true ∧ s.poison.contains (lineOf pa) = false) ∧
    (∃ (s : State) (f : Txn), s.islReset = false ∧ s.outQ.find? (fun x => sameWay x f) ≠ some f ∧ f.typ = 1 ∧ f.dst = s.mid ∧ f.src ≠ s.mid ∧ f.cv ≠ lineCheck f.data ∧ f.mask % 2 ^ 128 ≠ 0 ∧ f.pois = false ∧
      s.launch? 0 = none ∧ s.errLog = [] ∧ (∀ pa, s.served (s.dieOf pa) = true ∧ s.poison.contains (lineOf pa) = false) ∧ ∃ pa, firmByte (128 * lineOf pa) = false) ∧
    (∃ (s : State) (f : Txn) (p : Nat), s.islReset = false ∧ s.outQ.find? (fun x => sameWay x f) = some f ∧ f.dst ≠ s.mid ∧ s.outPort f.dst f.lane = some p ∧ p < s.ports.length ∧
      s.portDown p = false ∧ (slotUse f).1 ≤ (s.port p).credits.1 ∧ (slotUse f).2 ≤ (s.port p).credits.2) ∧
    (∃ (s : State) (f : Txn), s.islReset = false ∧ s.outQ.find? (fun x => sameWay x f) = some f ∧ f.dst ≠ s.mid ∧ s.outPort f.dst f.lane = none ∧ f.typ ≤ 2 ∧ f.src ≠ s.mid) := by
  have hs (pa : Nat) : (wFabS []).served ((wFabS []).dieOf pa) = true := by
    unfold State.served
    rw [show nth {} (wFabS []).eps ((wFabS []).dieOf pa) = ({} : Eps) by
      generalize (wFabS []).dieOf pa = d
      rcases d with _ | _ | _ | _ | d <;> rfl]
  obtain ⟨n, hn⟩ : ∃ n, n ≠ lineCheck 0x01020304 := ⟨_, Nat.succ_ne_self _⟩
  refine ⟨⟨wFabS [], wTxn 9 0 0, by decide +kernel⟩, ⟨wFabS [], wTxn 9 3 0, by decide +kernel⟩, ⟨wFabS [], wTxn 9 0 3, by decide +kernel⟩, ⟨wFabS [], wTxn 9 0 6, by decide +kernel⟩, fun typ ht => ?_,
    ⟨wFabS [], wOwn 1 n, rfl, by simp [wFabS], rfl, rfl, show 7 ≠ 3 by decide, hn, show 15 % 2 ^ 128 ≠ 0 by decide, rfl, rfl, rfl, fun pa => ⟨hs pa, rfl⟩, 0, by decide +kernel⟩,
    ⟨wFabS [wTxn 9 0 0], wTxn 9 0 0, 4, by decide +kernel⟩, ⟨wFabS [wTxn 12 0 0], wTxn 12 0 0, by decide +kernel⟩⟩
  exact ⟨wFabS [], wOwn typ (lineCheck 0x01020304), rfl, by simp [wFabS], rfl, rfl, show 7 ≠ 3 by decide, rfl, rfl, rfl, rfl, fun pa => ⟨hs pa, rfl⟩⟩

theorem witness_fabric_events :
    (∀ b ∈ [(true, true), (false, true), (true, false)], ∃ s : State, (∀ d, d < 4 → (s.ep d).st = .dark ∨ s.drained d = true) ∧ (∀ p ∈ s.ports, p.en = false) ∧ s.planeBad = b.1 ∧ s.sparePlane = b.2) ∧
    (∃ s : State, (∃ d, d < 4 ∧ (s.ep d).st ≠ .dark ∧ s.drained d = false) ∨ (∃ p ∈ s.ports, p.en = true)) ∧ (∃ s : State, s.islReset = true) ∧
    (∀ b ∈ [true, false], ∃ (s : State) (k lane : Nat), k < 256 ∧ k < s.routes.length ∧ s.islReset = false ∧ s.mx.lock = false ∧ lane < 16 ∧ s.laneBusy k lane = b) ∧
    (∃ (s : State) (p : Nat) (l : LaneFail), p < 32 ∧ p < s.ports.length ∧ l.lane < 9 ∧ l.errs = none ∧ s.errLog = []) ∧
    (∃ (s : State) (p : Nat) (l : LaneFail) (n : Nat), p < 32 ∧ p < s.ports.length ∧ l.lane < 9 ∧ l.errs = some n ∧ s.laneLimit < n) ∧
    (∃ (s : State) (p : Nat) (l : LaneFail) (n : Nat), p < 32 ∧ p < s.ports.length ∧ l.lane < 9 ∧ l.errs = some n ∧ n ≤ s.laneLimit) ∧
    (∀ x ∈ [(false, 0), (true, 1), (true, 5), (true, 6)], ∃ (s : State) (p : Nat), p < 32 ∧ p < s.ports.length ∧ (s.port p).en = x.1 ∧ (s.port p).bad.length = x.2 ∧ (s.port p).spared = false ∧
      ((s.port p).bad.any (fun l => decide (l < 8)) && !(s.port p).bad.contains 8) = decide (x.2 ≠ 0)) := by
  refine ⟨fun b _ => ⟨{ world [] with eps := List.replicate 4 { st := .dark }, ports := [], planeBad := b.1, sparePlane := b.2 }, fun d hd => by match d, hd with | 0, _ | 1, _ | 2, _ | 3, _ => exact .inl rfl,
      nofun, rfl, rfl⟩, ⟨wFabS [], .inr ⟨{}, by decide, rfl⟩⟩, ⟨{ world [] with islReset := true }, rfl⟩, fun b hb => ?_, ⟨wFabS [], 0, ⟨0, none⟩, by decide +kernel⟩, ⟨wFabS [], 0, ⟨0, some 1⟩, 1, by decide +kernel⟩,
    ⟨wFabS [], 0, ⟨8, some 0⟩, 0, by decide +kernel⟩,
    fun x hx => ⟨{ world [] with ports := [{ en := x.1, bad := List.range x.2 }] }, 0, by decide, Nat.succ_pos _, rfl, by simp [State.port, nth], rfl, ?_⟩⟩
  · simp only [List.mem_cons, List.not_mem_nil, or_false] at hb
    rcases hb with rfl | rfl
    · exact ⟨{ wFabS [] with transit := [(9, 2, 7, 1)] }, 9, 2, by decide +kernel⟩
    · exact ⟨wFabS [], 9, 2, by decide +kernel⟩
  · simp only [List.mem_cons, List.not_mem_nil, or_false] at hx
    rcases hx with rfl | rfl | rfl | rfl <;> decide +kernel

/-- A module whose window at 0 of 64 KiB shows device memory at 0x40000. -/
def wWin : Window := ⟨0, 0x10000, 0x40000, none, 0⟩
def wWinS (st : DieState) : State := { world [] with windows := [wWin], eps := List.replicate 4 { st := st } }
theorem witness_host_and_power :
    (∀ st ∈ [DieState.active, .orphaned], ∃ (s : State) (x : HostAccess) (data : List Nat) (w : Window), let pa := w.pa + (x.off - w.lo)
      s.halted = false ∧ s.window? x.fn x.off = some w ∧ x.atom = none ∧ 0 < data.length ∧ x.off / 128 = (x.off + data.length - 1) / 128 ∧ w.mset = none ∧ s.codePage pa = false ∧ s.launch? 0 = none ∧
        s.served (s.dieOf pa) = (st == .active)) ∧
    (∃ (s : State) (x : HostAccess) (data : List Nat) (w : Window), s.halted = false ∧ s.window? x.fn x.off = some w ∧ x.atom = none ∧ 0 < data.length ∧
      x.off / 128 = (x.off + data.length - 1) / 128 ∧ s.codePage (w.pa + (x.off - w.lo)) = true) ∧
    (∀ k ∈ [0, 1, 2], ∃ (s : State) (x : HostAccess) (data : List Nat) (w : Window) (n : Nat), let pa := w.pa + (x.off - w.lo)
      s.halted = false ∧ s.window? x.fn x.off = some w ∧ x.atom = some k ∧ (n = 4 ∨ n = 8) ∧ data.length = (if k = 2 then 2 * n else n) ∧ x.off % n = 0 ∧ pa % n = 0 ∧ w.mset = none ∧
        s.codePage pa = false ∧ s.poisoned pa n = false ∧ s.served (s.dieOf pa) = true ∧ s.launch? 0 = none ∧ Memory.wf s.mem = true) ∧
    (∃ (s : State) (x : HostAccess) (size : Nat), 0 < size ∧ x.off / 128 = (x.off + size - 1) / 128 ∧ s.window? x.fn x.off = none) ∧
    (∃ (s : State) (x : HostAccess) (size : Nat) (w : Window), let pa := w.pa + (x.off - w.lo)
      0 < size ∧ x.off / 128 = (x.off + size - 1) / 128 ∧ s.window? x.fn x.off = some w ∧ w.mset = none ∧ pa % 128 + size ≤ 128 ∧ s.readBuf.all (fun b => b.line != lineOf pa) = true ∧
      s.served (s.dieOf pa) = true) ∧
    (∃ (s : State) (v p : Nat), s.mx.lock = false ∧ v ≠ 0 ∧ 1 ≤ v ∧ v ≤ 168 ∧ p < 32 ∧ p < s.ports.length ∧ s.islReset = false) ∧ (∃ fn : Nat, fn < 64) ∧
    (∃ (s : State) (v : Nat), v % 2 ^ 16 < vecCount (v / 2 ^ 16) ∧ v ∈ s.vecPend ∧ v ∈ s.vecMask) ∧
    (∃ s : State, s.throttle ≤ 22 ∧ (s.throttle = 0 ∨ s.stepAt + 1000000 ≤ s.ns) ∧ s.hotAt + 10000000 ≤ s.ns ∧ s.stepAt + 10000000 ≤ s.ns) ∧
    (∃ s : State, s.throttle ≤ 22 ∧ s.throttle ≠ 0 ∧ s.ns < s.stepAt + 1000000) := by
  refine ⟨fun st hst => ?_, ⟨{ wWinS .active with codes := [⟨0, 0x1000, [0x40000]⟩] }, ⟨0, 0x80, none⟩, [1, 2], wWin, by decide +kernel⟩, fun k hk => ?_, ⟨world [], ⟨0, 0, none⟩, 4, by decide +kernel⟩,
    ⟨wWinS .active, ⟨0, 0x80, none⟩, 8, wWin, by decide +kernel⟩, ⟨wFabS [], 5, 3, by decide +kernel⟩, ⟨0, by decide⟩,
    ⟨{ world [] with vecPend := [3], vecMask := [3] }, 3, by decide⟩, ⟨{ world [] with ns := 10000000, throttle := 3 }, by decide +kernel⟩, ⟨{ world [] with throttle := 3 }, by decide +kernel⟩⟩
  · simp only [List.mem_cons, List.not_mem_nil, or_false] at hst
    rcases hst with rfl | rfl
    · exact ⟨wWinS .active, ⟨0, 0x80, none⟩, [1, 2], wWin, by decide +kernel⟩
    · exact ⟨wWinS .orphaned, ⟨0, 0x80, none⟩, [1, 2], wWin, by decide +kernel⟩
  · simp only [List.mem_cons, List.not_mem_nil, or_false] at hk
    rcases hk with rfl | rfl | rfl
    · exact ⟨wWinS .active, ⟨0, 0x80, some 0⟩, [1, 2, 3, 4], wWin, 4, by decide +kernel⟩
    · exact ⟨wWinS .active, ⟨0, 0x88, some 1⟩, [1, 2, 3, 4, 5, 6, 7, 8], wWin, 8, by decide +kernel⟩
    · exact ⟨wWinS .active, ⟨0, 0x84, some 2⟩, [0, 0, 0, 0, 5, 6, 7, 8], wWin, 4, by decide +kernel⟩

theorem witness_mailbox_and_shutter :
    (∃ (s : State) (n c : Nat), (Instr.attestationReport, n) ∈ [(Instr.attestationReport, 1), (.extendRegister, 2)] ∧ s.mx.cmd = some c ∧ c ≠ n) ∧
    (∃ (s : State) (n : Nat), (Instr.mailboxBadCommand 6, n) ∈ [(Instr.mailboxBadCommand 0, 0), (.mailboxBadCommand 6, 6)] ∧ mayEnd s n ∧ s.mx.lock = true) ∧
    (∃ v : Nat, nbit v 9 = true ∧ v % 256 = 0) ∧ (∃ (s : State) (v : Nat), nbit v 9 = false ∧ s.mx.cmd.isSome = true) ∧ (∃ (s : State) (v : Nat), nbit v 9 = false ∧ s.mx.cmd = none) ∧
    (∀ n ∈ [1, 2, 3, 4, 5], ∀ b ∈ [true, false], ∃ (s : State) (x : BitVec 512), s.mx.lock = false ∧ Sparse.wf s.mx.buf = true ∧ mayEnd s n ∧ s.mx.cmd = some n ∧ s.mx.identity = b ∧ s.mx.m[6]? = some x) ∧
    (∃ s : State, 8 ≤ s.mx.keys.length ∧ mayEnd s 3 ∧ s.mx.lock = false) ∧ (∃ (s : State) (c : Nat), (c = 0 ∨ 5 < c) ∧ mayEnd s c ∧ s.mx.lock = false) ∧
    (∃ (s : State) (alarm d : Nat) (l : Launch), s.mx.lock = false ∧ 1 ≤ alarm ∧ alarm ≤ 5 ∧ s.eps.length = 4 ∧ s.flights = [] ∧ d < 4 ∧ s.served d = true ∧
      l.serial ∈ s.launchesOn d ∧ s.launch? l.serial = some l ∧ l.st.final = false ∧ l.replaying = false) := by
  exact ⟨⟨{ world [] with mx := { cmd := some 2 } }, 1, 2, by decide, rfl, by decide⟩, ⟨{ world [] with mx := { lock := true, cmd := some 6 } }, 6, by decide, .inr rfl, rfl⟩, ⟨0x200, by decide⟩,
    ⟨{ world [] with mx := { cmd := some 2 } }, 1, by decide, rfl⟩, ⟨world [], 1, by decide, rfl⟩,
    fun n _ b _ => ⟨{ world [] with mx := { cmd := some n, identity := b } }, 0, rfl, rfl, .inr rfl, rfl, rfl, rfl⟩,
    ⟨{ world [] with mx := { keys := List.replicate 8 [] } }, by decide, .inl rfl, rfl⟩, ⟨world [], 6, .inr (by decide), .inl rfl, rfl⟩,
    ⟨{ world [wEngT half0] with eps := List.replicate 4 {}, launches := [wLaunch .started 1 0 0] }, 1, 0, wLaunch .started 1 0 0, by decide +kernel⟩⟩

theorem witness_step_keeps_canonical : ∃ s u, Canonical s ∧ Steps s u := ⟨world [], _, ⟨rfl, rfl, rfl, rfl⟩, rfl⟩

/-! ## Values that the spec gives -/

/-- R323: the check value of the nine ASCII bytes "123456789" is 0xE3069283. -/
theorem test_crc32c : crc32c [0x31, 0x32, 0x33, 0x34, 0x35, 0x36, 0x37, 0x38, 0x39] = 0xE3069283 := by decide +kernel

/-- R217, R219: ARRIVED is code 3; the fields of a slot at their places: FMT 1, AGE 5, MASK 3, PC 0x1000, record 4. -/
theorem test_slot_word :
    ({ mask := 3, pc := 0x1000, fmt := 1, rcd := some 4, since := 2, st := .arrived } : Group).word .arrived 7 =
      3 * 2 ^ 2 + 4 * 2 ^ 6 + 1 * 2 ^ 11 + 0x100 * 2 ^ 12 + 3 * 2 ^ 64 + 5 * 2 ^ 128 + 1 * 2 ^ 160 := by decide +kernel

/-- R90: the fields of a landing record at their places: members 7, arrived 1, FMT 2, landing 0x2000, parent 3, valid. -/
theorem test_record_word :
    ({ valid := true, members := 7, arrived := 1, fmt := 2, land := 0x2000, parent := some 3 } : LandRec).word =
      1 * 2 ^ 37 + 3 * 2 ^ 38 + 1 * 2 ^ 43 + 0x200 * 2 ^ 44 + 2 * 2 ^ 96 + 1 * 2 ^ 128 + 7 * 2 ^ 192 := by decide +kernel

/-- R66, R70, R111: NB is admitted on the signed B of `ldexp` and of `lea` VAR 2; a 64-bit `lset` of `l0`, and an exchange whose mask is `zero`, are not. -/
theorem test_forms :
    (Instr.ldexp nx (pl 4 2 0 1 0 0x080)).wf DecodeCtx.max = true ∧ (Instr.lea nx (pl 2 2 0 4 0 0x080)).wf DecodeCtx.max = true ∧
    (Instr.shfl nx (pl 0 6 0 4 2 0)).wf DecodeCtx.max = true ∧ (Instr.shfl nx (pl 0 6 0 4 0xD2 0)).wf DecodeCtx.max = false := by decide +kernel
end Sys2Proof.Tests
end

section
/-!
SUPPORT. Natural numbers as words of `w` bits: bit fields bit by bit, the two's-complement value of a word, and its negation.
-/

namespace Sys2Proof

theorem two_pow_pos_int (n : Nat) : (0 : Int) < 2 ^ n := Int.pow_pos (by decide)

theorem cast_two_pow (n : Nat) : ((2 ^ n : Nat) : Int) = 2 ^ n := Int.natCast_pow 2 n

theorem nbit_eq_testBit (n i : Nat) : nbit n i = n.testBit i := by
  rw [nbit, Nat.shiftRight_eq_div_pow, Nat.testBit_eq_decide_div_mod_eq]
  rfl

theorem testBit_nbits (n lo len i : Nat) : (nbits n lo len).testBit i = (decide (i < len) && n.testBit (lo + i)) := by
  rw [nbits, Nat.testBit_mod_two_pow, Nat.testBit_shiftRight]

theorem nbits_lt (n lo len : Nat) : nbits n lo len < 2 ^ len := Nat.mod_lt _ (Nat.two_pow_pos len)

/-- The value of a word in two's complement is that of the library's bit vectors. -/
theorem toSigned_eq_toInt {w : Nat} (hw : 0 < w) (n : Nat) : toSigned w n = (BitVec.ofNat w n).toInt := by
  have hpow : 2 ^ w = 2 * 2 ^ (w - 1) := (Nat.two_pow_pred_mul_two hw).symm.trans (Nat.mul_comm _ _)
  rw [toSigned, BitVec.toInt_eq_toNat_cond, BitVec.toNat_ofNat]
  by_cases h : n % 2 ^ w < 2 ^ (w - 1)
  · rw [if_pos h, if_pos (by omega)]
  · rw [if_neg h, if_neg (by omega)]

theorem wrapInt_eq_toNat (w : Nat) (x : Int) : wrapInt w x = (BitVec.ofInt w x).toNat := (BitVec.toNat_ofInt x).symm

theorem wrapInt_eq_emod (w : Nat) (x : Int) : wrapInt w x = (x % 2 ^ w).toNat := by
  rw [wrapInt, ofSigned, cast_two_pow]

theorem wrapInt_lt (w : Nat) (x : Int) : wrapInt w x < 2 ^ w := by
  rw [wrapInt_eq_toNat]; exact BitVec.isLt _

theorem toSigned_mod (w n : Nat) : toSigned w (n % 2 ^ w) = toSigned w n := by
  rw [toSigned, toSigned, Nat.mod_mod]

/-- The top bit of a word is the sign of its value. -/
theorem nbit_top_eq_neg {w : Nat} (hw : 0 < w) (n : Nat) : nbit n (w - 1) = decide (toSigned w n < 0) := by
  rw [toSigned_eq_toInt hw, ← BitVec.msb_eq_toInt, BitVec.msb_eq_getLsbD_last, BitVec.getLsbD_ofNat, nbit_eq_testBit,
    decide_eq_true (Nat.sub_lt hw Nat.one_pos), Bool.true_and]

/-- The negation of a word wraps at the least value alone. -/
theorem toSigned_wrapInt_neg {w : Nat} (hw : 0 < w) (n : Nat) :
    toSigned w (wrapInt w (-(n : Int))) = if toSigned w n = -(2 ^ (w - 1)) then toSigned w n else -toSigned w n := by
  have hneg : BitVec.ofNat w (wrapInt w (-(n : Int))) = -BitVec.ofNat w n := by
    rw [wrapInt_eq_toNat, BitVec.ofNat_toNat, BitVec.setWidth_eq, BitVec.ofInt_neg, BitVec.ofInt_natCast]
  have hmin : (BitVec.intMin w).toInt = -(2 ^ (w - 1)) := by
    rw [BitVec.toInt_intMin, Nat.mod_eq_of_lt (Nat.pow_lt_pow_right (by omega) (by omega)), cast_two_pow]
  simp only [toSigned_eq_toInt hw, hneg, ← hmin, BitVec.toInt_inj]
  split
  next h => rw [h, BitVec.neg_intMin]
  next h => exact BitVec.toInt_neg_of_ne_intMin h

/-- An arithmetic shift to the right, bit by bit. -/
theorem testBit_wrapInt_toSigned_div {w : Nat} (hw : 0 < w) (n b : Nat) {i : Nat} (hi : i < w) :
    (wrapInt w (toSigned w n / ((2 ^ b : Nat) : Int))).testBit i = if i + b < w then n.testBit (i + b) else n.testBit (w - 1) := by
  have hshift : wrapInt w (toSigned w n / ((2 ^ b : Nat) : Int)) = ((BitVec.ofNat w n).sshiftRight b).toNat := by
    rw [wrapInt_eq_toNat, toSigned_eq_toInt hw, ← Int.shiftRight_eq_div_pow, BitVec.sshiftRight]
  rw [hshift, BitVec.testBit_toNat, BitVec.getLsbD_sshiftRight, BitVec.msb_eq_getLsbD_last, BitVec.getLsbD_ofNat, BitVec.getLsbD_ofNat, Nat.add_comm b i,
    decide_eq_false (Nat.not_le.2 hi), decide_eq_true (Nat.sub_lt hw Nat.one_pos), Bool.not_false, Bool.true_and, Bool.true_and]
  split
  next h => rw [decide_eq_true h, Bool.true_and]
  next => rfl

/-- A sign extension, bit by bit. -/
theorem testBit_wrapInt_toSigned {m : Nat} (hm : 0 < m) (w n : Nat) {i : Nat} (hi : i < w) :
    (wrapInt w (toSigned m n)).testBit i = if i < m then n.testBit i else n.testBit (m - 1) := by
  have hext : wrapInt w (toSigned m n) = ((BitVec.ofNat m n).signExtend w).toNat := by
    rw [wrapInt_eq_toNat, toSigned_eq_toInt hm, BitVec.signExtend]
  rw [hext, BitVec.testBit_toNat, BitVec.getLsbD_signExtend, BitVec.msb_eq_getLsbD_last, BitVec.getLsbD_ofNat, BitVec.getLsbD_ofNat,
    decide_eq_true hi, decide_eq_true (Nat.sub_lt hm Nat.one_pos), Bool.true_and, Bool.true_and]
  split
  next h => rw [decide_eq_true h, Bool.true_and]
  next => rfl

end Sys2Proof
end

section
/-!
O12. Integer operations: what D receives of an exact value, the corners of division, and the modifiers of a signed source.
-/

namespace Sys2Proof.Machine

open Sys2Proof.Claims

theorem tyBits_pos (v : Nat) : 0 < tyBits v := by
  unfold tyBits; split <;> omega

/-- The two tests of `outInt` are a clamp. -/
theorem clamp_eq_max_min {lo hi : Int} (h : lo ≤ hi) (x : Int) :
    (if x < lo then lo else if x > hi then hi else x) = max lo (min hi x) := by
  split
  · omega
  · split <;> omega

/-- What the model writes of an exact value is what the claims say (R47, R66). -/
theorem outInt_eq_written (p : Payload) (x : Int) : outInt p.v p.clp x = written p x := by
  have hhalf : (0 : Int) < 2 ^ (tyBits p.v - 1) := two_pow_pos_int _
  have hfull : (0 : Int) < 2 ^ tyBits p.v := two_pow_pos_int _
  unfold outInt written
  cases p.clp with
  | false => simp only [if_false, Bool.false_eq_true, wrapInt_eq_emod]
  | true =>
    cases tySigned p.v with
    | true =>
      simp only [if_true, wrapInt_eq_emod, cast_two_pow]
      rw [clamp_eq_max_min (by omega)]
    | false =>
      simp only [if_true, if_false, Bool.false_eq_true, wrapInt_eq_emod, cast_two_pow]
      rw [clamp_eq_max_min (by omega)]

/-- The saturating forms clamp whatever the bit CLP says. -/
theorem outInt_true_eq_written (p : Payload) (x : Int) : outInt p.v true x = written { p with m := p.m ||| 8 } x := by
  have hclp : ({ p with m := p.m ||| 8 } : Payload).clp = true := by
    have h8 : (8 : BitVec 10).getLsbD 3 = true := by decide
    rw [Payload.clp, BitVec.getLsbD_or, h8, Bool.or_true]
  exact (congrArg (outInt p.v · x) hclp.symm).trans (outInt_eq_written _ x)

/-- A value of the type is written as it is, with CLP or without. -/
theorem written_of_mem_range (p : Payload) {x : Int} (hlo : (if tySigned p.v then -(2 ^ (tyBits p.v - 1)) else 0 : Int) ≤ x)
    (hhi : x ≤ if tySigned p.v then 2 ^ (tyBits p.v - 1) - 1 else 2 ^ tyBits p.v - 1) : written p x = (x % 2 ^ tyBits p.v).toNat := by
  simp only [written]
  rw [Int.min_eq_right hhi, Int.max_eq_right hlo, ite_self]

theorem divRem_of_regular {v : Nat} {a b : Int} (hb : b ≠ 0) (h : ¬(tySigned v = true ∧ a = -(2 ^ (tyBits v - 1)) ∧ b = -1)) :
    divRem v a b = (a.tdiv b, a.tmod b) := by
  rw [divRem, if_neg hb, if_neg]
  simpa only [Bool.and_eq_true, beq_iff_eq, cast_two_pow, and_assoc] using h

theorem divRem_of_overflow {v : Nat} {a b : Int} (hs : tySigned v = true) (ha : a = -(2 ^ (tyBits v - 1))) (hb : b = -1) :
    divRem v a b = (a, 0) := by
  have hb0 : b ≠ 0 := by omega
  rw [divRem, if_neg hb0, if_pos]
  simpa only [Bool.and_eq_true, beq_iff_eq, cast_two_pow, and_assoc] using And.intro hs (And.intro ha hb)

theorem divRem_zero (v : Nat) (a : Int) : divRem v a 0 = (if tySigned v then -1 else 2 ^ tyBits v - 1, a) := by
  rw [divRem, if_pos rfl, cast_two_pow]

/-- The least signed value, as the quotient by −1, is written as itself (R101). -/
theorem written_least {p : Payload} (hs : tySigned p.v = true) : written p (-(2 ^ (tyBits p.v - 1))) = 2 ^ (tyBits p.v - 1) := by
  have hhalf : (0 : Int) < 2 ^ (tyBits p.v - 1) := two_pow_pos_int _
  have hpow : (2 : Int) ^ tyBits p.v = 2 ^ (tyBits p.v - 1) * 2 := by
    rw [← Int.pow_succ, Nat.succ_eq_add_one, Nat.sub_add_cancel (tyBits_pos p.v)]
  have hcast : (2 ^ (tyBits p.v - 1) : Int) = ((2 ^ (tyBits p.v - 1) : Nat) : Int) := (cast_two_pow _).symm
  rw [written_of_mem_range p (Int.le_of_eq (if_pos hs)) (by rw [if_pos hs]; omega), ← Int.add_emod_right, hpow,
    Int.emod_eq_of_lt (by omega) (by omega)]
  omega

theorem written_zero (p : Payload) : written p 0 = 0 := by
  have hhalf : (0 : Int) < 2 ^ (tyBits p.v - 1) := two_pow_pos_int _
  have hfull : (0 : Int) < 2 ^ tyBits p.v := two_pow_pos_int _
  rw [written_of_mem_range p (by split <;> omega) (by split <;> omega), Int.zero_emod, Int.toNat_zero]

/-- The quotient by zero is written as all ones, in the signed types too (R101). -/
theorem written_div_zero (p : Payload) : written p (if tySigned p.v then -1 else 2 ^ tyBits p.v - 1) = 2 ^ tyBits p.v - 1 := by
  have hhalf : (0 : Int) < 2 ^ (tyBits p.v - 1) := two_pow_pos_int _
  have hfull : (0 : Int) < 2 ^ tyBits p.v := two_pow_pos_int _
  have hones : ((2 ^ tyBits p.v - 1 : Int)).toNat = 2 ^ tyBits p.v - 1 := by
    have hcast := cast_two_pow (tyBits p.v)
    omega
  have hmod : (if tySigned p.v then -1 else 2 ^ tyBits p.v - 1 : Int) % 2 ^ tyBits p.v = 2 ^ tyBits p.v - 1 := by
    split
    · rw [← Int.add_emod_right, Int.emod_eq_of_lt (by omega) (by omega)]; omega
    · exact Int.emod_eq_of_lt (by omega) (by omega)
  rw [written_of_mem_range p (by split <;> omega) (by split <;> omega), hmod, hones]

section Integer

variable {p : Payload} (hv : p.v < 4) (x : AIn)
include hv

theorem opMov_integer : opMov p x = .ok (written p (srcA p x)) := by
  rw [opMov, if_pos hv, outInt_eq_written]

theorem opAdd_integer : opAdd p x = .ok (written p (srcA p x + srcB p x)) := by
  rw [opAdd, if_pos hv, outInt_eq_written]

theorem opSub_integer : opSub p x = .ok (written p (srcA p x - srcB p x)) := by
  rw [opSub, if_pos hv, outInt_eq_written]

theorem opMul_integer : opMul p x = .ok (written p (srcA p x * srcB p x)) := by
  rw [opMul, if_pos hv, outInt_eq_written]

theorem opDiv_integer : opDiv p x = .ok (written p (divRem p.v (srcA p x) (srcB p x)).1) := by
  rw [opDiv, if_pos hv, outInt_eq_written]

theorem opMin_integer : opMin p x = .ok (written p (if srcA p x ≤ srcB p x then srcA p x else srcB p x)) := by
  rw [opMin, if_pos hv, outInt_eq_written, Int.min_def]

theorem opMax_integer : opMax p x = .ok (written p (if srcA p x ≤ srcB p x then srcB p x else srcA p x)) := by
  rw [opMax, if_pos hv, outInt_eq_written, Int.max_def]

theorem opSel_integer : opSel p x = .ok (written p (if x.c % 2 ^ 32 ≠ 0 then srcA p x else srcB p x)) := by
  simp only [opSel, if_pos hv, outInt_eq_written, bne_iff_ne]

end Integer

theorem opMad_eq (p : Payload) (x : AIn) : opMad p x = .ok (written p (srcA p x * srcB p x + srcC p x)) := by
  rw [opMad, outInt_eq_written]

theorem opMulhi_eq (p : Payload) (x : AIn) : opMulhi p x = .ok (written p (srcA p x * srcB p x / 2 ^ tyBits p.v)) := by
  rw [opMulhi, outInt_eq_written, cast_two_pow]

theorem opRem_eq (p : Payload) (x : AIn) : opRem p x = .ok (written p (divRem p.v (srcA p x) (srcB p x)).2) := by
  rw [opRem, outInt_eq_written]

theorem opAddSat_eq (p : Payload) (x : AIn) : opAddSat p x = .ok (written { p with m := p.m ||| 8 } (srcA p x + srcB p x)) := by
  rw [opAddSat, outInt_true_eq_written]

theorem opSubSat_eq (p : Payload) (x : AIn) : opSubSat p x = .ok (written { p with m := p.m ||| 8 } (srcA p x - srcB p x)) := by
  rw [opSubSat, outInt_true_eq_written]

/-- A signed value negated in its width: the least value stays as it is. -/
def negWrap (w : Nat) (x : Int) : Int := if x = -(2 ^ (w - 1)) then x else -x

/-- R66 on values: the absolute value first, then the negation, each wrapping. -/
theorem toSigned_modInt {w : Nat} (hw : 0 < w) (neg abs : Bool) (n : Nat) :
    toSigned w (modInt w neg abs n) =
      let a := if abs = true ∧ toSigned w n < 0 then negWrap w (toSigned w n) else toSigned w n
      if neg then negWrap w a else a := by
  have hneg (k : Nat) : toSigned w (wrapInt w (-(k : Int))) = negWrap w (toSigned w k) := toSigned_wrapInt_neg hw k
  have habs : toSigned w (if abs && nbit n (w - 1) then wrapInt w (-(n : Int)) else n % 2 ^ w) =
      if abs = true ∧ toSigned w n < 0 then negWrap w (toSigned w n) else toSigned w n := by
    simp only [nbit_top_eq_neg hw, Bool.and_eq_true, decide_eq_true_eq]
    split
    · exact hneg n
    · exact toSigned_mod w n
  simp only [modInt]
  split
  · rw [hneg, habs]
  · exact habs

/-- The signed source A under each pair of its modifiers. -/
theorem srcA_modifiers {p : Payload} (hs : tySigned p.v = true) (x : AIn) :
    let n := tyBits p.v; let A := toSigned n x.a
    (p.aa = false → p.na = false → srcA p x = A) ∧
    (p.aa = true → p.na = false → srcA p x = if A = -(2 ^ (n - 1)) then A else if A < 0 then -A else A) ∧
    (p.aa = false → p.na = true → srcA p x = if A = -(2 ^ (n - 1)) then A else -A) ∧
    (p.aa = true → p.na = true → srcA p x = if A < 0 then A else -A) := by
  intro n A
  have hsrc : srcA p x = if p.na = true then negWrap n (if p.aa = true ∧ A < 0 then negWrap n A else A) else if p.aa = true ∧ A < 0 then negWrap n A else A := by
    rw [srcA, tyVal, if_pos hs, toSigned_modInt (tyBits_pos p.v)]
  rw [hsrc]
  have hhalf : (0 : Int) < 2 ^ (n - 1) := two_pow_pos_int _
  refine ⟨fun ha hn => ?_, fun ha hn => ?_, fun ha hn => ?_, fun ha hn => ?_⟩ <;>
    simp only [ha, hn, if_true, if_false, Bool.false_eq_true, true_and, false_and, negWrap]
  · by_cases hneg : A < 0
    · rw [if_pos hneg, if_pos hneg]
    · rw [if_neg hneg, if_neg hneg, ite_self]
  · by_cases hneg : A < 0
    · rw [if_pos hneg, if_pos hneg]
      split
      next => rfl
      next => rw [if_neg (by omega), Int.neg_neg]
    · rw [if_neg hneg, if_neg hneg, if_neg (by omega)]

end Sys2Proof.Machine

open Sys2Proof Sys2Proof.Machine Sys2Proof.Claims

/-- Settles O12: each operation writes its exact value (`outInt_eq_written`), the corners of R101 are the cases of `divRem`, and the modifiers are
`toSigned_modInt`. -/
theorem integerOperations : Obligations.IntegerOperations := by
  refine ⟨fun p x hv => ?_, fun p x hs => ?_⟩
  · refine ⟨opMov_integer hv x, opAdd_integer hv x, opSub_integer hv x, opMul_integer hv x, opMad_eq p x, opMulhi_eq p x, opMin_integer hv x,
      opMax_integer hv x, fun hb hreg => ⟨?_, ?_⟩, fun hs ha hb => ⟨?_, ?_⟩, fun hb => ⟨?_, ?_⟩, opAddSat_eq p x, opSubSat_eq p x, opSel_integer hv x⟩
    · exact (opDiv_integer hv x).trans (by rw [divRem_of_regular hb hreg])
    · exact (opRem_eq p x).trans (by rw [divRem_of_regular hb hreg])
    · exact (opDiv_integer hv x).trans (by rw [divRem_of_overflow hs ha hb, ha, written_least hs])
    · exact (opRem_eq p x).trans (by rw [divRem_of_overflow hs ha hb, written_zero])
    · exact (opDiv_integer hv x).trans (by rw [hb, divRem_zero, written_div_zero])
    · exact (opRem_eq p x).trans (by rw [hb, divRem_zero])
  · exact srcA_modifiers hs x

end

section
/-!
O13. Bit operations: what each result holds at each bit, the counts, and the legal forms.
-/

namespace Sys2Proof.Machine

/-- A result of `n` bits that holds `f i` at bit `i`. -/
def HasBits (r : ARes) (n : Nat) (f : Nat → Bool) : Prop := ∃ d, r = .ok d ∧ d < 2 ^ n ∧ ∀ i, i < n → d.testBit i = f i

theorem HasBits.bit {r : ARes} {n : Nat} {f : Nat → Bool} (h : HasBits r n f) {i : Nat} (hi : i < n) :
    ∃ d, r = .ok d ∧ d < 2 ^ n ∧ d.testBit i = f i := by
  obtain ⟨d, hr, hd, hf⟩ := h
  exact ⟨d, hr, hd, hf i hi⟩

theorem rawA_lt (p : Payload) (x : AIn) : rawA p x < 2 ^ tyBits p.v := Nat.mod_lt _ (Nat.two_pow_pos _)

theorem rawB_lt (p : Payload) (x : AIn) : rawB p x < 2 ^ tyBits p.v := Nat.mod_lt _ (Nat.two_pow_pos _)

theorem testBit_rawA (p : Payload) (x : AIn) (i : Nat) : (rawA p x).testBit i = (decide (i < tyBits p.v) && x.a.testBit i) :=
  Nat.testBit_mod_two_pow _ _ _

theorem testBit_rawB (p : Payload) (x : AIn) (i : Nat) : (rawB p x).testBit i = (decide (i < tyBits p.v) && x.b.testBit i) :=
  Nat.testBit_mod_two_pow _ _ _

/-! ## Logic -/

theorem opAnd_bits (p : Payload) (x : AIn) : HasBits (opAnd p x) (tyBits p.v) (fun i => x.a.testBit i && x.b.testBit i) :=
  ⟨_, rfl, Nat.and_lt_two_pow _ (rawB_lt p x), fun i hi => by
    rw [Nat.testBit_and, testBit_rawA, testBit_rawB, decide_eq_true hi, Bool.true_and, Bool.true_and]⟩

theorem opOr_bits (p : Payload) (x : AIn) : HasBits (opOr p x) (tyBits p.v) (fun i => x.a.testBit i || x.b.testBit i) :=
  ⟨_, rfl, Nat.or_lt_two_pow (rawA_lt p x) (rawB_lt p x), fun i hi => by
    rw [Nat.testBit_or, testBit_rawA, testBit_rawB, decide_eq_true hi, Bool.true_and, Bool.true_and]⟩

theorem opXor_bits (p : Payload) (x : AIn) : HasBits (opXor p x) (tyBits p.v) (fun i => x.a.testBit i != x.b.testBit i) :=
  ⟨_, rfl, Nat.xor_lt_two_pow (rawA_lt p x) (rawB_lt p x), fun i hi => by
    rw [Nat.testBit_xor, testBit_rawA, testBit_rawB, decide_eq_true hi, Bool.true_and, Bool.true_and]⟩

/-- The complement of a word, bit by bit. -/
theorem testBit_complement {n k i : Nat} (hk : k < 2 ^ n) (hi : i < n) : (2 ^ n - 1 - k).testBit i = !k.testBit i := by
  rw [Nat.sub_sub, Nat.add_comm 1 k, Nat.testBit_two_pow_sub_succ hk, decide_eq_true hi, Bool.true_and]

theorem opAndn_bits (p : Payload) (x : AIn) : HasBits (opAndn p x) (tyBits p.v) (fun i => x.a.testBit i && !x.b.testBit i) :=
  ⟨_, rfl, Nat.lt_of_le_of_lt Nat.and_le_left (rawA_lt p x), fun i hi => by
    rw [Nat.testBit_and, testBit_complement (rawB_lt p x) hi, testBit_rawA, testBit_rawB, decide_eq_true hi, Bool.true_and, Bool.true_and]⟩

theorem opNot_bits (p : Payload) (x : AIn) : HasBits (opNot p x) (tyBits p.v) (fun i => !x.a.testBit i) :=
  ⟨_, rfl, by have := Nat.two_pow_pos (tyBits p.v); omega, fun i hi => by
    rw [testBit_complement (rawA_lt p x) hi, testBit_rawA, decide_eq_true hi, Bool.true_and]⟩

/-! ## Shifts, rotation, reversal -/

theorem opShl_bits (p : Payload) (x : AIn) :
    HasBits (opShl p x) (tyBits p.v) (fun i => decide (x.b % 2 ^ 32 ≤ i) && x.a.testBit (i - x.b % 2 ^ 32)) := by
  by_cases hb : x.b % 2 ^ 32 ≥ tyBits p.v
  · refine ⟨0, by simp only [opShl, if_pos hb], Nat.two_pow_pos _, fun i hi => ?_⟩
    dsimp only
    rw [decide_eq_false (by omega : ¬ x.b % 2 ^ 32 ≤ i), Nat.zero_testBit, Bool.false_and]
  · have hval : opShl p x = .ok (rawA p x * 2 ^ (x.b % 2 ^ 32) % 2 ^ tyBits p.v) := by simp only [opShl, if_neg hb]
    refine ⟨_, hval, Nat.mod_lt _ (Nat.two_pow_pos _), fun i hi => ?_⟩
    rw [Nat.testBit_mod_two_pow, Nat.testBit_mul_two_pow, testBit_rawA, decide_eq_true hi,
      decide_eq_true (by omega : i - x.b % 2 ^ 32 < tyBits p.v), Bool.true_and, Bool.true_and]

/-- A count of n or more shifts every bit out, as the count n does. -/
theorem opShr_bits (p : Payload) (x : AIn) :
    HasBits (opShr p x) (tyBits p.v) (fun i =>
      if i + x.b % 2 ^ 32 < tyBits p.v then x.a.testBit (i + x.b % 2 ^ 32) else tySigned p.v && x.a.testBit (tyBits p.v - 1)) := by
  have hval : opShr p x = .ok (if tySigned p.v then wrapInt (tyBits p.v) (toSigned (tyBits p.v) x.a / ((2 ^ min (x.b % 2 ^ 32) (tyBits p.v) : Nat) : Int))
      else rawA p x / 2 ^ min (x.b % 2 ^ 32) (tyBits p.v)) := rfl
  rw [hval]
  have hclip (i : Nat) : i + min (x.b % 2 ^ 32) (tyBits p.v) < tyBits p.v ↔ i + x.b % 2 ^ 32 < tyBits p.v := by omega
  have hsame {i : Nat} (h : i + x.b % 2 ^ 32 < tyBits p.v) : min (x.b % 2 ^ 32) (tyBits p.v) = x.b % 2 ^ 32 := by omega
  cases hs : tySigned p.v with
  | true =>
    refine ⟨_, rfl, wrapInt_lt _ _, fun i hi => ?_⟩
    rw [if_pos rfl, testBit_wrapInt_toSigned_div (tyBits_pos _) _ _ hi]
    simp only [hclip, Bool.true_and]
    split
    next h => rw [hsame h]
    next => rfl
  | false =>
    refine ⟨_, rfl, Nat.lt_of_le_of_lt (Nat.div_le_self _ _) (rawA_lt p x), fun i hi => ?_⟩
    rw [if_neg Bool.false_ne_true, Nat.testBit_div_two_pow, testBit_rawA, Bool.false_and]
    simp only [hclip]
    split
    next h => rw [hsame h, decide_eq_true h, Bool.true_and]
    next h => rw [decide_eq_false h, Bool.false_and]

/-- The two halves of a rotated word do not overlap: the high bits of A come below, its low bits above. -/
theorem opRot_bits (p : Payload) (x : AIn) :
    HasBits (opRot p x) (tyBits p.v) (fun i => x.a.testBit ((i + (tyBits p.v - x.b % 2 ^ 32 % tyBits p.v)) % tyBits p.v)) := by
  refine ⟨_, rfl, Nat.mod_lt _ (Nat.two_pow_pos _), fun i hi => ?_⟩
  have hb : x.b % 2 ^ 32 % tyBits p.v < tyBits p.v := Nat.mod_lt _ (tyBits_pos _)
  generalize x.b % 2 ^ 32 % tyBits p.v = b at hb ⊢
  have hhigh : rawA p x / 2 ^ (tyBits p.v - b) < 2 ^ b := by
    rw [Nat.div_lt_iff_lt_mul (Nat.two_pow_pos _), ← Nat.pow_add, Nat.add_sub_cancel' (Nat.le_of_lt hb)]
    exact rawA_lt p x
  dsimp only
  rw [Nat.testBit_mod_two_pow, decide_eq_true hi, Bool.true_and, Nat.mul_comm, Nat.testBit_two_pow_mul_add _ hhigh]
  split
  next h =>
    rw [Nat.testBit_div_two_pow, testBit_rawA, Nat.mod_eq_of_lt (by omega)]
    rw [decide_eq_true (by omega), Bool.true_and]
  next h =>
    rw [testBit_rawA, show i + (tyBits p.v - b) = i - b + tyBits p.v by omega, Nat.add_mod_right, Nat.mod_eq_of_lt (by omega)]
    rw [decide_eq_true (by omega), Bool.true_and]

theorem b2n_eq_toNat (b : Bool) : b2n b = b.toNat := by cases b <;> rfl

/-- A sum of weighted bits below 2^n has these bits. -/
theorem sum_bits (f : Nat → Bool) : ∀ n, ((List.range n).map (fun i => b2n (f i) * 2 ^ i)).sum < 2 ^ n ∧
    ∀ i, ((List.range n).map (fun i => b2n (f i) * 2 ^ i)).sum.testBit i = (decide (i < n) && f i)
  | 0 => ⟨Nat.one_pos, fun i => Nat.zero_testBit i⟩
  | n + 1 => by
    obtain ⟨hlt, hbits⟩ := sum_bits f n
    have hb : b2n (f n) < 2 := b2n_eq_toNat (f n) ▸ Bool.toNat_lt (f n)
    rw [List.range_succ, List.map_append, List.sum_append, List.map_singleton, List.sum_singleton, Nat.add_comm, Nat.mul_comm (b2n _)]
    refine ⟨?_, fun i => ?_⟩
    · calc 2 ^ n * b2n (f n) + _ < 2 ^ n * (b2n (f n) + 1) := by rw [Nat.mul_add_one]; exact Nat.add_lt_add_left hlt _
        _ ≤ 2 ^ (n + 1) := by rw [Nat.pow_succ]; exact Nat.mul_le_mul_left _ hb
    · rw [Nat.testBit_two_pow_mul_add _ hlt, hbits, b2n_eq_toNat, Nat.testBit_bool_toNat]
      split
      next h => rw [decide_eq_true h, decide_eq_true (Nat.lt_succ_of_lt h)]
      next h =>
        rcases Nat.lt_or_eq_of_le (Nat.le_of_not_lt h) with h | rfl
        · rw [decide_eq_false (by omega), decide_eq_false (by omega), Bool.false_and, Bool.false_and]
        · rw [Nat.sub_self, decide_eq_true rfl, decide_eq_true (Nat.lt_succ_self n)]

theorem opBrev_bits (p : Payload) (x : AIn) : HasBits (opBrev p x) (tyBits p.v) (fun i => x.a.testBit (tyBits p.v - 1 - i)) := by
  obtain ⟨hlt, hbits⟩ := sum_bits (fun i => nbit (rawA p x) (tyBits p.v - 1 - i)) (tyBits p.v)
  refine ⟨_, rfl, hlt, fun i hi => ?_⟩
  rw [hbits, nbit_eq_testBit, testBit_rawA, decide_eq_true hi, decide_eq_true (by omega), Bool.true_and, Bool.true_and]

/-! ## Counts -/

theorem popcount_eq (n k : Nat) : popcount n k = ((List.range n).filter (fun i => k.testBit i)).length := by
  simp only [popcount, nbit_eq_testBit]

/-- The leading zeros of a nonzero word stand above its highest set bit. -/
theorem leadingZeros_spec {n k : Nat} (hk : k < 2 ^ n) :
    leadingZeros n k ≤ n ∧ k < 2 ^ (n - leadingZeros n k) ∧ (leadingZeros n k < n → k.testBit (n - 1 - leadingZeros n k) = true) := by
  rw [leadingZeros]
  split
  next h => exact ⟨Nat.le_refl n, h ▸ Nat.two_pow_pos _, fun hn => absurd hn (Nat.lt_irrefl n)⟩
  next h =>
    have hlog : Nat.log2 k < n := (Nat.log2_lt h).2 hk
    rw [show n - (n - 1 - Nat.log2 k) = Nat.log2 k + 1 by omega, show n - 1 - (n - 1 - Nat.log2 k) = Nat.log2 k by omega]
    exact ⟨by omega, Nat.lt_log2_self, fun _ => Nat.testBit_log2 h⟩

/-- The trailing zeros of a word end at its first set bit, if it has one. -/
theorem trailingZeros_spec (n k : Nat) :
    trailingZeros n k ≤ n ∧ (∀ i, i < trailingZeros n k → k.testBit i = false) ∧ (trailingZeros n k < n → k.testBit (trailingZeros n k) = true) := by
  simp only [trailingZeros, nbit_eq_testBit, List.head?_filter]
  cases h : (List.range n).find? (fun i => k.testBit i) with
  | none =>
    rw [List.find?_range_eq_none] at h
    exact ⟨Nat.le_refl n, fun i hi => (Bool.not_eq_true' _).mp (h i hi), fun hn => absurd hn (Nat.lt_irrefl n)⟩
  | some d =>
    obtain ⟨hset, hmem, hbelow⟩ := List.find?_range_eq_some.1 h
    exact ⟨Nat.le_of_lt (List.mem_range.1 hmem), fun i hi => (Bool.not_eq_true' _).mp (hbelow i hi), fun _ => hset⟩

/-! ## Fields -/

/-- An extracted field: zeros above it in a natural type, copies of its top bit in a signed one, and nothing at all when it is empty. -/
theorem opBfe_bits (p : Payload) (x : AIn) :
    let n := tyBits p.v; let pos := min (nbits x.b 0 8) n; let len := min (nbits x.b 8 8) (n - pos)
    HasBits (opBfe p x) n (fun i => if i < len then x.a.testBit (pos + i) else tySigned p.v && decide (0 < len) && x.a.testBit (pos + len - 1)) := by
  intro n pos len
  have hfit : pos + len ≤ n := by omega
  have hraw {j : Nat} (hj : j < len) : (nbits (rawA p x) pos len).testBit j = x.a.testBit (pos + j) := by
    rw [testBit_nbits, testBit_rawA, decide_eq_true hj, decide_eq_true (show pos + j < tyBits p.v by omega), Bool.true_and, Bool.true_and]
  have hval : opBfe p x = .ok (if len = 0 then 0 else if tySigned p.v then wrapInt n (toSigned len (nbits (rawA p x) pos len)) else nbits (rawA p x) pos len) := rfl
  rw [hval]
  by_cases hlen : len = 0
  · rw [if_pos hlen]
    refine ⟨_, rfl, Nat.two_pow_pos n, fun i _ => ?_⟩
    dsimp only
    rw [if_neg (by omega), decide_eq_false (by omega), Bool.and_false, Bool.false_and, Nat.zero_testBit]
  have hpos : 0 < len := Nat.pos_of_ne_zero hlen
  rw [if_neg hlen]
  cases hs : tySigned p.v with
  | true =>
    refine ⟨_, rfl, wrapInt_lt _ _, fun i hi => ?_⟩
    rw [if_pos rfl, testBit_wrapInt_toSigned hpos _ _ hi, hraw (by omega : len - 1 < len), ← Nat.add_sub_assoc hpos]
    simp only [hpos, decide_true, Bool.true_and]
    split
    next h => exact hraw h
    next => rfl
  | false =>
    refine ⟨_, rfl, Nat.lt_of_lt_of_le (nbits_lt _ _ _) (Nat.pow_le_pow_right (by omega) (by omega)), fun i hi => ?_⟩
    rw [if_neg Bool.false_ne_true]
    dsimp only
    split
    next h => exact hraw h
    next h => rw [testBit_nbits, decide_eq_false h, Bool.false_and, Bool.false_and, Bool.false_and]

/-- A number whose field of `len` bits at `pos` is replaced. -/
theorem testBit_replace_field (a g pos len i : Nat) :
    (a - nbits a pos len * 2 ^ pos + g % 2 ^ len * 2 ^ pos).testBit i = if pos ≤ i ∧ i < pos + len then g.testBit (i - pos) else a.testBit i := by
  have hlow : a % 2 ^ pos < 2 ^ pos := Nat.mod_lt _ (Nat.two_pow_pos _)
  have hfield : g % 2 ^ len < 2 ^ len := Nat.mod_lt _ (Nat.two_pow_pos _)
  have hsplit : a - nbits a pos len * 2 ^ pos + g % 2 ^ len * 2 ^ pos = 2 ^ pos * (2 ^ len * (a / 2 ^ pos / 2 ^ len) + g % 2 ^ len) + a % 2 ^ pos := by
    have hpos : 2 ^ pos * (a / 2 ^ pos) + a % 2 ^ pos = a := Nat.div_add_mod _ _
    have hlen : 2 ^ len * (a / 2 ^ pos / 2 ^ len) + nbits a pos len = a / 2 ^ pos := by
      rw [nbits, Nat.shiftRight_eq_div_pow]; exact Nat.div_add_mod _ _
    have hparts : 2 ^ pos * (2 ^ len * (a / 2 ^ pos / 2 ^ len)) + nbits a pos len * 2 ^ pos = 2 ^ pos * (a / 2 ^ pos) := by
      rw [Nat.mul_comm (nbits a pos len), ← Nat.mul_add, hlen]
    rw [Nat.mul_add, Nat.mul_comm (g % 2 ^ len)]
    omega
  rw [hsplit, Nat.testBit_two_pow_mul_add _ hlow, Nat.testBit_two_pow_mul_add _ hfield]
  by_cases hbelow : i < pos
  · rw [if_pos hbelow, if_neg (by omega), Nat.testBit_mod_two_pow, decide_eq_true hbelow, Bool.true_and]
  · by_cases hin : i - pos < len
    · rw [if_neg hbelow, if_pos hin, if_pos (by omega), Nat.testBit_mod_two_pow, decide_eq_true hin, Bool.true_and]
    · rw [if_neg hbelow, if_neg hin, if_neg (by omega), Nat.testBit_div_two_pow, Nat.testBit_div_two_pow]
      rw [show i - pos - len + len + pos = i by omega]

theorem opBfi_bits (p : Payload) (x : AIn) :
    let n := tyBits p.v; let pos := min (nbits x.c 0 8) n; let len := min (nbits x.c 8 8) (n - pos)
    HasBits (opBfi p x) n (fun i => if pos ≤ i ∧ i < pos + len then x.b.testBit (i - pos) else x.a.testBit i) := by
  intro n pos len
  have hval : opBfi p x = .ok (rawA p x - nbits (rawA p x) pos len * 2 ^ pos + rawB p x % 2 ^ len * 2 ^ pos) := rfl
  refine ⟨_, hval, Nat.lt_pow_two_of_testBit _ fun i hi => ?_, fun i hi => ?_⟩
  · rw [testBit_replace_field, if_neg (by omega), testBit_rawA, decide_eq_false (show ¬ i < tyBits p.v from Nat.not_lt.2 hi), Bool.false_and]
  · rw [testBit_replace_field, testBit_rawA, testBit_rawB, decide_eq_true (show i < tyBits p.v from hi),
      decide_eq_true (show i - pos < tyBits p.v from Nat.lt_of_le_of_lt (Nat.sub_le _ _) hi), Bool.true_and, Bool.true_and]

end Sys2Proof.Machine

namespace Sys2Proof

/-! ## Legal forms -/

/-- The bit operations of R102. -/
def bitOpcodes : List Opcode := [.and, .or, .xor, .andn, .not, .shl, .shr, .rot, .bfe, .bfi, .popc, .clz, .ctz, .brev]

/-- A legal tree passes the last check of R76, that of variants. -/
theorem Tree.variantOk_of_legal {x : DecodeCtx} {t : Tree} (h : t.illegal? x = none) : t.variantOk x = true := by
  unfold Tree.illegal? at h
  by_cases hp : (!t.placementOk x) = true
  · rw [if_pos hp] at h; contradiction
  by_cases ha : (!t.assignedOk) = true
  · rw [if_neg hp, if_pos ha] at h; contradiction
  by_cases ho : (!t.operandOk x) = true
  · rw [if_neg hp, if_neg ha, if_pos ho] at h; contradiction
  rw [if_neg hp, if_neg ha, if_neg ho] at h
  cases hv : t.variantOk x with
  | true => rfl
  | false => rw [hv, Bool.not_false, if_pos rfl] at h; contradiction

/-- A bit operation has the shape of R102: no modifiers, and the natural types alone but for the shifts and `bfe`. -/
theorem bitOpcode_shape {k : Opcode} (hk : k ∈ bitOpcodes) (x : DecodeCtx) (p : Payload) :
    ∃ n c, k.shape x p = shapeB p (if k ∈ [Opcode.shl, .shr, .bfe] then [0, 1, 2, 3] else [1, 3]) n c := by
  simp only [bitOpcodes, List.mem_cons, List.not_mem_nil, or_false] at hk
  rcases hk with rfl | rfl | rfl | rfl | rfl | rfl | rfl | rfl | rfl | rfl | rfl | rfl | rfl | rfl <;> exact ⟨_, _, rfl⟩

theorem bitOpcode_ofByte {k : Opcode} (hk : k ∈ bitOpcodes) (v : Nat) :
    Opcode.ofByte (BitVec.ofNat 8 k.byte).toNat v = some k ∧ opClass (BitVec.ofNat 8 k.byte).toNat = .A := by
  simp only [bitOpcodes, List.mem_cons, List.not_mem_nil, or_false] at hk
  rcases hk with rfl | rfl | rfl | rfl | rfl | rfl | rfl | rfl | rfl | rfl | rfl | rfl | rfl | rfl <;> exact ⟨rfl, rfl⟩

/-- A payload without modifiers, CLP and SCL has P[14:5] zero. -/
theorem shapeB_bitsOk {p : Payload} {vars : List Nat} {n : Nat} {c : Bool} (h : (shapeB p vars n c).bitsOk .A p = true) : p.m = 0 := by
  simp only [Shape.bitsOk, shapeB, Payload.na, Payload.aa, Payload.nb, Payload.ab, Payload.nc, Payload.ac, Payload.clp, if_true, Bool.false_or,
    Bool.and_eq_true, Bool.not_eq_true', Bool.or_eq_false_iff, beq_iff_eq] at h
  obtain ⟨⟨⟨⟨⟨hm9, hm8⟩, hm7, hm6⟩, hm5, hm4⟩, hm3⟩, hscl⟩ := h
  have hlow (i : Nat) (hi : i < 3) : p.m.getLsbD i = false := by
    have := Nat.testBit_mod_two_pow p.m.toNat 3 i
    rw [show p.m.toNat % 2 ^ 3 = 0 from hscl, decide_eq_true hi, Bool.true_and, Nat.zero_testBit] at this
    exact this.symm
  refine BitVec.eq_of_getLsbD_eq fun i hi => ?_
  rw [show (0 : BitVec 10).getLsbD i = false from BitVec.getLsbD_zero]
  by_cases h3 : i < 3
  · exact hlow i h3
  · match i, hi, h3 with
    | 3, _, _ => exact hm3
    | 4, _, _ => exact hm4
    | 5, _, _ => exact hm5
    | 6, _, _ => exact hm6
    | 7, _, _ => exact hm7
    | 8, _, _ => exact hm8
    | 9, _, _ => exact hm9

/-- The legal forms of a bit operation that stands alone. -/
theorem bitOpcode_legal {x : DecodeCtx} {k : Opcode} {h : Head} {p : Payload} (hk : k ∈ bitOpcodes) (hl : (Tree.one k h p).illegal? x = none) :
    p.m = 0 ∧ p.v < 4 ∧ (k ∈ [Opcode.shl, .shr, .bfe] ∨ p.v = 1 ∨ p.v = 3) := by
  have hv := Tree.variantOk_of_legal hl
  obtain ⟨hbyte, hclass⟩ := bitOpcode_ofByte hk p.v
  obtain ⟨n, c, hs⟩ := bitOpcode_shape hk x p
  simp only [Tree.variantOk, Tree.one, List.all_cons, List.all_nil, Bool.and_true, Op.variantOk, hbyte, hclass, hs, Bool.and_eq_true, and_assoc] at hv
  obtain ⟨hvars, -, -, -, -, hbits, -⟩ := hv
  have hm := shapeB_bitsOk hbits
  have hvar : p.v ∈ if k ∈ [Opcode.shl, .shr, .bfe] then [0, 1, 2, 3] else [1, 3] := List.contains_iff_mem.1 hvars
  split at hvar
  next hmem =>
    have hint : p.v = 0 ∨ p.v = 1 ∨ p.v = 2 ∨ p.v = 3 := by
      simpa only [List.mem_cons, List.not_mem_nil, or_false] using hvar
    exact ⟨hm, by omega, .inl hmem⟩
  next =>
    have hnat : p.v = 1 ∨ p.v = 3 := by
      simpa only [List.mem_cons, List.not_mem_nil, or_false] using hvar
    exact ⟨hm, by omega, .inr hnat⟩

end Sys2Proof

open Sys2Proof Sys2Proof.Machine

/-- Settles O13: each operation's bits, the counts by the first set bit from above and below, and the legal forms by the shape of R102. -/
theorem bitOperations : Obligations.BitOperations := by
  refine ⟨fun p x i _ hi => ?_, fun p x _ => ?_, fun p x _ i hi => ?_, fun x k h p hk hl => bitOpcode_legal hk hl⟩
  · exact ⟨(opAnd_bits p x).bit hi, (opOr_bits p x).bit hi, (opXor_bits p x).bit hi, (opAndn_bits p x).bit hi, (opNot_bits p x).bit hi,
      (opShl_bits p x).bit hi, (opShr_bits p x).bit hi, (opRot_bits p x).bit hi, (opBrev_bits p x).bit hi⟩
  · exact ⟨⟨_, rfl, popcount_eq _ _⟩, ⟨_, rfl, leadingZeros_spec (rawA_lt p x)⟩, ⟨_, rfl, trailingZeros_spec _ _⟩⟩
  · exact ⟨(opBfe_bits p x).bit hi, (opBfi_bits p x).bit hi⟩

end
